-- ==== Sys2Proof/Word.lean ====
section
/-!
DEFINITION. The units the spec counts in: a byte (a character code, a payload byte) and a nine-bit
text position of the copy store (R9).
-/

namespace Sys2Proof

/-- A character code, or one byte of a payload or of a desk link message. -/
abbrev Byte := BitVec 8

/-- One character position of the copy store: bits 7..0 the code, bit 8 the parity bit (R9). -/
abbrev TextCell := BitVec 9

end Sys2Proof
end

