-- ==== Sys2Proof/Syntax.lean ====
section
/-!
DEFINITION. The rows of spec/opcode_table.json as one inductive, and the types of their operands.
A host command's operands are the fields its rule lists (R203 gives their sizes); an event's operands
are what its rule says the part sees of the event. Out-of-range values are representable wherever a
message can carry them, since the rules say how each is answered.
-/

namespace Sys2Proof

/-- A story key: origin station and origin serial (R1). -/
structure Key where
  origin : Nat
  serial : Nat
  deriving DecidableEq, Repr

/-- The address form of a frame or of a command's destination (R29, R198). -/
inductive AddressForm where
  | station
  | role
  deriving DecidableEq, Repr

/-- A destination: a station number or a role number. -/
structure Address where
  form   : AddressForm
  number : Nat
  deriving DecidableEq, Repr

/-- A setting: face, measure in points, size and lead in half-points, indent in units (R100). -/
structure Setting where
  face    : Nat
  measure : Nat
  size    : Nat
  lead    : Nat
  indent  : Nat
  deriving DecidableEq, Repr

/-- One placement as PLAN PAGE carries it (R119, R121). -/
structure PlacementSpec where
  key     : Key
  columns : Nat
  setting : Setting
  budget  : Nat
  deriving DecidableEq, Repr

/-- One edition of the start record: deadline D, warning lead W, close margin K, in minutes (R143). -/
structure EditionSpec where
  deadline : Nat
  lead     : Nat
  margin   : Nat
  deriving DecidableEq, Repr

/-- The start record as SETTLE carries it, before any check or clamp (section 9.4). Codes stand as
the bytes of the message: `rate` 0..3 (25, 50, 100, 200 kbit/s), `policy` 0 AUTO, 1 ASK. -/
structure StartSpec where
  rate         : Nat
  roles        : List Nat
  retry        : Nat
  typesetRole  : Nat
  policy       : Nat
  answerTime   : Nat
  gapTime      : Nat
  clockSource  : Nat
  dayStart     : Nat
  editionCount : Nat
  editions     : List EditionSpec
  screenCount  : Nat
  rowSlot      : Nat
  flashHold    : Nat
  tendWindow   : Nat
  mask         : BitVec 24
  deriving DecidableEq, Repr

/-- A physical upset of one text position of the block an access reads: the bits it turned over since
the block was last accessed (log entry 5). -/
structure Upset where
  position : Nat
  flips    : TextCell
  deriving DecidableEq, Repr

/-- Why the reception of a frame is abandoned (R30). -/
inductive AbandonCause where
  | lengthOver40
  | missingLead
  | longDominant
  deriving DecidableEq, Repr

/-- The commands of the desk link, in the order of their codes 0x01..0x20 (R203). -/
inductive CommandName where
  | openStory | place | readText | dropStory | storyState | resolve
  | lineRetry | lineCounts
  | pass | cancelPass | answerOffer | passTable
  | fit | fitStatus | fitDepth
  | planPage | clearPlan | sendPage | cancelPage | pageTable
  | setClock | clockStatus
  | view | scroll | cursor | sendFlash | screenStatus
  | settle | tend | report | status | restart
  deriving DecidableEq, Repr

/-- The rows of spec/opcode_table.json, in the table's order. -/
inductive Instr where
  /-- Power-on reset or the reset pin; `straps` is the number read from the straps at its end (R197). -/
  | powerOnReset (straps : Nat)
  /-- A response transfer in which the host clocks `clocked` message bytes (R182). -/
  | responseTransfer (clocked : Nat)
  /-- A command transfer begun while READY was low (R183). -/
  | discardedCommandTransfer
  /-- A command transfer that cannot be read; `name` is its command name where that can be read (R181). -/
  | unreadableCommand (name : Option CommandName)
  | openStory (slug : List Byte) (edition : Nat)
  /-- Replace characters `start` to `stop` − 1 by `text` (the rule's from and to, R15). -/
  | place (key : Key) (start stop : Nat) (text : List Byte)
  | readText (key : Key) (offset count : Nat)
  | dropStory (key : Key)
  | storyState (key : Option Key)
  /-- `keep` yes is the choice keep, no the choice drop (R20). -/
  | resolve (key : Key) (keep : Bool)
  | lineRetry
  | lineCounts
  | pass (key : Key) (dest : Address) (keepCarbon : Bool)
  | cancelPass (key : Key)
  /-- `take` yes is the choice take, no the choice decline (R83). -/
  | answerOffer (key : Key) (take : Bool)
  | passTable
  | fit (key : Key) (setting : Setting)
  | fitStatus (face : Option Nat)
  | fitDepth (key : Key) (columns budget : Nat)
  | planPage (slot page edition : Nat) (sendOverset : Bool) (placements : List PlacementSpec)
  | clearPlan (slot : Nat)
  | sendPage (slot : Nat)
  | cancelPage (slot : Nat)
  | pageTable
  | setClock (time : Nat)
  | clockStatus
  /-- `edit` yes is mode EDIT, no is mode READ (R163). -/
  | view (screen : Nat) (key : Option Key) (edit : Bool) (top : Nat)
  | scroll (screen top : Nat)
  | cursor (screen : Nat) (offset : Option Nat)
  | sendFlash (text : List Byte) (dest : Address)
  | screenStatus
  | settle (record : StartSpec)
  | tend (byte : Byte)
  | report
  | status
  | restart
  /-- The completions of store port accesses (R11). `upsets` are the physical upsets of the block
  that the completing read meets (log entry 5). -/
  | rewriteAccessCompletion (upsets : List Upset)
  | readTextAccessCompletion (upsets : List Upset)
  | slipWriteCompletion
  | offerCheckReadCompletion (upsets : List Upset)
  | slipReadCompletion (upsets : List Upset)
  | pageReadCompletion (upsets : List Upset)
  | fitReadCompletion (upsets : List Upset)
  | storeFitRecord
  | lineWalkReadCompletion (upsets : List Upset)
  | renderReadCompletion (upsets : List Upset)
  /-- The line has been recessive for `quiet` whole bit periods in ACTIVE (R37). -/
  | startMarkBegin (quiet : Nat)
  /-- The sender sent 1 and read 0 in bit `bit` (1..7) of the frame, the arbitration field (R38). -/
  | arbitrationLost (bit : Nat)
  /-- The sender sent 1 and read 0 in bit `bit` of the body, after the arbitration field (R39). -/
  | bitError (bit : Nat)
  | driveFault
  /-- A slot end (R29): of the station's own frame, whether the taken and the refused slot read 0 (R53);
  of a received frame, the end of what the station asserts (R33). -/
  | slotEnd (taken refused : Bool)
  /-- The frame end of a frame in reception; `body` is the header, payload and check bits as read,
  bit 1 of R198 first, a 1 as true. -/
  | frameEnd (body : List Bool)
  | frameAbandoned (cause : AbandonCause)
  /-- The line has been seen dominant without a break for `dominant` eighths of T by now (R41). -/
  | stuckLine (dominant : Nat)
  /-- The line has been recessive without a break for `recessive` bit periods in STUCK (R41). -/
  | stuckRelease (recessive : Nat)
  /-- The line has been recessive without a break for `recessive` bit periods in JOINING (R44). -/
  | joinComplete (recessive : Nat)
  | flashDispatch
  | timeMarkDispatch
  | offerDispatch
  | takeDispatch
  | declineDispatch
  | withdrawDispatch
  | widthsDispatch
  | slipDispatch
  /-- The answer timer of outbound entry `entry` (R73). -/
  | answerTimerExpiry (entry : Nat)
  /-- The answer timer of the offer-queue entry for `key` (R84). -/
  | offerQueueTimerExpiry (key : Key)
  /-- The gap timer of inbound entry `entry` (R86). -/
  | gapTimerExpiry (entry : Nat)
  | secondEvent
  | rowSlot
  | holdTimerExpiry
  | tendTimerExpiry
  | lampPhaseToggle
  /-- A dominant level of `dominant` eighths of T, then the lead of a bit `lead` eighths of T after
  its release (R28). -/
  | startMarkRecognised (dominant lead : Nat)
  /-- A dominant level of `dominant` eighths of T that forms no start mark (R26, R28). -/
  | dominantLevelNotStartMark (dominant : Nat)
  deriving DecidableEq, Repr

end Sys2Proof
end

