-- ==== Sys2Proof/WellFormed.lean ====
section
/-!
DEFINITION. Which terms of Instr a partner of the part can send: every field of a command fits the
bytes R203 gives it, and every operand of an event lies in what its rule can present. Ranges that a
rule answers with a refusal (an edition above 8, a measure of 59) are NOT checks here: a message can
carry them and the meaning answers them.
-/

namespace Sys2Proof

/-- Fits one byte. -/
def fitsByte (n : Nat) : Bool := n < 256

/-- Fits two bytes. -/
def fitsTwo (n : Nat) : Bool := n < 65536

/-- Fits three bytes. -/
def fitsThree (n : Nat) : Bool := n < 16777216

/-- A key's bytes: five bits of origin, two bytes of serial (R199). -/
def Key.fits (k : Key) : Bool := k.origin < 32 && fitsTwo k.serial

def Address.fits (a : Address) : Bool := fitsByte a.number

/-- The sizes of a PLACEMENT payload: measure two bytes, the others one (R199). -/
def Setting.fits (t : Setting) : Bool :=
  fitsByte t.face && fitsTwo t.measure && fitsByte t.size && fitsByte t.lead && fitsByte t.indent

def PlacementSpec.fits (p : PlacementSpec) : Bool :=
  p.key.fits && fitsByte p.columns && p.setting.fits && fitsTwo p.budget

def EditionSpec.fits (e : EditionSpec) : Bool :=
  fitsTwo e.deadline && fitsByte e.lead && fitsByte e.margin

def StartSpec.fits (r : StartSpec) : Bool :=
  fitsByte r.rate && fitsByte r.roles.length && r.roles.all fitsByte && fitsByte r.retry &&
  fitsByte r.typesetRole && fitsByte r.policy && fitsTwo r.answerTime && fitsTwo r.gapTime &&
  fitsByte r.clockSource && fitsTwo r.dayStart && fitsByte r.editionCount &&
  fitsByte r.editions.length && r.editions.all EditionSpec.fits && fitsByte r.screenCount &&
  fitsByte r.rowSlot && fitsByte r.flashHold && fitsTwo r.tendWindow

/-- A slug field: at most twelve bytes, none of them the filler 0x00 (R199, R203). -/
def slugFits (slug : List Byte) : Bool := slug.length ≤ 12 && slug.all (· ≠ 0#8)

def Upset.fits (u : Upset) : Bool := u.position < 32

/-- The well-formed terms of Instr. -/
def Instr.wellFormed : Instr → Bool
  | .powerOnReset straps => straps < 32
  | .responseTransfer _ | .discardedCommandTransfer | .unreadableCommand _ => true
  | .openStory slug edition => slugFits slug && fitsByte edition
  | .place key start stop text =>
      key.fits && fitsTwo start && fitsTwo stop && text.length ≤ 32
  | .readText key offset count => key.fits && fitsTwo offset && fitsTwo count
  | .dropStory key => key.fits
  | .storyState key => key.all Key.fits
  | .resolve key _ => key.fits
  | .lineRetry | .lineCounts => true
  | .pass key dest _ => key.fits && dest.fits
  | .cancelPass key => key.fits
  | .answerOffer key _ => key.fits
  | .passTable => true
  | .fit key setting => key.fits && setting.fits
  | .fitStatus face => face.all fitsByte
  | .fitDepth key columns budget => key.fits && fitsByte columns && fitsTwo budget
  | .planPage slot page edition _ placements =>
      fitsByte slot && fitsByte page && fitsByte edition && fitsByte placements.length &&
      placements.all PlacementSpec.fits
  | .clearPlan slot | .sendPage slot | .cancelPage slot => fitsByte slot
  | .pageTable => true
  | .setClock time => fitsThree time
  | .clockStatus => true
  | .view screen key _ top => fitsByte screen && key.all Key.fits && fitsTwo top
  | .scroll screen top => fitsByte screen && fitsTwo top
  | .cursor screen offset => fitsByte screen && offset.all fitsTwo
  | .sendFlash text dest => text.length ≤ 65531 && dest.fits
  | .screenStatus => true
  | .settle record => record.fits
  | .tend _ | .report | .status | .restart => true
  | .rewriteAccessCompletion upsets | .readTextAccessCompletion upsets
  | .offerCheckReadCompletion upsets | .slipReadCompletion upsets | .pageReadCompletion upsets
  | .fitReadCompletion upsets | .lineWalkReadCompletion upsets | .renderReadCompletion upsets =>
      upsets.all Upset.fits
  | .slipWriteCompletion | .storeFitRecord => true
  | .startMarkBegin _ => true
  | .arbitrationLost bit => 1 ≤ bit && bit ≤ 7
  | .bitError bit => 8 ≤ bit
  | .driveFault => true
  | .slotEnd _ _ => true
  | .frameEnd body => 39 ≤ body.length && body.length ≤ 359
  | .frameAbandoned _ => true
  | .stuckLine _ | .stuckRelease _ | .joinComplete _ => true
  | .flashDispatch | .timeMarkDispatch | .offerDispatch | .takeDispatch | .declineDispatch
  | .withdrawDispatch | .widthsDispatch | .slipDispatch => true
  | .answerTimerExpiry entry => entry < 4
  | .offerQueueTimerExpiry key => key.fits
  | .gapTimerExpiry entry => entry < 2
  | .secondEvent | .rowSlot | .holdTimerExpiry | .tendTimerExpiry | .lampPhaseToggle => true
  | .startMarkRecognised dominant lead => 12 ≤ dominant && dominant ≤ 20 && lead ≤ 16
  | .dominantLevelNotStartMark _ => true

end Sys2Proof
end

