-- ==== Sys2Proof/Decode.lean ====
section
/-!
DEFINITION. The command that a word spells by the bits of spec/opcode_table.json. No row of the table
has bits or fields, so no word spells a command (log entry 23). The messages by which a host sends its
commands are in Machine/Messages.lean.
-/

namespace Sys2Proof

/-- The row that `nbits` bits `w` spell by the table. -/
def decodeTableWord (_nbits _w : Nat) : Option Instr := none

end Sys2Proof
end

