-- ==== Sys2Proof/Config.lean ====
section
/-!
DEFINITION. What the spec gives no value for. Each constant is opaque: it has no body, so no proof
can see a value of it and a claim holds whatever it is. A free value that may differ from use to use
takes the number of the use (State.freeReads).
-/

namespace Sys2Proof.Config

/-- DESIGN CHOICE (log entry 6). The milliseconds since a running timer was started, at use `n`. No
rule counts them; the model keeps the time left within the window the timer runs for. -/
opaque elapsed (n : Nat) : Nat

/-- DESIGN CHOICE (log entry 7). The name byte of the reply to a command transfer whose command name
cannot be read (R181 gives the reply's result and no name), at use `n`. -/
opaque unreadName (n : Nat) : Byte

/-- DESIGN CHOICE (log entry 8). The byte that stands for a field in a response's "field named"
(R203 gives its size and place and no numbering), for the field numbered `n` by the model. -/
opaque fieldCode (n : Nat) : Byte

/-- DESIGN CHOICE (log entry 30). The byte that stands for the requesters of a request in flight that the
page engine has withdrawn from and the host never asked for (R103); R101 and R203 number host, page engine
and both. -/
opaque noRequester : Byte

/-- DESIGN CHOICE (log entry 32). The width, in units, of a code outside the table of R99, which only an
upset that the parity cannot see brings to a fit; `widths` is the table of a KNOWN face. -/
opaque strayWidth (widths : Option (List Nat)) (code : Byte) : Nat

end Sys2Proof.Config
end

