-- ==== Sys2Proof/Machine/State.lean ====
section
/-!
DEFINITION. The state of the part as plain data, block by block as section 2 of 00_scope.md lists
them, and the state right after reset. Each field cites the rule that names it.
-/

namespace Sys2Proof.Machine

/-- Why the machine stops with a fault. NOTHING RAISES ONE: the spec gives the part no exception and
no undefined operation; a command that cannot be carried out is answered with a refusal code and line
and store faults raise notices. The type has no constructor. Safe: no run of the model stops. -/
inductive Fault where
  deriving DecidableEq, Repr

/-- Why a row has no meaning. -/
inductive Refusal where
  /-- Raised only by a row of the opcode table that has no meaning in Dispatch.lean. Safe: the model
  stops where the part goes on. No row raises it now. -/
  | notModelled (mnemonic : String)
  deriving DecidableEq, Repr

/-! ## Copy store (R1 to R24) -/

/-- The text RAM: (address, cell) pairs, address 32 × block + position, in the canonical form
`Memory.wf` (Ops.lean): addresses strictly rising, no cell equal to what an unlisted one reads as. -/
abbrev Memory := List (Nat × TextCell)

/-- Custody of a story here (R4), with the doubt carbon of a story in DOUBT. -/
inductive Custody where
  | held
  | carbon
  | outbound
  | doubt (carbon : Bool)
  deriving DecidableEq, Repr

/-- The flags of a fit result (R99, R110, R111). -/
structure FitFlags where
  estimated : Bool
  overwide  : Bool
  saturated : Bool
  deriving DecidableEq, Repr

/-- The stored result of a fit (R106, R111). -/
structure FitRecord where
  setting : Setting
  lines   : Nat
  flags   : FitFlags
  deriving DecidableEq, Repr

/-- Received-from: the sender and slip total of the pass that brought a story (R3). -/
structure Received where
  station : Nat
  slips   : Nat
  deriving DecidableEq, Repr

/-- A story record (R3). -/
structure Story where
  key          : Key
  slug         : List Byte
  edition      : Nat
  custody      : Custody
  length       : Nat
  chain        : List Nat
  damaged      : Bool
  lock         : Option Nat
  fit          : Option FitRecord
  receivedFrom : Option Received
  inEdit       : Bool
  deriving DecidableEq, Repr

/-- The copy store. A reservation stands at the number of its inbound entry and reserves one story
entry (R7); `marks` are the blocks that carry a damage mark (R9). -/
structure Store where
  stories       : List Story
  reservations  : List (Option (List Nat))
  pool          : List Nat
  marks         : List Nat
  text          : Memory
  serial        : Nat
  substitutions : Nat
  deriving DecidableEq, Repr

/-! ## The store port (R11) -/

/-- What an access is for, which fixes the row that completes it. -/
inductive Purpose where
  /-- Write of slip `index` of the pass numbered `pass` at inbound entry `entry` (R61). -/
  | slipWrite (entry pass index : Nat) (codes : List Byte)
  /-- Read for the story check of the OFFER of outbound entry `entry` (R68). -/
  | checkRead (entry : Nat)
  /-- Read for a slip of outbound entry `entry` (R74). -/
  | slipRead (entry : Nat)
  /-- Read of old chain block `index` in a PLACE rewrite (R16). -/
  | rewriteRead (index : Nat)
  /-- Write of chain block `index` in a PLACE rewrite (R16). -/
  | rewriteWrite (index : Nat)
  | readText
  | pageRead
  | fitRead
  | walkRead
  | renderRead
  deriving DecidableEq, Repr

/-- One access: positions `first` to `first + count − 1` of one block. `aside` is yes once the
operation that made it has ended, so that its characters are set aside (R11). -/
structure Access where
  purpose : Purpose
  block   : Nat
  first   : Nat
  count   : Nat
  aside   : Bool
  deriving DecidableEq, Repr

/-- The port: the access in progress and one waiting request for each requester, in grant order. -/
structure Port where
  busy : Option Access
  slip : Option Access
  desk : Option Access
  page : Option Access
  fit  : Option Access
  row  : Option Access
  deriving DecidableEq, Repr

/-! ## Line section and line traffic (R25 to R65) -/

inductive LineState where
  | dormant | joining | active | listenOnly | stuck
  deriving DecidableEq, Repr

/-- What the station asserts in the two slots of the frame it received last (R33). -/
inductive SlotDrive where
  | neither | taken | refused
  deriving DecidableEq, Repr

structure Line where
  state       : LineState
  recorded    : Option LineState
  quiet       : Nat
  join        : Nat
  recessive   : Nat
  /-- How long the dominant level on the line has lasted, in eighths of T, as the rows tell it (R41; log
  entry 11). -/
  dominantRun : Nat
  receiving   : Bool
  slot        : SlotDrive
  deriving DecidableEq, Repr

/-- The frame kinds of section 2.6. -/
inductive FrameKind where
  | flash | timeMark | offer | take | decline | withdraw | slip
  | pageHead | placement | setText | pageEnd | pageDrop | widths
  deriving DecidableEq, Repr

/-- A frame as it stands in the out queue; its class is its kind's and its source is put in at each
attempt (R49). -/
structure OutFrame where
  kind    : FrameKind
  dest    : Address
  payload : List Byte
  deriving DecidableEq, Repr

/-- A frame as read from the line: every header field as its bits give it (R29, R198). -/
structure Frame where
  cls     : Nat
  source  : Nat
  kind    : Nat
  dest    : Address
  payload : List Byte
  deriving DecidableEq, Repr

/-- The owners of the out queue's shares (R50). `take` is the answer sender holding the TAKE of an
inbound entry (R80), `answer` the answer sender holding a DECLINE or WITHDRAW. -/
inductive Owner where
  | passEntry (entry : Nat)
  | page
  | take (inbound : Nat)
  | answer
  | flash
  | clock
  deriving DecidableEq, Repr

/-- The outcomes of an attempt that did not deliver its frame (R53). `partly` is PARTIAL. -/
inductive Cause where
  | refused | partly | noTaker | bitError
  deriving DecidableEq, Repr

/-- An out queue entry (R49); its age is its position. `withdrawing` is yes once its owner has
withdrawn it while it was ON LINE (R55). -/
structure OutEntry where
  frame       : OutFrame
  owner       : Owner
  onLine      : Bool
  attempts    : Nat
  losses      : Nat
  refusals    : Nat
  lastCause   : Option Cause
  withdrawing : Bool
  deriving DecidableEq, Repr

/-- The inbound pass for which a stored SLIP was taken: its entry and the number of the pass. -/
structure InboundRef where
  entry : Nat
  pass  : Nat
  deriving DecidableEq, Repr

/-- A full receive slot (R57). `handed` is yes once a stored SLIP has been handed to the slip
writer (R61). -/
structure RxSlot where
  kind    : FrameKind
  source  : Nat
  dest    : Address
  payload : List Byte
  inbound : Option InboundRef
  handed  : Bool
  deriving DecidableEq, Repr

/-- The seven line counts (R62). -/
structure LineCounts where
  good          : Nat
  checkFailures : Nat
  unknownKinds  : Nat
  refusedFull   : Nat
  sent          : Nat
  failed        : Nat
  arbLosses     : Nat
  deriving DecidableEq, Repr

structure Traffic where
  queue  : List OutEntry
  slots  : List RxSlot
  counts : LineCounts
  deriving DecidableEq, Repr

/-! ## Pass engine (R66 to R95) -/

/-- The DECLINE reasons (R81, R199). -/
inductive DeclineReason where
  | unattended | heldHere | locked | busy | noRoom | desk | noAnswer
  deriving DecidableEq, Repr

/-- The causes of an outbound entry's FAILED (R66). -/
inductive PassCause where
  | line (cause : Cause)
  | damaged
  deriving DecidableEq, Repr

inductive PassOutcome where
  | delivered
  | declined (reason : DeclineReason)
  | noAnswer
  | failed (cause : PassCause)
  | unconfirmed
  | cancelled
  | abandoned
  deriving DecidableEq, Repr

inductive PassPhase where
  | offering | sending | ended
  deriving DecidableEq, Repr

/-- An outbound entry in use (R66). `storyCheck` is the running register while the check reads go on
(R68). `reading` is the chain block the preparation in progress reads next, absent when none is in
progress; `ready` is a built frame that waits for the entry's share (R68, R74); `offered` is yes once
the OFFER has been inserted (R70). -/
structure Pass where
  key          : Key
  dest         : Address
  keepCarbon   : Bool
  phase        : PassPhase
  storyCheck   : BitVec 16
  slipTotal    : Nat
  taker        : Option Nat
  nextSlip     : Nat
  declines     : Nat
  timer        : Bool
  outcome      : Option PassOutcome
  endOrder     : Nat
  reading      : Option Nat
  ready        : Option OutFrame
  offered      : Bool
  deriving DecidableEq, Repr

/-- What an OFFER says of a story (R79, R82, R85). -/
structure Offer where
  key        : Key
  slug       : List Byte
  edition    : Nat
  length     : Nat
  slipTotal  : Nat
  storyCheck : BitVec 16
  deriving DecidableEq, Repr

/-- An inbound entry in use (R85); its reservation is the store's. `pass` is the model's number of
the pass, by which stored slips refer to it (R61). -/
structure Inbound where
  offer     : Offer
  sender    : Nat
  byHost    : Bool
  confirmed : Bool
  expected  : Nat
  running   : BitVec 16
  complete  : Bool
  timer     : Bool
  pass      : Nat
  deriving DecidableEq, Repr

/-- An offer-queue entry (R82); its answer timer runs while it is in the queue. -/
structure QueuedOffer where
  offer  : Offer
  source : Nat
  deriving DecidableEq, Repr

structure PassEngine where
  outbound : List (Option Pass)
  inbound  : List (Option Inbound)
  offers   : List QueuedOffer
  nextEnd  : Nat
  nextPass : Nat
  deriving DecidableEq, Repr

/-! ## Line breaking and the fit engine (R96 to R118) -/

/-- A character placed on a line, with its offset in the story's text. -/
structure Item where
  code   : Byte
  offset : Nat
  deriving DecidableEq, Repr

/-- An open line (R109): its capacity and what it holds, separators included. -/
structure OpenLine where
  capacity : Nat
  items    : List Item
  deriving DecidableEq, Repr

/-- A closed line. `mark` is the offset of the paragraph mark that closed it, if one did; `start` is
the screen line's start offset (R114). -/
structure ClosedLine where
  items : List Item
  mark  : Option Nat
  start : Nat
  deriving DecidableEq, Repr

/-- The line-filling procedure between two characters. `opened` is yes once the paragraph has begun,
`first` while its first line has not been opened; `gap` is the first space since the last word on the
open line; `word` is a word not yet known to join it; `inWord` is yes inside a word. -/
structure Breaker where
  opened : Bool
  first  : Bool
  line   : Option OpenLine
  gap    : Option Nat
  word   : List Item
  inWord : Bool
  deriving DecidableEq, Repr

/-- A face's width table, by part (R96); a part not received holds no widths. -/
structure Face where
  part0 : Option (List Nat)
  part1 : Option (List Nat)
  part2 : Option (List Nat)
  deriving DecidableEq, Repr

structure FitRequest where
  key     : Key
  setting : Setting
  host    : Bool
  page    : Bool
  deriving DecidableEq, Repr

/-- A run whose reads go on (R104). `table` is the widths of a KNOWN face, absent for estimated. -/
structure FitReading where
  table    : Option (List Nat)
  capacity : Nat
  firstCap : Nat
  length   : Nat
  block    : Nat
  breaker  : Breaker
  lines    : Nat
  overwide : Bool
  deriving DecidableEq, Repr

/-- The run of the oldest request: held for a story in edit, reading, or waiting for the store's
answer after `blocks` reads (R104, R106, R115). `widthsSince` is yes once a WIDTHS frame for the face
has been applied while it waited, `textSince` once the store has told of a change of the story's text
while it waited (log entry 26). -/
inductive Run where
  | held
  | reading (r : FitReading)
  | storing (record : FitRecord) (blocks : Nat) (widthsSince textSince : Bool)
  deriving DecidableEq, Repr

inductive FitOutcome where
  | done | stale | noStory
  deriving DecidableEq, Repr

structure LastFit where
  key     : Key
  setting : Setting
  outcome : FitOutcome
  deriving DecidableEq, Repr

structure FitEngine where
  faces   : List Face
  queue   : List FitRequest
  run     : Option Run
  waiting : Option (Key × Setting)
  editKey : Option Key
  last    : Option LastFit
  deriving DecidableEq, Repr

/-! ## Page engine (R119 to R140) -/

inductive PageCause where
  | line (cause : Cause)
  | fitUnsettled
  | damaged
  deriving DecidableEq, Repr

inductive PlanState where
  | planned | queued | fitting | sending
  | sent | failed (cause : PageCause) | overset | dropped | cancelled
  deriving DecidableEq, Repr

/-- What the fit check found for a placement (R119, R128). -/
structure PlacementResult where
  lines       : Nat
  flags       : FitFlags
  columnLines : Nat
  depth       : Nat
  overset     : Nat
  deriving DecidableEq, Repr

structure Placement where
  key     : Key
  columns : Nat
  setting : Setting
  budget  : Nat
  stale   : Nat
  result  : Option PlacementResult
  deriving DecidableEq, Repr

/-- A page plan in a slot that is not EMPTY (R119). -/
structure Plan where
  page        : Nat
  edition     : Nat
  sendOverset : Bool
  placements  : List Placement
  state       : PlanState
  late        : Bool
  deriving DecidableEq, Repr

inductive PageStep where
  | head | placement | text | finish
  deriving DecidableEq, Repr

inductive FrameInHand where
  | none | preparing | queued
  deriving DecidableEq, Repr

inductive DropReason where
  | cancelled | closed | damaged
  deriving DecidableEq, Repr

/-- The page transfer record (R130). -/
structure Transfer where
  plan      : Option Nat
  step      : PageStep
  placement : Nat
  chunk     : Nat
  left      : Nat
  sent      : Nat
  frame     : FrameInHand
  drop      : Option DropReason
  deriving DecidableEq, Repr

/-- The page engine. `ready` is a built PAGE HEAD that waits for a pending drop to clear, `dropReady`
a built PAGE DROP that waits for the page share (R134). -/
structure PageEngine where
  plans       : List (Option Plan)
  sendOrder   : List Nat
  requests    : List Nat
  outstanding : List Nat
  transfer    : Transfer
  ready       : Option OutFrame
  dropReady   : Option OutFrame
  deriving DecidableEq, Repr

/-! ## Edition clock (R141 to R159) -/

inductive EditionState where
  | opened | due | late | closed
  deriving DecidableEq, Repr

/-- The current edition and its state, or none (R145). -/
abbrev Current := Option (Nat × EditionState)

/-- The clock. `editions` are the states of editions 1, 2, ...; `nextMark` is the time of day of a
TIME MARK that replaces one ON LINE (R156). -/
structure Clock where
  time     : Nat
  isSet    : Bool
  editions : List EditionState
  ignored  : Nat
  nextMark : Option Nat
  deriving DecidableEq, Repr

/-- The kinds of set (R150). -/
inductive SetKind where
  | first | noChange | forward | backward
  deriving DecidableEq, Repr

/-! ## Screen unit (R160 to R179) -/

inductive Mode where
  | read | edit
  deriving DecidableEq, Repr

/-- A row as a ROW message carries it (R161); `codes` are columns 1 to 64. -/
structure Row where
  number : Nat
  mode   : Mode
  cursor : Nat
  codes  : List Byte
  deriving DecidableEq, Repr

inductive Staging where
  | empty
  | building (row : Nat)
  | ready (row : Row)
  deriving DecidableEq, Repr

/-- A window (R162). `dirty` has one entry for each of rows 0..20, yes for DIRTY. -/
structure Window where
  key     : Option Key
  mode    : Mode
  top     : Nat
  cursor  : Option Nat
  dirty   : List Bool
  staging : Staging
  lineMap : Option (List Nat)
  waiting : Bool
  deriving DecidableEq, Repr

inductive LaneMessage where
  | row (r : Row)
  | keep
  deriving DecidableEq, Repr

/-- A lane: its counts and the message last copied to its transmitter (R161). -/
structure Lane where
  rows  : Nat
  keeps : Nat
  last  : Option LaneMessage
  deriving DecidableEq, Repr

/-- The line walk or the render in progress (R168, R169). `starts` are the starts recorded of lines
from the top line on. -/
inductive BuildPhase where
  | walk (block : Nat) (breaker : Breaker) (count : Nat) (lastStart : Nat) (starts : List Nat)
  | render (start block : Nat) (breaker : Breaker)
  deriving DecidableEq, Repr

structure Build where
  lane  : Nat
  row   : Nat
  phase : BuildPhase
  deriving DecidableEq, Repr

/-- The flash notice; its hold timer runs while it is present (R173). -/
structure Flash where
  text    : List Byte
  source  : Nat
  arrival : Option Nat
  deriving DecidableEq, Repr

inductive FlashOutcome where
  | delivered
  | failed (cause : Cause)
  deriving DecidableEq, Repr

inductive DeskState where
  | start | onLine | unattended
  deriving DecidableEq, Repr

/-- The status record: what other blocks have told the screen unit (R171). -/
structure Status where
  line    : LineState
  offers  : Nat
  desk    : DeskState
  current : Option Current
  deriving DecidableEq, Repr

structure Screen where
  windows    : List Window
  lanes      : List Lane
  timer      : Bool
  build      : Option Build
  lastServed : Nat
  flash      : Option Flash
  lastFlash  : Option FlashOutcome
  status     : Status
  deriving DecidableEq, Repr

/-! ## Desk unit and desk link (R180 to R197, R203) -/

/-- The eighteen notices, in the order of R191. -/
inductive Notice where
  | offerWaiting | offerLapsed | passEnded | inboundDone | inboundLost | fitDone
  | pageSent | pageFailed | pageDropped | editionStep | lineFault | sameNumber
  | storeDamage | flashIn | faceLearned | tendMissed | tendBad | linkOverrun
  deriving DecidableEq, Repr

/-- The results of a response, in the order of their codes (R203). -/
inductive Result where
  | done
  | wrongState | noStory | noRoom | full | busy | locked | damaged | badField | badText
  | tooLong | closed
  deriving DecidableEq, Repr

/-- The fields a refusal can name (R121, R181, R186, R188; `placement` for the index of R123). -/
inductive FieldName where
  | stationNumber | rate | roles | typesetRole | policy | clockSource | dayStart
  | editionCount | deadline | screenCount
  | page | edition | placements | key | columns | face | measure | size | budget
  | placement | tendByte
  deriving DecidableEq, Repr

/-- The start record as stored, clamped (R187). -/
structure StartRecord where
  rate        : Nat
  roles       : List Nat
  retry       : Nat
  typesetRole : Nat
  ask         : Bool
  answerTime  : Nat
  gapTime     : Nat
  clockSource : Nat
  dayStart    : Nat
  editions    : List EditionSpec
  screens     : Nat
  rowSlot     : Nat
  flashHold   : Nat
  tendWindow  : Nat
  mask        : BitVec 18
  deriving DecidableEq, Repr

/-- The store totals of every STORY STATE response (R19). -/
structure StoreTotals where
  records       : Nat
  reserved      : Nat
  freeEntries   : Nat
  freeBlocks    : Nat
  substitutions : Nat
  deriving DecidableEq, Repr

inductive LampPattern where
  | fast | steady | slow | off
  deriving DecidableEq, Repr

/-- The data of a DONE response, by the rule of the command it answers. -/
inductive ResponseData where
  | nothing
  /-- OPEN STORY (R14). -/
  | opened (key : Key)
  /-- PLACE (R16). -/
  | placed (length : Nat)
  /-- READ TEXT (R17). -/
  | text (codes : List Byte)
  /-- STORY STATE (R19). -/
  | storyState (record : Option Story) (totals : StoreTotals)
  /-- LINE COUNTS (R63). -/
  | lineCounts (state : LineState) (retry : Nat) (counts : LineCounts) (queue : List OutEntry)
      (slots : List RxSlot)
  /-- PASS (R67). -/
  | passEntry (entry : Nat)
  /-- ANSWER OFFER, decline: whether the DECLINE found room (R83). -/
  | declineSent (room : Bool)
  /-- PASS TABLE (R93). -/
  | passTable (outbound : List (Option Pass)) (inbound : List (Option Inbound))
      (offers : List QueuedOffer) (ask : Bool) (answerTime gapTime : Nat)
  /-- FIT (R102). -/
  | fitTaken (lead indent : Nat) (joined : Bool)
  /-- FIT STATUS (R115). -/
  | fitStatus (faces : List Face) (asked : Option Nat) (queue : List FitRequest) (run : Option Run)
      (waiting : Option (Key × Setting)) (last : Option LastFit)
  /-- FIT DEPTH (R116). -/
  | depth (record : FitRecord) (columnLines halfPoints points overset : Nat)
  /-- PLAN PAGE (R121). -/
  | planned (leadIndent : List (Nat × Nat))
  /-- SEND PAGE (R123). -/
  | position (n : Nat)
  /-- PAGE TABLE (R138). -/
  | pageTable (plans : List (Option Plan)) (outstanding requests : List Nat) (waits : Bool)
      (sendOrder : List Nat) (transfer : Transfer)
  /-- SET CLOCK (R154). -/
  | clockSet (kind : SetKind) (applied time : Nat) (current : Current)
  /-- CLOCK STATUS (R157). -/
  | clockStatus (time : Nat) (isSet : Bool) (dayStart dayTime clockSource : Nat) (own : Bool)
      (editions : List (EditionSpec × EditionState)) (current : Current) (ignored : Nat)
      (markQueued : Bool)
  /-- SCREEN STATUS (R177). -/
  | screenStatus (screens rowSlot flashHold : Nat) (windows : List Window) (lanes : List Lane)
      (build : Option Build) (flash : Option (Flash × Nat)) (flashQueued : Bool)
      (lastFlash : Option FlashOutcome)
  /-- SETTLE (R187). -/
  | settled (record : StartRecord)
  /-- TEND (R188). -/
  | tended (state : DeskState) (missed : Nat)
  /-- REPORT (R192). -/
  | report (notices : BitVec 18) (state : DeskState) (missed : Nat) (left : Option Nat)
  /-- STATUS (R194). -/
  | status (state : DeskState) (station : Nat) (valid : Bool) (record : Option StartRecord)
      (notices : BitVec 18) (attention : Bool) (lamp : LampPattern) (missed : Nat)
      (left : Option Nat) (line : LineState) (current : Option Current) (offers planned : Nat)
  deriving DecidableEq, Repr

/-- A response message (R181, R203). `name` is its name byte; `field` the field a refusal names, with
the index of a placement or the number of an edition (0 where it has none). -/
structure Response where
  name   : Byte
  result : Result
  field  : Option (FieldName × Nat)
  data   : ResponseData
  deriving DecidableEq, Repr

/-- A PLACE rewrite in progress (R16). `held` are the old chain blocks read so far, by index, with
their characters; `next` is the index of the chain block written next. -/
structure Rewrite where
  key       : Key
  start     : Nat
  stop      : Nat
  text      : List Byte
  oldLength : Nat
  newLength : Nat
  held      : List (Nat × List Byte)
  next      : Nat
  deriving DecidableEq, Repr

/-- A READ TEXT in progress (R17). -/
structure ReadOp where
  key    : Key
  offset : Nat
  count  : Nat
  got    : List Byte
  deriving DecidableEq, Repr

/-- The operation of the command in progress that takes time (R180). -/
inductive LinkOp where
  | idle
  | rewriting (r : Rewrite)
  | reading (r : ReadOp)
  /-- RESTART waits for the store access that was in progress (R195). -/
  | restarting
  deriving DecidableEq, Repr

/-- What the blocks have told the desk unit for the lamp (R196); `planned` counts the PLANNED plans
of editions 1 to 8. -/
structure LampInputs where
  line    : LineState
  offers  : Nat
  current : Option Current
  planned : List Nat
  deriving DecidableEq, Repr

/-- The desk unit and the desk link. `ready` and `attention` are yes while the pin is high;
`tendTimer` is the window, in milliseconds, the tend timer runs for, absent while it is stopped;
`sent` is what the part shifted out in the last response transfer (R182, R203). -/
structure Desk where
  station    : Nat
  state      : DeskState
  record     : Option StartRecord
  ready      : Bool
  command    : Option Byte
  response   : Option Response
  op         : LinkOp
  notices    : BitVec 18
  attention  : Bool
  tendTimer  : Option Nat
  missed     : Nat
  inputs     : LampInputs
  lamp       : LampPattern
  lit        : Bool
  sent       : List Byte
  deriving DecidableEq, Repr

/-! ## The whole part -/

/-- The state. `pending` is the queue of rows that wait (the model's own), `freeReads` the number of
unstated values used so far (the model's own, log entry 6). -/
structure State where
  store     : Store
  port      : Port
  line      : Line
  traffic   : Traffic
  pass      : PassEngine
  fit       : FitEngine
  page      : PageEngine
  clock     : Clock
  screen    : Screen
  desk      : Desk
  freeReads : Nat
  pending   : List Instr
  deriving DecidableEq, Repr

/-! ## Reset -/

/-- Blocks `n`, `n + 1`, ..., `count` of them. -/
def blocksFrom (n : Nat) : Nat → List Nat
  | 0 => []
  | count + 1 => n :: blocksFrom (n + 1) count

/-- R23. -/
def Store.reset : Store :=
  { stories := [], reservations := [none, none], pool := blocksFrom 0 2048, marks := [],
    text := [], serial := 1, substitutions := 0 }

/-- R23. -/
def Port.reset : Port :=
  { busy := none, slip := none, desk := none, page := none, fit := none, row := none }

/-- R47. -/
def Line.reset : Line :=
  { state := .dormant, recorded := none, quiet := 0, join := 0, recessive := 0, dominantRun := 0,
    receiving := false, slot := .neither }

/-- R64. -/
def LineCounts.reset : LineCounts :=
  { good := 0, checkFailures := 0, unknownKinds := 0, refusedFull := 0, sent := 0, failed := 0,
    arbLosses := 0 }

/-- R64. -/
def Traffic.reset : Traffic := { queue := [], slots := [], counts := LineCounts.reset }

/-- R94. -/
def PassEngine.reset : PassEngine :=
  { outbound := [none, none, none, none], inbound := [none, none], offers := [], nextEnd := 0,
    nextPass := 0 }

/-- R117. -/
def Face.absent : Face := { part0 := none, part1 := none, part2 := none }

/-- R117. -/
def FitEngine.reset : FitEngine :=
  { faces := [Face.absent, Face.absent, Face.absent, Face.absent], queue := [], run := none,
    waiting := none, editKey := none, last := none }

/-- The transfer record with no plan and no pending drop (R139). DESIGN CHOICE (log entry 34): its other
fields, which the spec does not give then, are HEAD, 0 and none. -/
def Transfer.clear : Transfer :=
  { plan := none, step := .head, placement := 0, chunk := 0, left := 0, sent := 0, frame := .none,
    drop := none }

/-- R139. -/
def PageEngine.reset : PageEngine :=
  { plans := [none, none, none, none], sendOrder := [], requests := [], outstanding := [],
    transfer := Transfer.clear, ready := none, dropReady := none }

/-- R158. -/
def Clock.reset : Clock :=
  { time := 0, isSet := false, editions := [], ignored := 0, nextMark := none }

/-- A blank window with every row CLEAN, staging EMPTY and waiting on edit no (R162). -/
def Window.blank : Window :=
  { key := none, mode := .read, top := 0, cursor := none, dirty := List.replicate 21 false,
    staging := .empty, lineMap := none, waiting := false }

/-- R178. -/
def Screen.reset : Screen :=
  { windows := List.replicate 8 Window.blank,
    lanes := List.replicate 8 { rows := 0, keeps := 0, last := none },
    timer := false, build := none, lastServed := 7, flash := none, lastFlash := none,
    status := { line := .dormant, offers := 0, desk := .start, current := none } }

/-- R197, with the station number read from the straps. -/
def Desk.reset (station : Nat) : Desk :=
  { station := station, state := .start, record := none, ready := true, command := none,
    response := none, op := .idle, notices := 0#18, attention := true, tendTimer := none,
    missed := 0,
    inputs := { line := .dormant, offers := 0, current := none, planned := List.replicate 8 0 },
    lamp := .off, lit := false, sent := [] }

/-- The part at the end of a power-on reset that read `station` from the straps. -/
def State.afterReset (station : Nat) : State :=
  { store := Store.reset, port := Port.reset, line := Line.reset, traffic := Traffic.reset,
    pass := PassEngine.reset, fit := FitEngine.reset, page := PageEngine.reset,
    clock := Clock.reset, screen := Screen.reset, desk := Desk.reset station, freeReads := 0,
    pending := [] }

/-- The machine right after reset. DESIGN CHOICE (log entry 3), unsafe: the straps read 1; the spec
leaves the number to the board. -/
def State.reset : State := State.afterReset 1

end Sys2Proof.Machine
end

