-- ==== Sys2Proof/Machine/Formats.lean ====
section
/-!
DEFINITION. The layouts a partner of the part sees: numbers and keys as bytes, the copy line frame as
bits with its check (R29, R31, R198), frame payloads (R199), and the kind table of section 2.6.
-/

namespace Sys2Proof.Machine

/-! ## Bits and bytes -/

/-- `n` in `width` bits, leading bit first. -/
def bitsOf (width n : Nat) : List Bool :=
  (List.range width).map fun i => n.testBit (width - 1 - i)

/-- The number whose bits, leading bit first, are `bits`. -/
def ofBits (bits : List Bool) : Nat :=
  bits.foldl (fun acc b => 2 * acc + b.toNat) 0

/-- The eight bits of each byte, leading bit first. -/
def byteBits (bytes : List Byte) : List Bool :=
  bytes.flatMap fun b => bitsOf 8 b.toNat

/-- The first `count` bytes of a bit sequence. -/
def bytesOfBits : Nat → List Bool → List Byte
  | 0, _ => []
  | count + 1, bits => BitVec.ofNat 8 (ofBits (bits.take 8)) :: bytesOfBits count (bits.drop 8)

/-- A number in one byte. -/
def oneByte (n : Nat) : List Byte := [BitVec.ofNat 8 n]

/-- A number in two bytes, most significant first (R199). -/
def twoBytes (n : Nat) : List Byte := [BitVec.ofNat 8 (n / 256), BitVec.ofNat 8 n]

/-- A number in three bytes, most significant first (R199). -/
def threeBytes (n : Nat) : List Byte := BitVec.ofNat 8 (n / 65536) :: twoBytes n

/-- A key in three bytes: the origin in the five low bits of the first, then the serial (R199). -/
def keyBytes (k : Key) : List Byte := BitVec.ofNat 8 (k.origin % 32) :: twoBytes k.serial

/-- A slug in twelve bytes, filled with 0x00 (R199). -/
def slugBytes (slug : List Byte) : List Byte := (slug ++ List.replicate 12 0#8).take 12

/-- Byte `i` of a payload as a number. -/
def byteAt (p : List Byte) (i : Nat) : Nat := (p.getD i 0#8).toNat

/-- The two-byte number at byte `i`. -/
def twoAt (p : List Byte) (i : Nat) : Nat := 256 * byteAt p i + byteAt p (i + 1)

/-- The three-byte number at byte `i`. -/
def threeAt (p : List Byte) (i : Nat) : Nat := 65536 * byteAt p i + twoAt p (i + 1)

/-- The key at byte `i`; the three upper bits of its first byte are ignored (R199). -/
def keyAt (p : List Byte) (i : Nat) : Key :=
  { origin := byteAt p i % 32, serial := twoAt p (i + 1) }

/-- The slug at byte `i`: the bytes before the first 0x00, or all twelve (R199). -/
def slugAt (p : List Byte) (i : Nat) : List Byte :=
  ((p.drop i).take 12).takeWhile (· ≠ 0#8)

/-! ## Codes -/

def formCode : AddressForm → Nat
  | .station => 0
  | .role => 1

/-- The value of a kind (section 2.6). -/
def FrameKind.code : FrameKind → Nat
  | .flash => 0 | .timeMark => 1 | .offer => 2 | .take => 3 | .decline => 4 | .withdraw => 5
  | .slip => 6 | .pageHead => 7 | .placement => 8 | .setText => 9 | .pageEnd => 10
  | .pageDrop => 11 | .widths => 12

/-- The class of a kind (section 2.6). -/
def FrameKind.cls : FrameKind → Nat
  | .flash | .timeMark => 0
  | .offer | .take | .decline | .withdraw | .slip => 1
  | .pageHead | .placement | .setText | .pageEnd | .pageDrop => 2
  | .widths => 3

/-- The least and greatest payload of a kind (section 2.6). -/
def FrameKind.payloadRange : FrameKind → Nat × Nat
  | .flash => (1, 32) | .timeMark => (3, 3) | .offer => (22, 22) | .take => (3, 3)
  | .decline => (4, 4) | .withdraw => (3, 3) | .slip => (5, 37) | .pageHead => (3, 3)
  | .placement => (14, 14) | .setText => (3, 35) | .pageEnd => (3, 3) | .pageDrop => (2, 2)
  | .widths => (34, 34)

/-- The kinds a station receives, by their value (R36): the page kinds and 13, 14, 15 are not. -/
def receivingKind : Nat → Option FrameKind
  | 0 => some .flash
  | 1 => some .timeMark
  | 2 => some .offer
  | 3 => some .take
  | 4 => some .decline
  | 5 => some .withdraw
  | 6 => some .slip
  | 12 => some .widths
  | _ => none

/-- The value of a DECLINE reason (R199). -/
def DeclineReason.code : DeclineReason → Nat
  | .unattended => 1 | .heldHere => 2 | .locked => 3 | .busy => 4 | .noRoom => 5 | .desk => 6
  | .noAnswer => 7

/-- The reason a DECLINE's reason byte holds, if it is one of the seven (R199). -/
def DeclineReason.ofCode : Nat → Option DeclineReason
  | 1 => some .unattended
  | 2 => some .heldHere
  | 3 => some .locked
  | 4 => some .busy
  | 5 => some .noRoom
  | 6 => some .desk
  | 7 => some .noAnswer
  | _ => none

/-- The value of a PAGE DROP reason (R199). -/
def DropReason.code : DropReason → Nat
  | .cancelled => 1 | .closed => 2 | .damaged => 3

/-! ## The frame check and the story check (R31, R32) -/

/-- One bit of the 16-bit check. -/
def crcBit (r : BitVec 16) (b : Bool) : BitVec 16 :=
  if r.msb ^^ b then (r <<< 1) ^^^ 0x1021#16 else r <<< 1

/-- The check advanced over bits in the order they are sent. -/
def crcBits (r : BitVec 16) (bits : List Bool) : BitVec 16 := bits.foldl crcBit r

/-- The check advanced over characters, each leading bit first (R32). -/
def crcCodes (r : BitVec 16) (codes : List Byte) : BitVec 16 := crcBits r (byteBits codes)

/-- The register's starting value (R31). -/
def crcStart : BitVec 16 := 0xFFFF#16

/-! ## The body of a frame (R29, R198) -/

/-- The 23 header bits. -/
def headerBits (f : Frame) : List Bool :=
  bitsOf 2 f.cls ++ bitsOf 5 f.source ++ bitsOf 4 f.kind ++ bitsOf 1 (formCode f.dest.form) ++
  bitsOf 5 f.dest.number ++ bitsOf 6 f.payload.length

/-- Header and payload, the bits the check is taken over. -/
def checkedBits (f : Frame) : List Bool := headerBits f ++ byteBits f.payload

/-- The body as it is sent: header, payload, check. -/
def bodyBits (f : Frame) : List Bool :=
  checkedBits f ++ bitsOf 16 (crcBits crcStart (checkedBits f)).toNat

/-- Field `len` bits from bit `start` (0 the first) of a body. -/
def bodyField (body : List Bool) (start len : Nat) : Nat := ofBits ((body.drop start).take len)

/-- A body as read: the frame and whether it passed the check. None when the bits are no whole body
(the length field over 40, or another number of bits than the length gives). -/
def readBody (body : List Bool) : Option (Frame × Bool) :=
  let len := bodyField body 17 6
  if len ≤ 40 ∧ body.length = 39 + 8 * len then
    let checked := body.take (23 + 8 * len)
    some
      ({ cls := bodyField body 0 2, source := bodyField body 2 5, kind := bodyField body 7 4,
         dest :=
           { form := if bodyField body 11 1 = 0 then .station else .role,
             number := bodyField body 12 5 },
         payload := bytesOfBits len (body.drop 23) },
       decide (bodyField body (23 + 8 * len) 16 = (crcBits crcStart checked).toNat))
  else none

/-- A queued frame as the line section sends it, the strap number put in (R49). -/
def OutFrame.onLine (station : Nat) (f : OutFrame) : Frame :=
  { cls := f.kind.cls, source := station, kind := f.kind.code, dest := f.dest,
    payload := f.payload }

/-- Bit periods from the start of the start mark to the slot end (R29). -/
def Frame.periods (f : Frame) : Nat := 44 + 8 * f.payload.length

/-- The bit period in microseconds of a rate code (R25). -/
def bitPeriod : Nat → Nat
  | 0 => 40
  | 1 => 20
  | 2 => 10
  | _ => 5

/-! ## Payloads (R199) -/

def toStation (n : Nat) : Address := { form := .station, number := n }

def toRole (n : Nat) : Address := { form := .role, number := n }

def offerFrame (dest : Address) (o : Offer) : OutFrame :=
  { kind := .offer, dest := dest,
    payload := keyBytes o.key ++ slugBytes o.slug ++ oneByte o.edition ++ twoBytes o.length ++
      twoBytes o.slipTotal ++ twoBytes o.storyCheck.toNat }

/-- The fields of an OFFER; a first slug byte of 0x00 gives the one-character slug 0x3F. -/
def offerFields (p : List Byte) : Offer :=
  { key := keyAt p 0, slug := if byteAt p 3 = 0 then [0x3F#8] else slugAt p 3,
    edition := byteAt p 15, length := twoAt p 16, slipTotal := twoAt p 18,
    storyCheck := BitVec.ofNat 16 (twoAt p 20) }

def takeFrame (station : Nat) (k : Key) : OutFrame :=
  { kind := .take, dest := toStation station, payload := keyBytes k }

def declineFrame (station : Nat) (k : Key) (reason : DeclineReason) : OutFrame :=
  { kind := .decline, dest := toStation station, payload := keyBytes k ++ oneByte reason.code }

def withdrawFrame (dest : Address) (k : Key) : OutFrame :=
  { kind := .withdraw, dest := dest, payload := keyBytes k }

def slipFrame (station : Nat) (k : Key) (index : Nat) (codes : List Byte) : OutFrame :=
  { kind := .slip, dest := toStation station, payload := keyBytes k ++ twoBytes index ++ codes }

def flashFrame (dest : Address) (text : List Byte) : OutFrame :=
  { kind := .flash, dest := dest, payload := text }

def timeMarkFrame (time : Nat) : OutFrame :=
  { kind := .timeMark, dest := toRole 15, payload := threeBytes time }

def pageHeadFrame (role page edition placements : Nat) : OutFrame :=
  { kind := .pageHead, dest := toRole role,
    payload := oneByte page ++ oneByte edition ++ oneByte placements }

/-- The flags byte of a PLACEMENT. -/
def placementFlags (flags : FitFlags) (overset : Bool) : Nat :=
  flags.estimated.toNat + 2 * flags.overwide.toNat + 4 * flags.saturated.toNat + 8 * overset.toNat

def placementFrame (role index : Nat) (p : Placement) (r : PlacementResult) : OutFrame :=
  { kind := .placement, dest := toRole role,
    payload := oneByte index ++ keyBytes p.key ++ oneByte p.columns ++ twoBytes p.setting.measure ++
      oneByte p.setting.size ++ oneByte p.setting.lead ++ oneByte p.setting.face ++
      oneByte p.setting.indent ++ twoBytes r.lines ++
      oneByte (placementFlags r.flags (decide (0 < r.overset))) }

def setTextFrame (role index chunk : Nat) (codes : List Byte) : OutFrame :=
  { kind := .setText, dest := toRole role, payload := oneByte index ++ twoBytes chunk ++ codes }

def pageEndFrame (role page sent : Nat) : OutFrame :=
  { kind := .pageEnd, dest := toRole role, payload := oneByte page ++ twoBytes sent }

def pageDropFrame (role page : Nat) (reason : DropReason) : OutFrame :=
  { kind := .pageDrop, dest := toRole role, payload := oneByte page ++ oneByte reason.code }

/-! ## Levels on the wire (R26 to R28, R41), in eighths of T -/

/-- What a dominant level of `eighths` of T outside a frame is. -/
inductive DominantLevel where
  | notSeen | passedOver | startMark | stuck
  deriving DecidableEq, Repr

/-- A level shorter than T/8 is not seen (R26); 3T/2 to 5T/2 is a start mark (R28); over 8T is a
stuck line (R41); every other is passed over. -/
def dominantLevel (eighths : Nat) : DominantLevel :=
  if eighths < 1 then .notSeen
  else if 12 ≤ eighths ∧ eighths ≤ 20 then .startMark
  else if 64 < eighths then .stuck
  else .passedOver

end Sys2Proof.Machine
end

