-- ==== Sys2Proof/Machine/Ops.lean ====
section
/-!
DEFINITION. The shared operations over the store, the text RAM, the free pool, the store port and the
out queue. Every block reaches them through these.
-/

namespace Sys2Proof.Machine

/-! ## Changing one block of the state -/

def State.onStore (f : Store → Store) (s : State) : State := { s with store := f s.store }
def State.onPort (f : Port → Port) (s : State) : State := { s with port := f s.port }
def State.onLine (f : Line → Line) (s : State) : State := { s with line := f s.line }
def State.onTraffic (f : Traffic → Traffic) (s : State) : State := { s with traffic := f s.traffic }
def State.onPass (f : PassEngine → PassEngine) (s : State) : State := { s with pass := f s.pass }
def State.onFit (f : FitEngine → FitEngine) (s : State) : State := { s with fit := f s.fit }
def State.onPage (f : PageEngine → PageEngine) (s : State) : State := { s with page := f s.page }
def State.onClock (f : Clock → Clock) (s : State) : State := { s with clock := f s.clock }
def State.onScreen (f : Screen → Screen) (s : State) : State := { s with screen := f s.screen }
def State.onDesk (f : Desk → Desk) (s : State) : State := { s with desk := f s.desk }

/-! ## Counting -/

/-- A count that saturates at `limit` (section 4.3). -/
def bump (limit n : Nat) : Nat := if n < limit then n + 1 else limit

/-- A 16-bit saturating count, one more. -/
def bump16 (n : Nat) : Nat := bump 65535 n

/-- A 16-bit saturating count, `k` more. -/
def add16 (n k : Nat) : Nat := min 65535 (n + k)

/-- ceil(n / d). -/
def ceilDiv (n d : Nat) : Nat := (n + d - 1) / d

/-- The blocks a text of `n` characters needs, ceil(n / 32) (R3). -/
def blocksFor (n : Nat) : Nat := ceilDiv n 32

/-- max(1, ceil(length / 32)) (R3, R66). -/
def slipTotalOf (length : Nat) : Nat := max 1 (blocksFor length)

/-- The characters block `i` of a text of `n` characters holds. -/
def charsIn (n i : Nat) : Nat := min 32 (n - 32 * i)

/-- Index of the first member of a list that satisfies `p`, if any. -/
def indexWhere {α : Type} (p : α → Bool) (l : List α) : Option Nat :=
  let i := l.findIdx p
  if i < l.length then some i else none

/-! ## The text RAM (R5, R9) -/

/-- Whether an odd number of the low `width` bits are 1. -/
def oddOnes (width : Nat) (v : Nat) : Bool :=
  (List.range width).foldl (fun odd i => odd ^^ v.testBit i) false

/-- A code stored with odd parity over the nine bits (R9). -/
def encodeCell (code : Byte) : TextCell :=
  (if oddOnes 8 code.toNat then 0#1 else 1#1) ++ code

/-- The parity of a cell is right. -/
def goodParity (cell : TextCell) : Bool := oddOnes 9 cell.toNat

/-- The code bits of a cell. -/
def cellCode (cell : TextCell) : Byte := cell.setWidth 8

/-- What a position that nothing has written reads as. DESIGN CHOICE (log entry 4): code 0x00 with
odd parity. R23: the contents after power-on are seen by no reader. -/
def blankCell : TextCell := 0x100#9

/-- The cell at an address. -/
def Memory.read : Memory → Nat → TextCell
  | [], _ => blankCell
  | (a, v) :: rest, x => if a = x then v else Memory.read rest x

/-- The RAM with one cell written, in canonical form. -/
def Memory.write : Memory → Nat → TextCell → Memory
  | [], x, v => if v = blankCell then [] else [(x, v)]
  | (a, w) :: rest, x, v =>
      if x < a then
        if v = blankCell then (a, w) :: rest else (x, v) :: (a, w) :: rest
      else if x = a then
        if v = blankCell then rest else (x, v) :: rest
      else (a, w) :: Memory.write rest x v

/-- The canonical form: no blank cell listed, addresses strictly rising. -/
def Memory.wf : Memory → Bool
  | [] => true
  | (a, v) :: rest =>
      v ≠ blankCell && (rest.head?.all fun next => a < next.1) && Memory.wf rest

/-- Codes written at positions `first`, `first` + 1, ... of a block, each with odd parity. -/
def writeCodes (block : Nat) : Nat → List Byte → Memory → Memory
  | _, [], m => m
  | first, c :: codes, m =>
      writeCodes block (first + 1) codes (m.write (32 * block + first) (encodeCell c))

/-- `count` cells from position `first` of a block. -/
def readCells (block first count : Nat) (m : Memory) : List TextCell :=
  (List.range count).map fun i => m.read (32 * block + first + i)

/-- The physical upsets of a block, applied (log entry 5). -/
def applyUpsets (block : Nat) (upsets : List Upset) (m : Memory) : Memory :=
  upsets.foldl
    (fun m u =>
      if u.position < 32 then
        m.write (32 * block + u.position) (m.read (32 * block + u.position) ^^^ u.flips)
      else m)
    m

/-! ## Story records (R3, R21) -/

/-- The record a key names, if any. -/
def Store.story (st : Store) (k : Key) : Option Story := st.stories.find? fun r => r.key = k

/-- A change of the record a key names; a request that names no record is discarded (R21). -/
def Store.change (k : Key) (f : Story → Story) (st : Store) : Store :=
  { st with stories := st.stories.map fun r => if r.key = k then f r else r }

def State.story (s : State) (k : Key) : Option Story := s.store.story k

/-- Reserved entries (R3). -/
def Store.reserved (st : Store) : Nat := (st.reservations.filter Option.isSome).length

/-- The free entry count (R3). -/
def Store.freeEntries (st : Store) : Nat := 64 - (st.stories.length + st.reserved)

/-- The totals of STORY STATE (R19). -/
def Store.totals (st : Store) : StoreTotals :=
  { records := st.stories.length, reserved := st.reserved, freeEntries := st.freeEntries,
    freeBlocks := st.pool.length, substitutions := st.substitutions }

/-- The custody is HELD. -/
def Story.isHeld (r : Story) : Bool := r.custody = .held

/-- The custody is DOUBT. -/
def Story.isDoubt (r : Story) : Bool :=
  match r.custody with
  | .doubt _ => true
  | _ => false

/-! ## The free pool (R6) -/

/-- Blocks returned one after another in list order, so that the last is on top; a returned block
loses its damage mark. -/
def Store.giveBack (blocks : List Nat) (st : Store) : Store :=
  { st with pool := blocks.reverse ++ st.pool,
            marks := st.marks.filter fun b => !blocks.contains b }

/-- The record freed, its chain returned in the order given (R8, R18). -/
def Store.free (k : Key) (order : List Nat → List Nat) (st : Store) : Store :=
  match st.story k with
  | none => st
  | some r =>
      Store.giveBack (order r.chain)
        { st with stories := st.stories.filter fun q => q.key ≠ k }

/-- A reservation of `n` blocks for inbound entry `entry`, or none for NO ROOM (R7). -/
def Store.reserve (entry n : Nat) (st : Store) : Option Store :=
  if 1 ≤ st.freeEntries ∧ n ≤ st.pool.length then
    some { st with pool := st.pool.drop n,
                   reservations := st.reservations.set entry (some (st.pool.take n)) }
  else none

/-- The blocks reserved for an inbound entry. -/
def Store.reservation (entry : Nat) (st : Store) : List Nat :=
  ((st.reservations.getD entry none).getD [])

/-- A release: the blocks return in the reverse of the order in which they were taken (R7). -/
def Store.release (entry : Nat) (st : Store) : Store :=
  match st.reservations.getD entry none with
  | none => st
  | some blocks =>
      { Store.giveBack blocks.reverse st with reservations := st.reservations.set entry none }

/-! ## The store port (R11) -/

/-- The five requesters, in grant order. -/
inductive Requester where
  | slip | desk | page | fit | row
  deriving DecidableEq, Repr

/-- The requester an access belongs to (R11). -/
def Purpose.requester : Purpose → Requester
  | .slipWrite .. | .checkRead _ | .slipRead _ => .slip
  | .rewriteRead _ | .rewriteWrite _ | .readText => .desk
  | .pageRead => .page
  | .fitRead => .fit
  | .walkRead | .renderRead => .row

def Port.waiting (p : Port) : Requester → Option Access
  | .slip => p.slip
  | .desk => p.desk
  | .page => p.page
  | .fit => p.fit
  | .row => p.row

def Port.setWaiting (r : Requester) (a : Option Access) (p : Port) : Port :=
  match r with
  | .slip => { p with slip := a }
  | .desk => { p with desk := a }
  | .page => { p with page := a }
  | .fit => { p with fit := a }
  | .row => { p with row := a }

/-- No request waits. -/
def Port.noneWaits (p : Port) : Bool :=
  p.slip.isNone && p.desk.isNone && p.page.isNone && p.fit.isNone && p.row.isNone

/-- A request arrives: granted at once when the port is free and none waits, else it waits. -/
def Port.request (a : Access) (p : Port) : Port :=
  if p.busy.isNone && p.noneWaits then { p with busy := some a }
  else p.setWaiting a.purpose.requester (some a)

/-- The access in progress ends: the port is free, and the waiting requester that stands highest is
granted. -/
def Port.complete (p : Port) : Port :=
  match p.slip with
  | some a => { p with busy := some a, slip := none }
  | none =>
    match p.desk with
    | some a => { p with busy := some a, desk := none }
    | none =>
      match p.page with
      | some a => { p with busy := some a, page := none }
      | none =>
        match p.fit with
        | some a => { p with busy := some a, fit := none }
        | none =>
          match p.row with
          | some a => { p with busy := some a, row := none }
          | none => { p with busy := none }

/-- The operation that made the accesses satisfying `mine` is abandoned: a waiting request is
withdrawn, an access in progress is set aside. -/
def Port.abandon (mine : Purpose → Bool) (p : Port) : Port :=
  let drop (a : Option Access) : Option Access := a.filter fun x => !mine x.purpose
  { busy := p.busy.map fun x => if mine x.purpose then { x with aside := true } else x,
    slip := drop p.slip, desk := drop p.desk, page := drop p.page, fit := drop p.fit,
    row := drop p.row }

/-- RESTART: the access in progress completes with its characters set aside, every waiting request is
withdrawn (R24). -/
def Port.restart (p : Port) : Port :=
  { Port.reset with busy := p.busy.map fun x => { x with aside := true } }

/-- A request for `count` positions from `first` of one block. -/
def State.requestAccess (purpose : Purpose) (block first count : Nat) (s : State) : State :=
  s.onPort (Port.request
    { purpose := purpose, block := block, first := first, count := count, aside := false })

/-- A request for the characters of chain block `i` of a story of `length` characters. -/
def State.requestChain (purpose : Purpose) (chain : List Nat) (length i : Nat) (s : State) : State :=
  s.requestAccess purpose (chain.getD i 0) 0 (charsIn length i)

/-! ## The out queue (R49 to R55) -/

/-- The shares (R50): one entry for each outbound entry, one for the page engine, three for the
answer sender, the flash sender and the clock together. -/
def Owner.shared : Owner → Bool
  | .passEntry _ | .page => false
  | .take _ | .answer | .flash | .clock => true

/-- An owner's share has room. -/
def Traffic.hasRoom (o : Owner) (t : Traffic) : Bool :=
  if o.shared then (t.queue.filter fun e => e.owner.shared).length < 3
  else !t.queue.any fun e => e.owner = o

/-- A new entry, as the youngest. -/
def Traffic.insert (o : Owner) (f : OutFrame) (t : Traffic) : Traffic :=
  { t with queue := t.queue ++
      [{ frame := f, owner := o, onLine := false, attempts := 0, losses := 0, refusals := 0,
         lastCause := none, withdrawing := false }] }

/-- An insertion: "queued" where the share has room, else "no entry" and nothing changes. -/
def State.send (o : Owner) (f : OutFrame) (s : State) : State :=
  if s.traffic.hasRoom o then s.onTraffic (Traffic.insert o f) else s

/-- The entry an owner holds and has not withdrawn. -/
def OutEntry.heldBy (o : Owner) (e : OutEntry) : Bool := decide (e.owner = o) && !e.withdrawing

/-- A withdrawal by its owner: a WAITING entry is removed at once, an ON LINE entry is removed at the
end of its attempt (R55). -/
def Traffic.withdraw (o : Owner) (t : Traffic) : Traffic :=
  { t with queue :=
      (t.queue.filter fun e => !(e.heldBy o && !e.onLine)).map fun e =>
        if e.heldBy o then { e with withdrawing := true } else e }

def State.withdraw (o : Owner) (s : State) : State := s.onTraffic (Traffic.withdraw o)

/-- An owner holds an entry it has not withdrawn. -/
def Traffic.holds (o : Owner) (t : Traffic) : Bool := t.queue.any fun e => e.heldBy o

/-- A frame of this kind is in the queue. -/
def Traffic.holdsKind (k : FrameKind) (t : Traffic) : Bool := t.queue.any fun e => e.frame.kind = k

/-- One of the station's own frames is on the line. -/
def Traffic.sending (t : Traffic) : Bool := t.queue.any fun e => e.onLine

/-- The selected entry's index: the WAITING entry of the lowest class and, among those, the oldest
(R51). -/
def Traffic.selected (t : Traffic) : Option Nat :=
  let best (c : Nat) : Option Nat :=
    indexWhere (fun e => !e.onLine && decide (e.frame.kind.cls = c)) t.queue
  (best 0).or ((best 1).or ((best 2).or (best 3)))

/-- The quiet time of an entry's next attempt, Q = 3 + 2 × class + 2 × attempts made (R37). -/
def OutEntry.quietTime (e : OutEntry) : Nat := 3 + 2 * e.frame.kind.cls + 2 * e.attempts

/-! ## The start record, as the blocks read it -/

def State.retryLimit (s : State) : Nat := (s.desk.record.map (·.retry)).getD 0
def State.typesetRole (s : State) : Nat := (s.desk.record.map (·.typesetRole)).getD 0
def State.asks (s : State) : Bool := (s.desk.record.map (·.ask)).getD false
def State.clockSource (s : State) : Nat := (s.desk.record.map (·.clockSource)).getD 0
def State.dayStart (s : State) : Nat := (s.desk.record.map (·.dayStart)).getD 0
def State.editionTable (s : State) : List EditionSpec := (s.desk.record.map (·.editions)).getD []
def State.screenCount (s : State) : Nat := (s.desk.record.map (·.screens)).getD 0
def State.listenRoles (s : State) : List Nat := (s.desk.record.map (·.roles)).getD []

end Sys2Proof.Machine
end

