-- ==== Sys2Proof/Machine/Operands.lean ====
section
/-!
DEFINITION. The operand forms: the ranges of the fields a command carries, the clamps, and the first
field found wrong in a SETTLE or a PLAN PAGE.
-/

namespace Sys2Proof.Machine

/-- A range written lo..hi (section 4.3). -/
def within (lo hi n : Nat) : Bool := decide (lo ≤ n) && decide (n ≤ hi)

/-- A quantity clamped to lo..hi: the nearer end when it lies outside (section 4.3). -/
def clamp (lo hi n : Nat) : Nat := max lo (min hi n)

/-- A printable code 0x20..0x7E. -/
def printable (c : Byte) : Bool := within 0x20 0x7E c.toNat

/-- A legal code of the store: 0x0A, 0x20..0x7E, 0x7F (R13). -/
def legalCode (c : Byte) : Bool := decide (c = 0x0A#8) || within 0x20 0x7F c.toNat

/-- 0x3F in place of a code that fails a test, and how many were replaced (R13). -/
def substitute (ok : Byte → Bool) (codes : List Byte) : List Byte × Nat :=
  (codes.map fun c => if ok c then c else 0x3F#8, (codes.filter fun c => !ok c).length)

/-- A destination of PASS or SEND FLASH: a station 1..30 other than the strap number, or a role 1..15
(R67, R174). -/
def goodDestination (station : Nat) (a : Address) : Bool :=
  match a.form with
  | .station => within 1 30 a.number && decide (a.number ≠ station)
  | .role => within 1 15 a.number

/-- Face, measure and size in range (R100). -/
def goodSetting (t : Setting) : Bool :=
  within 0 3 t.face && within 60 400 t.measure && within 10 144 t.size

/-- Lead and indent clamped (R100). -/
def clampSetting (t : Setting) : Setting :=
  { t with lead := min 8 t.lead, indent := min 36 t.indent }

/-- The slug of OPEN STORY: 1..12 characters, each printable (R14). -/
def goodSlug (slug : List Byte) : Bool := within 1 12 slug.length && slug.all printable

/-- An even number of 1 bits (R188). -/
def evenParity (b : Byte) : Bool := !oddOnes 8 b.toNat

/-! ## PLAN PAGE (R121) -/

/-- The first field of a placement found wrong, in the order the rule lists them. -/
def placementFault (p : PlacementSpec) : Option FieldName :=
  if !(within 1 30 p.key.origin && within 1 4095 p.key.serial) then some .key
  else if !within 1 6 p.columns then some .columns
  else if !within 0 3 p.setting.face then some .face
  else if !within 60 400 p.setting.measure then some .measure
  else if !within 10 144 p.setting.size then some .size
  else if !within 0 2000 p.budget then some .budget
  else none

/-- The first placement with a wrong field, from index `i` on. -/
def placementsFault (i : Nat) : List PlacementSpec → Option (FieldName × Nat)
  | [] => none
  | p :: rest =>
      match placementFault p with
      | some f => some (f, i)
      | none => placementsFault (i + 1) rest

/-- The first placement, from index `i` on, whose key an earlier placement has. -/
def repeatedKey (i : Nat) (earlier : List Key) : List PlacementSpec → Option (FieldName × Nat)
  | [] => none
  | p :: rest =>
      if earlier.contains p.key then some (.key, i)
      else repeatedKey (i + 1) (p.key :: earlier) rest

/-- Check 3 of PLAN PAGE: the first field found wrong, with the index of a placement. -/
def planFault (editionCount page edition : Nat) (placements : List PlacementSpec) :
    Option (FieldName × Nat) :=
  if !within 1 96 page then some (.page, 0)
  else if !(within 1 8 edition && decide (edition ≤ editionCount)) then some (.edition, 0)
  else if !within 1 12 placements.length then some (.placements, 0)
  else
    match placementsFault 0 placements with
    | some f => some f
    | none => repeatedKey 0 [] placements

/-! ## SETTLE (R186, R187) -/

/-- The roles number at most 4, each is 1..14, and none is repeated. -/
def goodRoles (roles : List Nat) : Bool :=
  decide (roles.length ≤ 4) && roles.all (within 1 14) && decide roles.Nodup

/-- The first edition, from number `n` on, whose deadline is out of range or not above the one
before. DESIGN CHOICE (log entry 28): range and order are looked at edition by edition. -/
def deadlineFault (n : Nat) (before : Option Nat) : List EditionSpec → Option (FieldName × Nat)
  | [] => none
  | e :: rest =>
      if !within 0 1439 e.deadline || before.any (fun d => decide (e.deadline ≤ d)) then
        some (.deadline, n)
      else deadlineFault (n + 1) (some e.deadline) rest

/-- Checks 2 to 11 of SETTLE: the first field found wrong, with the number of an edition. DESIGN CHOICE
(log entry 28): where the editions do not number the edition count, check 9 names the edition count. -/
def settleFault (station : Nat) (r : StartSpec) : Option (FieldName × Nat) :=
  if !within 1 30 station then some (.stationNumber, 0)
  else if !within 0 3 r.rate then some (.rate, 0)
  else if !goodRoles r.roles then some (.roles, 0)
  else if !within 1 14 r.typesetRole then some (.typesetRole, 0)
  else if !within 0 1 r.policy then some (.policy, 0)
  else if !within 0 30 r.clockSource then some (.clockSource, 0)
  else if !within 0 1439 r.dayStart then some (.dayStart, 0)
  else if !(within 1 8 r.editionCount && decide (r.editions.length = r.editionCount)) then
    some (.editionCount, 0)
  else
    match deadlineFault 1 none r.editions with
    | some f => some f
    | none => if !within 1 8 r.screenCount then some (.screenCount, 0) else none

/-- The start record as stored: the timing fields clamped (R187). DESIGN CHOICE (log entry 29): the six upper
bits of the attention mask, which name no notice, are dropped. -/
def clampRecord (r : StartSpec) : StartRecord :=
  { rate := r.rate, roles := r.roles, retry := min 7 r.retry, typesetRole := r.typesetRole,
    ask := decide (r.policy = 1), answerTime := clamp 100 5000 r.answerTime,
    gapTime := clamp 50 2000 r.gapTime, clockSource := r.clockSource, dayStart := r.dayStart,
    editions := r.editions.map fun e => { e with lead := min 60 e.lead, margin := min 60 e.margin },
    screens := r.screenCount, rowSlot := clamp 2 40 r.rowSlot,
    flashHold := clamp 10 120 r.flashHold, tendWindow := clamp 250 8000 r.tendWindow,
    mask := r.mask.setWidth 18 }

end Sys2Proof.Machine
end

