-- ==== Sys2Proof/Machine/Breaking.lean ====
section
/-!
DEFINITION. The line-filling procedure (R108 to R110) character by character, shared by the fit
computation (R107 to R112) and by screen line breaking (R113, R114).
-/

namespace Sys2Proof.Machine

/-- What one use of the procedure is given: each code's width, the space width, the capacity of a
paragraph's first line and of its later lines. -/
structure Measure where
  firstCap : Nat
  capacity : Nat
  table    : Option (List Nat)
  unit     : Bool
  deriving DecidableEq, Repr

/-- The width of a code. Screens: 1 (R113). Fits: the table of a KNOWN face, the fill code 0x1A with
the width of 0x3F, or the estimated 5 for a space and 9 for any other (R99). A code outside the table of
R99 has a free width (log entry 32). -/
def Measure.width (m : Measure) (code : Byte) : Nat :=
  if m.unit then 1
  else if code ≠ 0x1A#8 ∧ ¬(0x20 ≤ code.toNat ∧ code.toNat ≤ 0x7F) then
    Config.strayWidth m.table code
  else
    match m.table with
    | some t => t.getD ((if code = 0x1A#8 then 0x3F else code.toNat) - 0x20) 0
    | none => if code = 0x20#8 then 5 else 9

/-- The width of what a line or a word holds. -/
def Measure.total (m : Measure) (items : List Item) : Nat :=
  (items.map fun i => m.width i.code).sum

/-- The measure of screen lines: every character one column, capacity 64, no indent (R113). -/
def screenMeasure : Measure := { firstCap := 64, capacity := 64, table := none, unit := true }

/-- Before the first character of a paragraph. -/
def Breaker.start : Breaker :=
  { opened := false, first := true, line := none, gap := none, word := [], inWord := false }

/-- Lines closed by a step, oldest first, and whether a character was set alone as too wide (R110). -/
structure Closing where
  breaker  : Breaker
  lines    : List ClosedLine
  overwide : Bool
  deriving DecidableEq, Repr

/-- The start offset of a line that holds `items`; `otherwise` for an empty one (R114). -/
def startOf (items : List Item) (otherwise : Nat) : Nat := (items.head?.map (·.offset)).getD otherwise

/-- The open line, or the line the paragraph opens next, empty. -/
def Breaker.openLine (m : Measure) (b : Breaker) : OpenLine :=
  b.line.getD { capacity := if b.first then m.firstCap else m.capacity, items := [] }

/-- A character placed on an empty line: alone and closed at once when its width exceeds the capacity
(R109 step 3, R110). DEDUCED (log entry 13): no line is open after it until a character comes. -/
def Breaker.placeOnEmpty (m : Measure) (capacity : Nat) (i : Item) (c : Closing) : Closing :=
  if m.width i.code ≤ capacity then
    { c with breaker :=
        { c.breaker with first := false, line := some { capacity := capacity, items := [i] } } }
  else
    { breaker := { c.breaker with first := false, line := none },
      lines := c.lines ++ [{ items := [i], mark := none, start := i.offset }], overwide := true }

/-- A character of a word that stands at the head of its line, or of a fragment (R110). -/
def Breaker.placeChar (m : Measure) (i : Item) (c : Closing) : Closing :=
  let l := c.breaker.openLine m
  if l.items = [] then Breaker.placeOnEmpty m l.capacity i c
  else if m.total l.items + m.width i.code ≤ l.capacity then
    { c with breaker :=
        { c.breaker with line := some { l with items := l.items ++ [i] } } }
  else
    Breaker.placeOnEmpty m m.capacity i
      { c with lines := c.lines ++
          [{ items := l.items, mark := none, start := startOf l.items i.offset }] }

/-- A word's characters placed one by one from an empty line on. -/
def Breaker.placeAll (m : Measure) (items : List Item) (c : Closing) : Closing :=
  items.foldl (fun c i => Breaker.placeChar m i c) c

/-- The one separator between two words: the first space of the run (R108, R114). -/
def separator (gap : Option Nat) : List Item :=
  match gap with
  | some o => [{ code := 0x20#8, offset := o }]
  | none => []

/-- The end of a word: a word that still fits joins the open line (R109 step 1). -/
def Breaker.endWord (b : Breaker) : Breaker :=
  match b.line with
  | some l =>
      if b.word = [] then { b with inWord := false }
      else
        { b with line := some { l with items := l.items ++ separator b.gap ++ b.word }, gap := none,
                 word := [], inWord := false }
  | none => { b with inWord := false }

/-- The open line closes at the end of its paragraph. A paragraph that opened no line makes one empty
line (R109). -/
def Breaker.endParagraph (mark : Option Nat) (at_ : Nat) (b : Breaker) : List ClosedLine :=
  match b.endWord.line with
  | some l => [{ items := l.items, mark := mark, start := startOf l.items at_ }]
  | none => if b.first then [{ items := [], mark := mark, start := at_ }] else []

/-- A word character (R108): it continues a word set on its line, or a word not yet known to join; a
word that no longer fits closes the line and goes to the next (R109 step 2). -/
def Breaker.wordChar (m : Measure) (i : Item) (b : Breaker) : Closing :=
  let b := { b with opened := true, inWord := true }
  match b.line with
  | none => Breaker.placeChar m i { breaker := b, lines := [], overwide := false }
  | some l =>
      match b.gap with
      | none => Breaker.placeChar m i { breaker := b, lines := [], overwide := false }
      | some _ =>
          let word := b.word ++ [i]
          if m.total l.items + m.width 0x20#8 + m.total word ≤ l.capacity then
            { breaker := { b with word := word }, lines := [], overwide := false }
          else
            Breaker.placeAll m word
              { breaker :=
                  { b with line := some { capacity := m.capacity, items := [] }, gap := none,
                           word := [] },
                lines := [{ items := l.items, mark := none, start := startOf l.items i.offset }],
                overwide := false }

/-- One character of the text, with its offset. -/
def Breaker.feed (m : Measure) (code : Byte) (offset : Nat) (b : Breaker) : Closing :=
  if code = 0x0A#8 then
    { breaker := Breaker.start, lines := b.endParagraph (some offset) offset, overwide := false }
  else if code = 0x20#8 then
    let e := b.endWord
    { breaker :=
        { e with opened := true,
                 gap := if e.line.any (fun l => l.items ≠ []) then e.gap.or (some offset)
                        else none },
      lines := [], overwide := false }
  else b.wordChar m { code := code, offset := offset }

/-- The end of a text of `length` characters: text after the last mark is the last paragraph, closed
without a mark (R108, R114). DESIGN CHOICE (log entry 15): an empty last paragraph starts at
`length`. -/
def Breaker.finish (length : Nat) (b : Breaker) : List ClosedLine :=
  if b.opened then b.endParagraph none length else []

/-! ## The fit computation (R107, R110 to R112) -/

/-- C = floor(M × 36 / S) (R107). -/
def capacityOf (t : Setting) : Nat := t.measure * 36 / t.size

/-- C − I', I' = min(I, floor(C / 2)) (R107). -/
def firstCapacityOf (t : Setting) : Nat := capacityOf t - min t.indent (capacityOf t / 2)

def FitReading.measure (r : FitReading) : Measure :=
  { firstCap := r.firstCap, capacity := r.capacity, table := r.table, unit := false }

/-- The greatest line count (R111). -/
def maxLines : Nat := 4095

/-- A character taken into a fit run. The line of a character set alone is the last one closed; past the
greatest count it is not processed (R111). -/
def FitReading.step (r : FitReading) (code : Byte) (offset : Nat) : FitReading :=
  let c := r.breaker.feed r.measure code offset
  { r with breaker := c.breaker, lines := r.lines + c.lines.length,
           overwide := r.overwide ||
             (c.overwide && decide (r.lines + c.lines.length ≤ maxLines)) }

/-- A block's characters taken into a fit run, up to saturation (R111). -/
def FitReading.feed (offset : Nat) : List Byte → FitReading → FitReading
  | [], r => r
  | c :: rest, r =>
      if maxLines ≤ r.lines then r else FitReading.feed (offset + 1) rest (r.step c offset)

/-- The fit record of a run that counted `lines` lines (R111). -/
def FitReading.record (setting : Setting) (lines : Nat) (r : FitReading) : FitRecord :=
  { setting := setting, lines := min maxLines lines,
    flags := { estimated := r.table.isNone, overwide := r.overwide,
               saturated := decide (maxLines ≤ lines) } }

/-- Column lines, ceil(L / N) (R112). -/
def columnLines (lines columns : Nat) : Nat := ceilDiv lines columns

/-- Depth in half-points, saturating at 65535 (R112). -/
def halfPoints (t : Setting) (lines columns : Nat) : Nat :=
  min 65535 (columnLines lines columns * (t.size + t.lead))

/-- Depth in points (R112). -/
def points (t : Setting) (lines columns : Nat) : Nat := ceilDiv (halfPoints t lines columns) 2

/-- Overset against a budget (R112). -/
def oversetOf (t : Setting) (lines columns budget : Nat) : Nat := points t lines columns - budget

/-! ## Screen lines (R113, R114, R169) -/

/-- The code a row shows for a story's code (R169, R201). -/
def rowCode (c : Byte) : Byte := if c = 0x7F#8 then 0x20#8 else c

/-- The paragraph glyph (R201). -/
def glyph : Byte := 0x1F#8

/-- The columns a closed screen line shows: its items, then the glyph in the next column when a mark
closed it and that column is 64 or less (R114). -/
def ClosedLine.columns (l : ClosedLine) : List Item :=
  match l.mark with
  | some o => if l.items.length < 64 then l.items ++ [{ code := glyph, offset := o }] else l.items
  | none => l.items

/-- The 64 codes of a row, blanks after the last column shown (R169). -/
def rowCodes (items : List Item) : List Byte :=
  ((items.map fun i => rowCode i.code) ++ List.replicate 64 0x20#8).take 64

/-- The cursor column: that of the character at the cursor's offset, 0 when none is shown (R169). -/
def cursorColumn (cursor : Option Nat) (items : List Item) : Nat :=
  match cursor with
  | none => 0
  | some o => ((indexWhere (fun i : Item => decide (i.offset = o)) items).map (· + 1)).getD 0

end Sys2Proof.Machine
end

