-- ==== Sys2Proof/Machine/Flags.lean ====
section
/-!
DEFINITION. The notice flags, ATTENTION and the desk lamp (R191, R193, R196): every computation of a
flag or of an output pin of the desk unit.
-/

namespace Sys2Proof.Machine

/-- The bit of a notice: its place in the table of R191, the first at bit 0 (R203). -/
def Notice.bit : Notice → Nat
  | .offerWaiting => 0 | .offerLapsed => 1 | .passEnded => 2 | .inboundDone => 3
  | .inboundLost => 4 | .fitDone => 5 | .pageSent => 6 | .pageFailed => 7 | .pageDropped => 8
  | .editionStep => 9 | .lineFault => 10 | .sameNumber => 11 | .storeDamage => 12 | .flashIn => 13
  | .faceLearned => 14 | .tendMissed => 15 | .tendBad => 16 | .linkOverrun => 17

/-- A notice is latched. -/
def Desk.latched (n : Notice) (d : Desk) : Bool := d.notices.getLsbD n.bit

/-- ATTENTION as R193 gives it: low (no) while a latched flag is in the mask; high in START, where
there is no mask. -/
def Desk.attentionLevel (d : Desk) : Bool :=
  match d.record with
  | none => true
  | some r => decide (d.notices &&& r.mask = 0#18)

/-- The number of PLANNED plans of an edition, as the page engine has told it. -/
def LampInputs.plannedOf (i : LampInputs) (edition : Nat) : Nat := i.planned.getD (edition - 1) 0

/-- The current edition is DUE and at least one PLANNED plan is of it (R196, rank 3). -/
def LampInputs.dueWithPlan (i : LampInputs) : Bool :=
  match i.current with
  | some (some (n, .due)) => decide (0 < i.plannedOf n)
  | _ => false

/-- The lamp pattern: the first condition of R196 that holds. -/
def Desk.lampPattern (d : Desk) : LampPattern :=
  if d.latched .pageFailed || d.latched .pageDropped then .fast
  else if decide (d.state = .unattended) || decide (d.inputs.line = .listenOnly) ||
      decide (d.inputs.line = .stuck) then .steady
  else if decide (0 < d.inputs.offers) || d.inputs.dueWithPlan then .slow
  else .off

/-- ATTENTION and the lamp recomputed. A new pattern begins with its lit phase; an unchanged one runs
on undisturbed (R196). -/
def Desk.refresh (d : Desk) : Desk :=
  if d.lampPattern = d.lamp then { d with attention := d.attentionLevel }
  else { d with attention := d.attentionLevel, lamp := d.lampPattern,
                lit := decide (d.lampPattern ≠ .off) }

/-- A notice is raised: its flag is set, and stays set if it was (R191). -/
def State.raise (n : Notice) (s : State) : State :=
  s.onDesk fun d => Desk.refresh { d with notices := d.notices ||| BitVec.ofNat 18 (2 ^ n.bit) }

/-- A change of what the blocks have told the desk unit for the lamp. -/
def State.tellDesk (f : LampInputs → LampInputs) (s : State) : State :=
  s.onDesk fun d => Desk.refresh { d with inputs := f d.inputs }

/-- A plan of an edition enters PLANNED (R120). -/
def State.planEnters (edition : Nat) (s : State) : State :=
  s.tellDesk fun i => { i with planned := i.planned.modify (edition - 1) (· + 1) }

/-- A plan of an edition leaves PLANNED (R120). -/
def State.planLeaves (edition : Nat) (s : State) : State :=
  s.tellDesk fun i => { i with planned := i.planned.modify (edition - 1) (· - 1) }

end Sys2Proof.Machine
end

