-- ==== Sys2Proof/Machine/Rows.lean ====
section
/-!
DEFINITION. Windows, their row tables and stagings, the status row, and the choice of the next row to
build (R162, R166 to R172, R176). The reads of a build are completed in Accesses.lean.
-/

namespace Sys2Proof.Machine

/-! ## Dirtying and discarding (R166, R170) -/

/-- Every row. -/
def anyRow (_ : Nat) : Bool := true

/-- Rows 1..20. -/
def textRow (r : Nat) : Bool := decide (1 ≤ r)

/-- Row 0. -/
def statusRowOnly (r : Nat) : Bool := decide (r = 0)

/-- The staging holds a row among `rows`, as BUILDING or READY. -/
def Staging.holds (rows : Nat → Bool) : Staging → Bool
  | .empty => false
  | .building r => rows r
  | .ready r => rows r.number

/-- Rows made DIRTY; a staged row among them is discarded (R166, R170). -/
def Window.dirtyRows (rows : Nat → Bool) (w : Window) : Window :=
  { w with dirty := w.dirty.mapIdx fun i d => d || rows i,
           staging := if w.staging.holds rows then .empty else w.staging }

/-- The accesses of the row builder. -/
def Purpose.isRow (p : Purpose) : Bool := decide (p = .walkRead) || decide (p = .renderRead)

/-- The build in progress is abandoned: a waiting read is withdrawn, one in progress set aside, and
the row builder is idle (R170). -/
def State.abandonBuild (s : State) : State :=
  (s.onPort (Port.abandon Purpose.isRow)).onScreen fun c => { c with build := none }

/-- The build in progress serves a row among `rows` of lane `n`. -/
def Screen.builds (n : Nat) (rows : Nat → Bool) (c : Screen) : Bool :=
  c.build.any fun b => decide (b.lane = n) && rows b.row

/-- A change of one window. -/
def State.onWindow (n : Nat) (f : Window → Window) (s : State) : State :=
  s.onScreen fun c => { c with windows := c.windows.modify n f }

/-- Rows of window `n` made DIRTY, with the discard of a staged one. -/
def State.dirty (n : Nat) (rows : Nat → Bool) (s : State) : State :=
  State.onWindow n (Window.dirtyRows rows) (if s.screen.builds n rows then s.abandonBuild else s)

/-- An action on every enabled window, in ascending number. -/
def State.eachWindow (f : Nat → State → State) (s : State) : State :=
  (List.range s.screenCount).foldl (fun s n => f n s) s

/-- Row 0 of every enabled window made DIRTY (R172). -/
def State.dirtyStatus (s : State) : State := s.eachWindow fun n => State.dirty n statusRowOnly

/-! ## What the screen unit is told (R48, R82, R145, R172, R185) -/

/-- A status value told to the screen unit, which records it and sends row 0 again. -/
def State.tellStatus (f : Status → Status) (s : State) : State :=
  (s.onScreen fun c => { c with status := f c.status }).dirtyStatus

/-- A change of the line section's state, told to the screen unit and the desk unit (R48). -/
def State.tellLine (st : LineState) (s : State) : State :=
  (s.tellStatus fun x => { x with line := st }).tellDesk fun i => { i with line := st }

/-- The line section enters a state; a change is told (R48). -/
def State.enterLine (st : LineState) (s : State) : State :=
  let t := s.onLine fun l => { l with state := st }
  if s.line.state = st then t else t.tellLine st

/-- The number of offer-queue entries, told to the screen unit and the desk unit (R82). -/
def State.tellOffers (s : State) : State :=
  let n := s.pass.offers.length
  (s.tellStatus fun x => { x with offers := n }).tellDesk fun i => { i with offers := n }

/-- The current edition and its state, told to the screen unit and the desk unit (R145). -/
def State.tellCurrent (c : Current) (s : State) : State :=
  (s.tellStatus fun x => { x with current := some c }).tellDesk fun i => { i with current := some c }

/-- The desk state, changed and told to the screen unit (R185). -/
def State.enterDesk (st : DeskState) (s : State) : State :=
  (s.onDesk fun d => Desk.refresh { d with state := st }).tellStatus fun x => { x with desk := st }

/-! ## The status row (R171, R202) -/

/-- The character codes of a string of printable characters. -/
def codesOf (t : String) : List Byte := t.toList.map fun c => BitVec.ofNat 8 c.toNat

/-- A number below 100 in two digits. -/
def twoDigits (n : Nat) : List Byte :=
  [BitVec.ofNat 8 (0x30 + n / 10 % 10), BitVec.ofNat 8 (0x30 + n % 10)]

/-- Codes left-aligned in `width` columns, padded with spaces. -/
def padTo (width : Nat) (codes : List Byte) : List Byte :=
  (codes ++ List.replicate width 0x20#8).take width

/-- The 64 codes of row 0. -/
def statusCodes (station : Nat) (clock : Clock) (st : Status) (flash : Option Flash) : List Byte :=
  let time :=
    if clock.isSet then
      twoDigits (clock.time / 3600) ++ codesOf ":" ++ twoDigits (clock.time % 3600 / 60)
    else codesOf "--:--"
  let edition :=
    match st.current with
    | some (some (n, _)) => codesOf "E" ++ [BitVec.ofNat 8 (0x30 + n)]
    | _ => codesOf "E-"
  let mark :=
    match st.current with
    | some none => codesOf "CLSD"
    | some (some (_, .due)) => codesOf "DUE"
    | some (some (_, .late)) => codesOf "LATE"
    | _ => []
  let fault := if st.line = .listenOnly ∨ st.line = .stuck then codesOf "LF" else []
  let offers := codesOf "O" ++ [BitVec.ofNat 8 (0x30 + st.offers)]
  let desk := if st.desk = .unattended then codesOf "UNATTND" else []
  padTo 4 (codesOf "S" ++ twoDigits station) ++ padTo 6 time ++ padTo 4 edition ++ padTo 5 mark ++
    padTo 3 fault ++ padTo 2 offers ++ padTo 8 desk ++
    padTo 32 ((flash.map (·.text)).getD [])

/-- Row 0 of a window as it is built now. -/
def State.statusRow (mode : Mode) (s : State) : Row :=
  { number := 0, mode := mode, cursor := 0,
    codes := statusCodes s.desk.station s.clock s.screen.status s.screen.flash }

/-- A blank text row. -/
def blankRow (r : Nat) (mode : Mode) : Row :=
  { number := r, mode := mode, cursor := 0, codes := List.replicate 64 0x20#8 }

/-! ## Choosing and staging rows (R167) -/

/-- The lowest-numbered DIRTY row that may be built: row 0 always, rows 1..20 while the window is not
waiting on edit. -/
def Window.nextRow (w : Window) : Option Nat :=
  indexWhere (fun p : Bool × Nat => p.1 && (decide (p.2 = 0) || !w.waiting)) w.dirty.zipIdx

/-- A row that needs no access to the store (R167). -/
def Window.needsNoAccess (w : Window) (r : Nat) : Bool :=
  decide (r = 0) || w.key.isNone || w.lineMap.any fun starts => (starts[r - 1]?).isNone

/-- Row `r` staged as READY, and CLEAN. -/
def Window.stage (row : Row) (w : Window) : Window :=
  { w with staging := .ready row, dirty := w.dirty.set row.number false }

/-- Lane `n`, if it is ready and its next row needs no access, is given that row at once. -/
def State.stageAtOnce (n : Nat) (s : State) : State :=
  match s.screen.windows[n]? with
  | none => s
  | some w =>
      if w.staging = .empty then
        match w.nextRow with
        | none => s
        | some r =>
            if w.needsNoAccess r then
              s.onWindow n (Window.stage (if r = 0 then s.statusRow w.mode else blankRow r w.mode))
            else s
      else s

/-- The window's lane waits for the row builder: ready, with a row that needs the store. -/
def Window.waitsForBuilder (w : Window) : Bool :=
  decide (w.staging = .empty) && w.nextRow.any fun r => !w.needsNoAccess r

/-- The first waiting lane from the lane after the one served last, wrapping from 7 to 0. -/
def State.nextLane (s : State) : Option Nat :=
  (List.range 8).map (fun k => (s.screen.lastServed + 1 + k) % 8) |>.find? fun n =>
    decide (n < s.screenCount) && (s.screen.windows[n]?).any Window.waitsForBuilder

/-- The end of the line walk of lane `n` with `count` screen lines read to the text's end (R168):
the top line is clamped when it lies at or below the count. -/
def Window.walkedToEnd (count lastStart : Nat) (starts : List Nat) (w : Window) : Window :=
  if count ≤ w.top then
    { w with top := count - 1, lineMap := some (if count = 0 then [] else [lastStart]) }
  else { w with lineMap := some starts }

/-- The row builder begins the render of row `r` of lane `n`, whose line starts at `start` (R169). -/
def State.beginRender (n r start : Nat) (story : Story) (s : State) : State :=
  (s.onScreen fun c =>
      { c with build := some { lane := n, row := r,
                               phase := .render start (start / 32) Breaker.start } }).requestChain
    .renderRead story.chain story.length (start / 32)

/-- After a line map stands: the render of row `r`, or the blank row where the map holds no start or
no text remains. -/
def State.renderOrBlank (n r : Nat) (story : Story) (s : State) : State :=
  match s.screen.windows[n]? with
  | none => s
  | some w =>
      match w.lineMap.bind (fun starts => starts[r - 1]?) with
      | some start =>
          if start < story.length then s.beginRender n r start story
          else
            (s.onScreen fun c => { c with build := none }).onWindow n
              (Window.stage (blankRow r w.mode))
      | none =>
          (s.onScreen fun c => { c with build := none }).onWindow n
            (Window.stage (blankRow r w.mode))

/-- The row builder takes lane `n` for row `r` (R167). A story of length 0 needs no access: its walk
ends at once with no line (R168). -/
def State.takeLane (n r : Nat) (w : Window) (s : State) : State :=
  let s := (s.onScreen fun c => { c with lastServed := n }).onWindow n fun w =>
    { w with staging := .building r }
  match w.key.bind s.story with
  | none => s.onWindow n fun w => Window.stage (blankRow r w.mode) w
  | some story =>
      match w.lineMap with
      | some _ => s.renderOrBlank n r story
      | none =>
          if story.length = 0 then
            (s.onWindow n (Window.walkedToEnd 0 0 [])).renderOrBlank n r story
          else
            (s.onScreen fun c =>
                { c with build := some { lane := n, row := r,
                                         phase := .walk 0 Breaker.start 0 0 [] } }).requestChain
              .walkRead story.chain story.length 0

/-- The idle row builder chooses a waiting lane and takes it. -/
def State.chooseLane (s : State) : State :=
  if s.screen.build.isSome then s
  else
    match s.nextLane with
    | none => s
    | some n =>
        match s.screen.windows[n]? with
        | none => s
        | some w =>
            match w.nextRow with
            | none => s
            | some r => s.takeLane n r w

/-- Every ready lane is given its row, and the row builder chooses, in the same change as the event
that made it possible (R167). A lane served at once leaves the builder idle, so it chooses again:
eight lanes at most. -/
def State.settleRows (s : State) : State :=
  (List.range 9).foldl (fun s _ => (s.eachWindow State.stageAtOnce).chooseLane) s

/-! ## Story notifications at the windows (R176) -/

/-- An action on every window whose key is `k`. -/
def State.eachWindowOn (k : Key) (f : Nat → State → State) (s : State) : State :=
  (List.range 8).foldl
    (fun s n => if (s.screen.windows[n]?).any fun w => decide (w.key = some k) then f n s else s) s

/-- in-edit. -/
def State.windowsInEdit (k : Key) (s : State) : State :=
  s.eachWindowOn k fun n s =>
    (s.dirty n textRow).onWindow n fun w => { w with lineMap := none, waiting := true }

/-- text-changed: the cursor is clamped to the new length. Rows 1..20 become DIRTY (R166, R176). DEDUCED (log entry
36): they alone do at a commit too, where R91 says 'all their rows', as the example of section 8.9 shows. -/
def State.windowsTextChanged (k : Key) (length : Nat) (s : State) : State :=
  s.eachWindowOn k fun n s =>
    (s.dirty n textRow).onWindow n fun w =>
      { w with lineMap := none, waiting := false, cursor := w.cursor.map (min length) }

/-- edit-barred: a window in EDIT turns to READ. -/
def State.windowsEditBarred (k : Key) (s : State) : State :=
  s.eachWindowOn k fun n s =>
    if (s.screen.windows[n]?).any fun w => decide (w.mode = .edit) then
      (s.dirty n anyRow).onWindow n fun w => { w with mode := .read }
    else s

/-- A window made blank, its rows and staging as they stand (R162). -/
def Window.blanked (w : Window) : Window :=
  { w with key := none, mode := .read, top := 0, cursor := none, lineMap := none, waiting := false }

/-- story-freed: the window becomes blank; row 0 is sent again when it was in EDIT. -/
def State.windowsStoryFreed (k : Key) (s : State) : State :=
  s.eachWindowOn k fun n s =>
    let edit := (s.screen.windows[n]?).any fun w => decide (w.mode = .edit)
    (s.dirty n (if edit then anyRow else textRow)).onWindow n Window.blanked

end Sys2Proof.Machine
end

