-- ==== Sys2Proof/Machine/FitPages.lean ====
section
/-!
DEFINITION. The fit queue and the page engine, whose changes follow from one another within one step:
a run's end tells the page engine (R106, R127), a page request joins the queue (R103, R126), a plan's
end makes the next head enter FITTING (R124, R125). `State.settleFits` carries these changes on until
none is left.
-/

namespace Sys2Proof.Machine

/-! ## The fit queue (R101, R103) -/

/-- An identical request: the same key and setting. -/
def FitRequest.same (k : Key) (t : Setting) (q : FitRequest) : Bool :=
  decide (q.key = k) && decide (q.setting = t)

/-- The queue holds an identical request. -/
def FitEngine.hasSame (k : Key) (t : Setting) (e : FitEngine) : Bool := e.queue.any (FitRequest.same k t)

/-- A requester added to the identical request. -/
def FitEngine.join (k : Key) (t : Setting) (host page : Bool) (e : FitEngine) : FitEngine :=
  { e with queue := e.queue.map fun q =>
      if q.same k t then { q with host := q.host || host, page := q.page || page } else q }

/-- A new request, as the youngest. -/
def FitEngine.add (k : Key) (t : Setting) (host page : Bool) (e : FitEngine) : FitEngine :=
  { e with queue := e.queue ++ [{ key := k, setting := t, host := host, page := page }] }

/-- A page request: it joins an identical one, is added, or is held as the waiting one (R103). -/
def FitEngine.pageRequest (k : Key) (t : Setting) (e : FitEngine) : FitEngine :=
  if e.hasSame k t then e.join k t false true
  else if e.queue.length < 4 then e.add k t false true
  else { e with waiting := some (k, t) }

/-- The oldest request leaves the queue; a waiting page request joins in the same change. -/
def FitEngine.leave (e : FitEngine) : FitEngine :=
  let e := { e with queue := e.queue.tail, run := none }
  match e.waiting with
  | none => e
  | some (k, t) => { e.add k t false true with waiting := none }

/-- The oldest request's run is in flight: it reads, or waits for the store's answer. -/
def FitEngine.inFlight (e : FitEngine) : Bool :=
  match e.run with
  | some (.reading _) | some (.storing _ _ _ _) => true
  | _ => false

/-- The page engine withdraws its requests: a queued request left with no requester is removed, the
one whose run is in flight runs to its end (R103). -/
def FitEngine.withdrawPage (e : FitEngine) : FitEngine :=
  let off (q : FitRequest) : FitRequest := { q with page := false }
  let keep (q : FitRequest) : Bool := q.host
  let e := { e with waiting := none }
  match e.queue with
  | [] => e
  | q :: rest =>
      if e.inFlight || q.host then { e with queue := off q :: (rest.map off).filter keep }
      else { e with queue := (rest.map off).filter keep, run := none }

/-! ## Faces (R96, R99) -/

/-- KNOWN: all three parts received. -/
def Face.known (f : Face) : Bool := f.part0.isSome && f.part1.isSome && f.part2.isSome

/-- The 96 widths of a KNOWN face, absent otherwise. -/
def Face.table (f : Face) : Option (List Nat) :=
  match f.part0, f.part1, f.part2 with
  | some a, some b, some c => some (a ++ b ++ c)
  | _, _, _ => none

def FitEngine.face (e : FitEngine) (n : Nat) : Face := e.faces.getD n Face.absent

/-! ## Plans -/

def State.plan (s : State) (slot : Nat) : Option Plan := s.page.plans.getD slot none

/-- A change of the plan in a slot. -/
def State.onPlan (slot : Nat) (f : Plan → Plan) (s : State) : State :=
  s.onPage fun e => { e with plans := e.plans.modify slot (Option.map f) }

/-- A change of one placement. -/
def Plan.onPlacement (i : Nat) (f : Placement → Placement) (p : Plan) : Plan :=
  { p with placements := p.placements.modify i f }

/-- QUEUED, FITTING or SENDING: the plan holds its locks and stands in the send order (R120). -/
def PlanState.underWay : PlanState → Bool
  | .queued | .fitting | .sending => true
  | _ => false

/-- The head plan's slot and plan (R124). -/
def State.headPlan (s : State) : Option (Nat × Plan) :=
  match s.page.sendOrder with
  | [] => none
  | slot :: _ => (s.plan slot).map fun p => (slot, p)

/-- The story of a key carries a fit record made in exactly this setting. -/
def State.fitted (k : Key) (t : Setting) (s : State) : Bool :=
  (s.story k).any fun r => r.fit.any fun f => decide (f.setting = t)

/-! ## Locks (R21, R125) -/

/-- take lock; a HELD story sends the edit-barred notification. -/
def State.takeLock (k : Key) (slot : Nat) (s : State) : State :=
  let t := s.onStore (Store.change k fun r => { r with lock := some slot })
  if (s.story k).any Story.isHeld then t.windowsEditBarred k else t

/-- release lock. -/
def State.releaseLock (k : Key) (s : State) : State :=
  s.onStore (Store.change k fun r => { r with lock := none })

/-! ## The page transfer (R130, R131, R134) -/

def Purpose.isPage (p : Purpose) : Bool := decide (p = .pageRead)

/-- A built frame of the present step goes into the page share. -/
def State.sendPageFrame (f : OutFrame) (s : State) : State :=
  (s.send .page f).onPage fun e => { e with transfer := { e.transfer with frame := .queued } }

/-- The result of a placement; the fit check has set it before any frame is built (R129). -/
def Placement.found (p : Placement) : PlacementResult :=
  p.result.getD
    { lines := 0, flags := { estimated := false, overwide := false, saturated := false },
      columnLines := 0, depth := 0, overset := 0 }

/-- The frame of the present step is prepared (R131). A PAGE HEAD that meets a pending drop waits (R134); DESIGN
CHOICE (log entry 37): frame in hand is preparing meanwhile. -/
def State.preparePage (s : State) : State :=
  let t := s.page.transfer
  match t.plan.bind s.plan with
  | none => s
  | some p =>
      match t.step with
      | .head =>
          let f := pageHeadFrame s.typesetRole p.page p.edition p.placements.length
          if t.drop.isSome then
            s.onPage fun e =>
              { e with ready := some f, transfer := { e.transfer with frame := .preparing } }
          else s.sendPageFrame f
      | .placement =>
          match p.placements[t.placement]? with
          | none => s
          | some q => s.sendPageFrame (placementFrame s.typesetRole t.placement q q.found)
      | .text =>
          match (p.placements[t.placement]?).bind fun q => s.story q.key with
          | none => s
          | some r =>
              (s.onPage fun e =>
                  { e with transfer := { e.transfer with frame := .preparing } }).requestChain
                .pageRead r.chain r.length t.chunk
      | .finish => s.sendPageFrame (pageEndFrame s.typesetRole p.page t.sent)

/-- A SENDING plan ends by CANCEL PAGE, a close or damage (R134): a PAGE DROP follows when its PAGE
HEAD had been inserted; else the waiting PAGE HEAD is discarded and an earlier drop stays. -/
def State.stopTransfer (reason : DropReason) (p : Plan) (s : State) : State :=
  let t := s.page.transfer
  let s := s.onPort (Port.abandon Purpose.isPage)
  if t.step ≠ .head ∨ t.frame = .queued then
    let f := pageDropFrame s.typesetRole p.page reason
    let s := (s.withdraw .page).onPage fun e =>
      { e with transfer := { Transfer.clear with drop := some reason }, ready := none }
    if s.traffic.hasRoom .page then s.send .page f
    else s.onPage fun e => { e with dropReady := some f }
  else
    s.onPage fun e => { e with transfer := { Transfer.clear with drop := t.drop }, ready := none }

/-! ## The end of a plan (R125) -/

/-- The PAGE DROP a SENDING plan's outcome calls for, if any (R132, R134). -/
def PlanState.dropReason : PlanState → Option DropReason
  | .cancelled => some .cancelled
  | .dropped => some .closed
  | .failed .damaged => some .damaged
  | _ => none

/-- The notice of an outcome (R125). -/
def PlanState.notice : PlanState → Option Notice
  | .sent => some .pageSent
  | .failed _ | .overset => some .pageFailed
  | .dropped => some .pageDropped
  | _ => none

/-- What ending a plan does to the transfer record. -/
def State.endTransfer (outcome : PlanState) (p : Plan) (s : State) : State :=
  match outcome.dropReason with
  | some reason => s.stopTransfer reason p
  | none => s.onPage fun e => { e with transfer := Transfer.clear, ready := none }

/-- A plan ends: its outcome, its locks, its fit requests, its transfer, its place in the send order
and its notice, as one change. `State.settleFits` then chooses the next head. -/
def State.endPlan (slot : Nat) (outcome : PlanState) (s : State) : State :=
  match s.plan slot with
  | none => s
  | some p =>
      let s := s.onPlan slot fun p => { p with state := outcome }
      let s := if p.state.underWay then p.placements.foldl (fun s q => s.releaseLock q.key) s else s
      let s :=
        if p.state = .fitting then
          (s.onFit FitEngine.withdrawPage).onPage fun e => { e with requests := [], outstanding := [] }
        else s
      let s := if p.state = .sending then s.endTransfer outcome p else s
      let s := s.onPage fun e => { e with sendOrder := e.sendOrder.filter (· ≠ slot) }
      let s := if p.state = .planned then s.planLeaves p.edition else s
      match outcome.notice with
      | some n => s.raise n
      | none => s

/-! ## Fitting the placements (R126 to R129) -/

/-- A fit of a placement ended STALE or was lost (R127, R128): it is requested again, or the plan ends
FAILED(FIT UNSETTLED) when its stale count was already 3. -/
def State.placementStale (slot i : Nat) (s : State) : State :=
  match (s.plan slot).bind fun p => p.placements[i]? with
  | none => s
  | some q =>
      if q.stale < 3 then
        (s.onPlan slot (Plan.onPlacement i fun q => { q with stale := q.stale + 1 })).onPage fun e =>
          { e with requests := e.requests ++ [i], outstanding := e.outstanding.filter (· ≠ i) }
      else s.endPlan slot (.failed .fitUnsettled)

/-- The page engine is told the outcome of a run (R127). A locked story cannot be freed, so NO STORY
does not arise; it is taken like STALE (log entry 16). -/
def State.tellPage (k : Key) (t : Setting) (o : FitOutcome) (s : State) : State :=
  match s.headPlan with
  | none => s
  | some (slot, p) =>
      if p.state = .fitting then
        match s.page.outstanding.find? fun i =>
            (p.placements[i]?).any fun q => decide (q.key = k) && decide (q.setting = t) with
        | none => s
        | some i =>
            if o = .done then
              s.onPage fun e => { e with outstanding := e.outstanding.filter (· ≠ i) }
            else s.placementStale slot i
      else s

/-- The end of the oldest request's run (R106): the request leaves the queue and its requesters are
told. -/
def State.endRun (o : FitOutcome) (s : State) : State :=
  match s.fit.queue with
  | [] => s.onFit fun e => { e with run := none }
  | q :: _ =>
      let s := s.onFit FitEngine.leave
      let s :=
        if q.host then
          (s.onFit fun e =>
            { e with last := some { key := q.key, setting := q.setting, outcome := o } }).raise .fitDone
        else s
      if q.page then s.tellPage q.key q.setting o else s

def Purpose.isFit (p : Purpose) : Bool := decide (p = .fitRead)

/-- A run ends before its reads are done: its waiting read is withdrawn, one in progress set aside
(R105). -/
def State.stopRun (o : FitOutcome) (s : State) : State :=
  (s.onPort (Port.abandon Purpose.isFit)).endRun o

/-- A run begins for the oldest request (R104). -/
def State.beginRun (q : FitRequest) (s : State) : State :=
  match s.story q.key with
  | none => s.endRun .noStory
  | some r =>
      if s.fit.editKey = some q.key then s.onFit fun e => { e with run := some .held }
      else
        let reading : FitReading :=
          { table := (s.fit.face q.setting.face).table, capacity := capacityOf q.setting,
            firstCap := firstCapacityOf q.setting, length := r.length, block := 0,
            breaker := Breaker.start, lines := 0, overwide := false }
        if r.length = 0 then
          s.onFit fun e => { e with run := some (.storing (reading.record q.setting 0) 0 false false) }
        else
          (s.onFit fun e => { e with run := some (.reading reading) }).requestChain
            .fitRead r.chain r.length 0

/-- The request list of a plan that enters FITTING: each placement, in plan order, whose story has no
record in its setting (R126). -/
def State.unfitted (p : Plan) (s : State) : List Nat :=
  (List.range p.placements.length).filter fun i =>
    (p.placements[i]?).any fun q => !s.fitted q.key q.setting

/-- What the fit check finds for a placement (R128). -/
def Placement.resultOf (q : Placement) (f : FitRecord) : PlacementResult :=
  { lines := f.lines, flags := f.flags, columnLines := columnLines f.lines q.columns,
    depth := points q.setting f.lines q.columns,
    overset := oversetOf q.setting f.lines q.columns q.budget }

/-- The result set from the story's present fit record. -/
def State.setResult (q : Placement) (s : State) : Placement :=
  match (s.story q.key).bind (·.fit) with
  | some f => { q with result := some (q.resultOf f) }
  | none => q

/-- A plan enters SENDING (R129, R130). -/
def State.enterSending (slot : Nat) (s : State) : State :=
  ((s.onPlan slot fun p => { p with state := .sending }).onPage fun e =>
    { e with transfer := { Transfer.clear with plan := some slot, drop := e.transfer.drop } }).preparePage

/-- The fit check and the overset decision (R128, R129). DESIGN CHOICE (log entry 38): once a lost record has
ended the plan, the losses of the placements after it are not counted. -/
def State.fitCheck (slot : Nat) (p : Plan) (s : State) : State :=
  let lost := s.unfitted p
  if lost ≠ [] then
    lost.foldl
      (fun s i => if (s.plan slot).any fun p => decide (p.state = .fitting) then s.placementStale slot i
                  else s) s
  else if p.placements.any fun q => (s.story q.key).any (·.damaged) then
    s.endPlan slot (.failed .damaged)
  else
    let found := p.placements.map s.setResult
    let s := s.onPlan slot fun p => { p with placements := found }
    if found.any (fun q => decide (0 < q.found.overset)) && !p.sendOverset then s.endPlan slot .overset
    else s.enterSending slot

/-- One change of the fit queue or the page engine that follows at once from the state, or none. -/
def State.fitStep (s : State) : Option State :=
  match s.fit.run, s.fit.queue with
  | none, q :: _ => some (s.beginRun q)
  | _, _ =>
      match s.headPlan with
      | none => none
      | some (slot, p) =>
          if p.state = .queued then
            some ((s.onPlan slot fun p => { p with state := .fitting }).onPage fun e =>
              { e with requests := s.unfitted p, outstanding := [] })
          else if p.state = .fitting then
            match s.page.requests with
            | i :: rest =>
                if s.fit.waiting.isSome then none
                else
                  match p.placements[i]? with
                  | none => some (s.onPage fun e => { e with requests := rest })
                  | some q =>
                      some ((s.onFit (FitEngine.pageRequest q.key q.setting)).onPage fun e =>
                        { e with requests := rest, outstanding := e.outstanding ++ [i] })
            | [] => if s.page.outstanding = [] then some (s.fitCheck slot p) else none
          else none

/-- `fuel` changes at most. -/
def State.settleFitsFor : Nat → State → State
  | 0, s => s
  | fuel + 1, s =>
      match s.fitStep with
      | none => s
      | some t => State.settleFitsFor fuel t

/-- The changes of the fit queue and the page engine that follow at once, until none is left. Four
plans of twelve placements, each requested at most four times, and four runs bound them. -/
def State.settleFits (s : State) : State := State.settleFitsFor 512 s

/-! ## Story notifications at the fit engine (R104, R105) -/

/-- The run in flight reads, and its request's key is `k`. -/
def FitEngine.readsKey (k : Key) (e : FitEngine) : Bool :=
  match e.run, e.queue with
  | some (.reading _), q :: _ => decide (q.key = k)
  | _, _ => false

/-- The run is held for the story `k` in edit. -/
def FitEngine.heldFor (k : Key) (e : FitEngine) : Bool :=
  match e.run, e.queue with
  | some .held, q :: _ => decide (q.key = k)
  | _, _ => false

/-- A run that waits for the store's answer with a record of `k` learns that the text has changed. -/
def FitEngine.noteText (k : Key) (e : FitEngine) : FitEngine :=
  match e.run, e.queue with
  | some (.storing record blocks widthsSince _), q :: _ =>
      if q.key = k then { e with run := some (.storing record blocks widthsSince true) } else e
  | _, _ => e

/-- in-edit: a run of the story ends STALE. -/
def State.fitInEdit (k : Key) (s : State) : State :=
  let s := s.onFit fun e => { e.noteText k with editKey := some k }
  (if s.fit.readsKey k then s.stopRun .stale else s).settleFits

/-- text-changed: the PLACE has ended, so a held run begins; a run of a replaced carbon ends STALE. -/
def State.fitTextChanged (k : Key) (s : State) : State :=
  let s := s.onFit fun e => { e.noteText k with editKey := e.editKey.filter (· ≠ k) }
  (if s.fit.heldFor k then s.onFit fun e => { e with run := none }
   else if s.fit.readsKey k then s.stopRun .stale
   else s).settleFits

/-- story-freed: a run of the story, or one held for it, ends NO STORY. -/
def State.fitStoryFreed (k : Key) (s : State) : State :=
  let s := s.onFit fun e => { e.noteText k with editKey := e.editKey.filter (· ≠ k) }
  (if s.fit.heldFor k || s.fit.readsKey k then s.stopRun .noStory else s).settleFits

/-! ## The store's notifications (R22) -/

def State.notifyInEdit (k : Key) (s : State) : State := (s.windowsInEdit k).fitInEdit k

def State.notifyTextChanged (k : Key) (s : State) : State :=
  (s.windowsTextChanged k (((s.story k).map (·.length)).getD 0)).fitTextChanged k

def State.notifyStoryFreed (k : Key) (s : State) : State := (s.windowsStoryFreed k).fitStoryFreed k

/-- A record freed, its chain returned in chain order, with the story-freed notification (R18, R20,
R21). -/
def State.freeStory (k : Key) (s : State) : State :=
  (s.onStore (Store.free k id)).notifyStoryFreed k

end Sys2Proof.Machine
end

