-- ==== Sys2Proof/Machine/Editions.lean ====
section
/-!
DEFINITION. The edition clock: the publishing day, edition transitions and their effects, roll-forward,
the four kinds of set, and TIME MARK frames (R141 to R156).
-/

namespace Sys2Proof.Machine

/-! ## Time (R141, R142) -/

/-- Seconds of a day. -/
def daySeconds : Nat := 86400

/-- The publishing-day time of a time of day: (t − 60 × day start) mod 86400 (R142). -/
def dayTime (dayStart t : Nat) : Nat := (t + daySeconds - 60 * dayStart) % daySeconds

/-- The status-changed notification: the status rows become dirty (R141, R147). -/
def State.statusChanged (s : State) : State := s.dirtyStatus

/-! ## Editions (R143 to R145) -/

/-- Minute of the publishing day at which an edition becomes DUE, LATE and CLOSED (R143). -/
def dueMinute (e : EditionSpec) : Nat := e.deadline - e.lead
def lateMinute (e : EditionSpec) : Nat := e.deadline
def closeMinute (e : EditionSpec) : Nat := min (e.deadline + e.margin) 1439

/-- The order OPEN, DUE, LATE, CLOSED (R144). -/
def EditionState.rank : EditionState → Nat
  | .opened => 0
  | .due => 1
  | .late => 2
  | .closed => 3

/-- The current edition and its state: the lowest-numbered one that is not CLOSED (R145). -/
def currentOf (states : List EditionState) : Current :=
  (indexWhere (fun st : EditionState => decide (st ≠ .closed)) states).map fun i =>
    (i + 1, states.getD i .opened)

def State.current (s : State) : Current := currentOf s.clock.editions

/-- The state of an edition of the table, if the table has it. -/
def State.editionState (s : State) (edition : Nat) : Option EditionState :=
  if edition = 0 then none else s.clock.editions[edition - 1]?

/-- The edition is CLOSED here. -/
def State.editionClosed (s : State) (edition : Nat) : Bool := decide (s.editionState edition = some .closed)

/-- A change of edition states, told to the screen unit and the desk unit when the current edition or
its state is no longer what it was (R145). -/
def State.changeEditions (f : List EditionState → List EditionState) (s : State) : State :=
  let t := s.onClock fun c => { c with editions := f c.editions }
  if t.current = s.current then t else t.tellCurrent t.current

/-! ## Closing an edition (R137, R147, R148) -/

/-- The page engine ends every plan of a closed edition that is PLANNED or under way, and releases their locks
(R137). DESIGN CHOICE (log entry 35): in ascending slot number. The next head is the close's last effect. -/
def State.closePlans (edition : Nat) (s : State) : State :=
  (List.range 4).foldl
    (fun s slot =>
      if (s.plan slot).any fun p =>
          decide (p.edition = edition) && (decide (p.state = .planned) || p.state.underWay) then
        s.endPlan slot .dropped
      else s) s

/-- The roll-forward: every record without a page lock whose edition is now CLOSED is set to the
current edition, if there is one (R148). -/
def State.rollForward (s : State) : State :=
  match s.current with
  | none => s
  | some (n, _) =>
      s.onStore fun st =>
        { st with stories := st.stories.map fun r =>
            if r.lock.isNone && s.editionClosed r.edition then { r with edition := n } else r }

/-- The roll-forward of a close, which finds the locks that plans of other editions hold (R137, R148), and then
the next head, which may end at once and release its own. That it comes last is DESIGN CHOICE (log entry 35). -/
def State.closeEnds (s : State) : State := s.rollForward.settleFits

/-- A transition of edition `edition` (numbered from 1) to a state, with its effects; none when the
edition's state is not before it (R144, R147). The number counts the transitions applied. -/
def State.transition (edition : Nat) (target : EditionState) (x : State × Nat) : State × Nat :=
  match x.1.editionState edition with
  | none => x
  | some old =>
      if old.rank < target.rank then
        let s := x.1.changeEditions fun states => states.set (edition - 1) target
        let s := (s.raise .editionStep).statusChanged
        let s := if target = .closed then (s.closePlans edition).closeEnds else s
        (s, x.2 + 1)
      else x

/-- The day rollover: every edition returns to OPEN (R142, R146). -/
def State.rollover (x : State × Nat) : State × Nat :=
  let s := x.1.changeEditions fun states => states.map fun _ => .opened
  ((s.raise .editionStep).statusChanged, x.2 + 1)

/-- The transitions of one edition that fall at publishing-day time `p`, DUE before LATE before CLOSED. -/
def State.editionInstant (p edition : Nat) (e : EditionSpec) (x : State × Nat) : State × Nat :=
  let x := if p = 60 * dueMinute e then State.transition edition .due x else x
  let x := if p = 60 * lateMinute e then State.transition edition .late x else x
  if p = 60 * closeMinute e then State.transition edition .closed x else x

/-- What falls at the instant that marks time of day `t`: the rollover, then each edition's
transitions from the lowest number up (R144, R146 steps 1 and 2). -/
def State.instant (t : Nat) (x : State × Nat) : State × Nat :=
  let p := dayTime x.1.dayStart t
  let x := if p = 0 then State.rollover x else x
  x.1.editionTable.zipIdx.foldl (fun x e => State.editionInstant p (e.2 + 1) e.1 x) x

/-! ## TIME MARK (R156) -/

/-- This station is its own clock source. -/
def State.ownSource (s : State) : Bool := decide (s.clockSource = s.desk.station)

/-- A TIME MARK of time `t` for the out queue: a WAITING mark is replaced at once, an ON LINE one at
its withdrawal report, and without room none is sent. -/
def State.sendMark (t : Nat) (s : State) : State :=
  let s := s.withdraw .clock
  if s.traffic.queue.any fun e => decide (e.owner = .clock) then
    s.onClock fun c => { c with nextMark := some t }
  else s.send .clock (timeMarkFrame t)

/-- The minute change at a second event (R141, R146 step 3). -/
def State.minuteChange (s : State) : State :=
  let s := s.statusChanged
  if s.ownSource && s.clock.isSet then s.sendMark s.clock.time else s

/-! ## The second event (R146) -/

/-- A second event; while the clock is unset it does not advance (R141). -/
def State.second (s : State) : State :=
  if s.clock.isSet then
    let t := (s.clock.time + 1) % daySeconds
    let s := s.onClock fun c => { c with time := t }
    let s := (State.instant t (s, 0)).1
    if t % 60 = 0 then s.minuteChange else s
  else s

/-! ## Sets (R150 to R153) -/

/-- The instants of whole minutes in a forward span: `count` of them from minute `minute` on. -/
def State.passMinutes (minute : Nat) : Nat → State × Nat → State × Nat
  | 0, x => x
  | count + 1, x =>
      State.passMinutes (minute + 1) count (State.instant (60 * minute % daySeconds) x)

/-- The time set to `n`, with the minute change of R141 when it falls in another minute. -/
def State.setTime (n : Nat) (s : State) : State :=
  let old := s.clock.time
  let s := s.onClock fun c => { c with time := n }
  if n / 60 = old / 60 then s else s.statusChanged

/-- A forward set (R151). Every rollover and transition falls on a whole minute. -/
def State.forwardSet (n : Nat) (s : State) : State × Nat :=
  let old := s.clock.time
  let span := (n + daySeconds - old) % daySeconds
  let x := State.passMinutes (old / 60 + 1) ((old % 60 + span) / 60) (s, 0)
  (x.1.setTime n, x.2)

/-- The state an edition holds at publishing-day time `p` (R153 step 2). -/
def stateAt (p : Nat) (e : EditionSpec) : EditionState :=
  if 60 * closeMinute e ≤ p then .closed
  else if 60 * lateMinute e ≤ p then .late
  else if 60 * dueMinute e ≤ p then .due
  else .opened

/-- The first set (R153). The number counts the editions whose state it changed. -/
def State.firstSet (n : Nat) (s : State) : State × Nat :=
  let before := s.clock.editions
  let minute := decide (n / 60 ≠ s.clock.time / 60)
  let s := s.onClock fun c => { c with time := n, isSet := true }
  let after := s.editionTable.map (stateAt (dayTime s.dayStart n))
  let s := s.onClock fun c => { c with editions := after }
  let s := (s.raise .editionStep).statusChanged
  let s := s.tellCurrent s.current
  let s := after.zipIdx.foldl
    (fun s e => if e.1 = .closed then s.closePlans (e.2 + 1) else s) s
  let s := s.closeEnds
  (if minute then s.statusChanged else s,
   ((before.zip after).filter fun p => decide (p.1 ≠ p.2)).length)

/-- The kind of a set of time `n` (R150). -/
def State.setKind (n : Nat) (s : State) : SetKind :=
  if !s.clock.isSet then .first
  else
    let distance := (n + daySeconds - s.clock.time) % daySeconds
    if distance = 0 then .noChange else if distance ≤ 43199 then .forward else .backward

/-- A set of the clock to time `n` in 0..86399, and the transitions applied (R150, R154). -/
def State.setClock (n : Nat) (s : State) : State × Nat :=
  match s.setKind n with
  | .first => s.firstSet n
  | .noChange => (s, 0)
  | .forward => s.forwardSet n
  | .backward => (s.setTime n, 0)

/-! ## Commit (R149) -/

/-- A committed story for an edition CLOSED here, or above the edition count, is set to the current
edition, if there is one. -/
def State.commitEdition (k : Key) (s : State) : State :=
  match s.story k, s.current with
  | some r, some (n, _) =>
      if s.editionClosed r.edition || decide (s.clock.editions.length < r.edition) then
        s.onStore (Store.change k fun r => { r with edition := n })
      else s
  | _, _ => s

end Sys2Proof.Machine
end

