-- ==== Sys2Proof/Machine/Passing.lean ====
section
/-!
DEFINITION. The pass engine and the slip writer: outbound entries, offers and answers, inbound entries,
slips and commit (R61, R66 to R92), and what the out queue tells each owner at a frame's end.
-/

namespace Sys2Proof.Machine

/-! ## Outbound entries (R66) -/

def State.outbound (s : State) (n : Nat) : Option Pass := s.pass.outbound.getD n none

/-- A change of outbound entry `n`. -/
def State.onOutbound (n : Nat) (f : Pass → Pass) (s : State) : State :=
  s.onPass fun e => { e with outbound := e.outbound.modify n (Option.map f) }

/-- The pass is OFFERING or SENDING. -/
def Pass.underWay (p : Pass) : Bool := decide (p.phase ≠ .ended)

/-- The entry whose pass of `k` is under way; a story has one at most (R66). -/
def State.passOf (k : Key) (s : State) : Option (Nat × Pass) :=
  (indexWhere (fun o : Option Pass => o.any fun p => decide (p.key = k) && p.underWay)
    s.pass.outbound).bind fun n => (s.outbound n).map fun p => (n, p)

/-- The index of the final slip. -/
def Pass.finalSlip (p : Pass) : Nat := p.slipTotal - 1

/-- In SENDING the slip of index `nextSlip` is in hand from its preparation to its end (R66). -/
def Pass.finalInHand (p : Pass) : Bool := decide (p.phase = .sending) && decide (p.nextSlip = p.finalSlip)

/-- The accesses of outbound entry `n`. -/
def Purpose.ofOutbound (n : Nat) (p : Purpose) : Bool :=
  decide (p = .checkRead n) || decide (p = .slipRead n)

/-! ## The store's requests from the pass engine (R21) -/

/-- begin pass: HELD becomes OUTBOUND, received-from is cleared, edit-barred. -/
def State.beginPass (k : Key) (s : State) : State :=
  (s.onStore (Store.change k fun r => { r with custody := .outbound, receivedFrom := none })).windowsEditBarred k

/-- pass ended, return. -/
def State.returnStory (k : Key) (s : State) : State :=
  s.onStore (Store.change k fun r => { r with custody := .held })

/-- pass ended, carbon. -/
def State.carbonStory (k : Key) (s : State) : State :=
  s.onStore (Store.change k fun r => { r with custody := .carbon })

/-- pass unconfirmed. -/
def State.doubtStory (k : Key) (keepCarbon : Bool) (s : State) : State :=
  s.onStore (Store.change k fun r => { r with custody := .doubt keepCarbon })

/-! ## The end of a pass (R78) -/

/-- An entry ends: ENDED, with the next end order; its timer and its preparation stop, and a frame it
holds is withdrawn. PASS ENDED for every outcome but ABANDONED. -/
def State.endPass (n : Nat) (o : PassOutcome) (s : State) : State :=
  let s := s.onOutbound n fun p =>
    { p with phase := .ended, outcome := some o, endOrder := s.pass.nextEnd, timer := false,
             reading := none, ready := none }
  let s := s.onPass fun e => { e with nextEnd := e.nextEnd + 1 }
  let s := (s.onPort (Port.abandon (Purpose.ofOutbound n))).withdraw (.passEntry n)
  if o = .abandoned then s else s.raise .passEnded

/-- A pass ends and its story is HELD again. -/
def State.endReturn (n : Nat) (p : Pass) (o : PassOutcome) (s : State) : State :=
  (s.endPass n o).returnStory p.key

/-! ## Preparing the OFFER and the slips (R68, R74) -/

/-- A built frame of entry `n` goes into its share, or waits until the share has room. -/
def State.passFrame (n : Nat) (f : OutFrame) (s : State) : State :=
  if s.traffic.hasRoom (.passEntry n) then
    (s.send (.passEntry n) f).onOutbound n fun p =>
      { p with reading := none, ready := none, offered := p.offered || decide (f.kind = .offer) }
  else s.onOutbound n fun p => { p with reading := none, ready := some f }

/-- The OFFER of a pass (R68). -/
def Pass.offerFrame (p : Pass) (r : Story) : OutFrame :=
  Machine.offerFrame p.dest
    { key := p.key, slug := r.slug, edition := r.edition, length := r.length,
      slipTotal := p.slipTotal, storyCheck := p.storyCheck }

/-- The OFFER is built from the entry and the story, and inserted (R68). -/
def State.buildOffer (n : Nat) (s : State) : State :=
  match s.outbound n with
  | none => s
  | some p =>
      match s.story p.key with
      | none => s
      | some r => s.passFrame n (p.offerFrame r)

/-- The preparation of the OFFER begins: reads of the whole chain, or none for an empty story. -/
def State.prepareOffer (n : Nat) (k : Key) (s : State) : State :=
  if ((s.story k).map (·.length)).getD 0 = 0 then s.buildOffer n
  else s.onOutbound n fun p => { p with reading := some 0 }

/-- The SLIP in hand, built with its characters and inserted (R74). -/
def State.buildSlip (n : Nat) (codes : List Byte) (s : State) : State :=
  match s.outbound n with
  | none => s
  | some p => s.passFrame n (slipFrame (p.taker.getD 0) p.key p.nextSlip codes)

/-- The preparation of the slip in hand begins: one read, or none for an empty story (R74). -/
def State.prepareSlip (n : Nat) (s : State) : State :=
  match s.outbound n with
  | none => s
  | some p =>
      if ((s.story p.key).map (·.length)).getD 0 = 0 then s.buildSlip n []
      else s.onOutbound n fun p => { p with reading := some p.nextSlip }

/-! ## The slip writer's one request (R11, R61) -/

/-- Slip index of a stored SLIP. -/
def RxSlot.slipIndex (x : RxSlot) : Nat := twoAt x.payload 3

/-- Characters of a SLIP. -/
def RxSlot.slipText (x : RxSlot) : List Byte := x.payload.drop 5

/-- Key of a frame that begins with one. -/
def RxSlot.key (x : RxSlot) : Key := keyAt x.payload 0

/-- The write a stored SLIP makes. -/
def RxSlot.slipPurpose (x : RxSlot) (r : InboundRef) : Purpose :=
  .slipWrite r.entry r.pass x.slipIndex x.slipText

/-- An access in progress and not set aside is for this purpose. -/
def Port.serves (p : Purpose) (port : Port) : Bool :=
  port.busy.any fun a => decide (a.purpose = p) && !a.aside

/-- The inbound entry still holds the pass a stored SLIP was taken for (R61). -/
def State.holdsPass (r : InboundRef) (s : State) : Bool :=
  (s.pass.inbound.getD r.entry none).any fun b => decide (b.pass = r.pass)

/-- The write of the SLIP in the oldest full slot, once it has been handed on, while its entry holds the
pass. A write in progress is not asked for again, set aside or not: its slot is freed at its completion
(R61). -/
def State.slipWriteWanted (s : State) : Option Access :=
  match s.traffic.slots with
  | x :: _ =>
      match x.inbound with
      | some r =>
          if x.handed && s.holdsPass r &&
              !(s.port.busy.any fun a => decide (a.purpose = x.slipPurpose r)) then
            some { purpose := x.slipPurpose r,
                   block := (s.store.reservation r.entry).getD x.slipIndex 0, first := 0,
                   count := x.slipText.length, aside := false }
          else none
      | none => none
  | [] => none

/-- The read outbound entry `n` makes next. -/
def State.outboundWanted (s : State) (n : Nat) : Option Access :=
  match s.outbound n with
  | none => none
  | some p =>
      match p.reading, s.story p.key with
      | some i, some r =>
          let purpose := if p.phase = .offering then Purpose.checkRead n else .slipRead n
          if s.port.serves purpose then none
          else
            some { purpose := purpose, block := r.chain.getD i 0, first := 0,
                   count := charsIn r.length i, aside := false }
      | _, _ => none

/-- The access the slip writer asks for next: the write of the SLIP in the oldest full slot, else the
reads of the outbound entries in ascending number (R11). -/
def State.slipWriterWants (s : State) : Option Access :=
  s.slipWriteWanted.or ((List.range 4).findSome? s.outboundWanted)

/-- The slip writer makes its request when none of its own waits. -/
def State.slipWriterRequest (s : State) : State :=
  if s.port.slip.isSome then s
  else
    match s.slipWriterWants with
    | none => s
    | some a => s.onPort (Port.request a)

/-- A request granted at once leaves room for one that waits. -/
def State.settleSlips (s : State) : State := s.slipWriterRequest.slipWriterRequest

/-! ## Inbound entries (R85) -/

def State.inbound (s : State) (n : Nat) : Option Inbound := s.pass.inbound.getD n none

def State.onInbound (n : Nat) (f : Inbound → Inbound) (s : State) : State :=
  s.onPass fun e => { e with inbound := e.inbound.modify n (Option.map f) }

/-- The inbound entry for a key, if there is one. -/
def State.inboundOf (k : Key) (s : State) : Option (Nat × Inbound) :=
  (indexWhere (fun o : Option Inbound => o.any fun b => decide (b.offer.key = k))
    s.pass.inbound).bind fun n => (s.inbound n).map fun b => (n, b)

/-- The offer-queue entry for a key, if there is one. -/
def State.queuedOffer (k : Key) (s : State) : Option QueuedOffer :=
  s.pass.offers.find? fun q => decide (q.offer.key = k)

/-- A stored SLIP refers to this inbound pass. -/
def RxSlot.refersTo (entry pass : Nat) (x : RxSlot) : Bool :=
  decide (x.inbound = some { entry := entry, pass := pass })

/-- The slip write of a freed entry: a waiting request is withdrawn and its slot freed, an access in
progress completes with its slot held until then (R61). -/
def State.dropSlipWrite (entry pass : Nat) (s : State) : State :=
  match s.traffic.slots with
  | x :: rest =>
      if x.handed && x.refersTo entry pass then
        let mine (p : Purpose) : Bool :=
          match p with
          | .slipWrite e q _ _ => decide (e = entry) && decide (q = pass)
          | _ => false
        let busy := s.port.busy.any fun a => mine a.purpose
        let s := s.onPort (Port.abandon mine)
        if busy then s else s.onTraffic fun t => { t with slots := rest }
      else s
  | [] => s

/-- An inbound entry is freed: its reservation released, its TAKE withdrawn, the entry free (R85). -/
def State.freeInbound (n : Nat) (s : State) : State :=
  match s.inbound n with
  | none => s
  | some b =>
      let s := (s.onStore (Store.release n)).withdraw (.take n)
      (s.dropSlipWrite n b.pass).onPass fun e => { e with inbound := e.inbound.set n none }

/-- An inbound entry is freed and INBOUND LOST raised. -/
def State.loseInbound (n : Nat) (s : State) : State := (s.freeInbound n).raise .inboundLost

/-! ## Offers and answers (R79 to R84) -/

/-- The answer sender inserts a DECLINE; without room it is not sent (R81). -/
def State.decline (station : Nat) (k : Key) (reason : DeclineReason) (s : State) : State :=
  s.send .answer (declineFrame station k reason)

/-- The answer sender inserts a WITHDRAW; without room it is not sent (R71, R77). -/
def State.sendWithdraw (dest : Address) (k : Key) (s : State) : State :=
  s.send .answer (withdrawFrame dest k)

/-- The lowest-numbered free inbound entry. -/
def State.freeInboundEntry (s : State) : Option Nat :=
  indexWhere (fun o : Option Inbound => o.isNone) s.pass.inbound

/-- How an attempt to take an offer came out (R80, R83). -/
inductive TakeResult where
  | taken | noEntry | noRoom | noShare
  deriving DecidableEq, Repr

/-- An offer reserved and taken: a free inbound entry, the reservation, then a TAKE; without room for
the TAKE the reservation is released at once (R80, R83 step 5). -/
def State.takeOffer (o : Offer) (source : Nat) (byHost : Bool) (s : State) : State × TakeResult :=
  match s.freeInboundEntry with
  | none => (s, .noEntry)
  | some n =>
      match s.store.reserve n o.slipTotal with
      | none => (s, .noRoom)
      | some store =>
          if s.traffic.hasRoom (.take n) then
            let s := { s with store := store }
            let s := s.onPass fun e =>
              let entry : Inbound :=
                { offer := o, sender := source, byHost := byHost, confirmed := false, expected := 0,
                  running := crcStart, complete := false, timer := false, pass := e.nextPass }
              { e with inbound := e.inbound.set n (some entry), nextPass := e.nextPass + 1 }
            (s.send (.take n) (takeFrame source o.key), .taken)
          else (s, .noShare)

/-- The story of a key is HELD, OUTBOUND or DOUBT here (test 2 of R79). -/
def State.heldHere (k : Key) (s : State) : Bool := (s.story k).any fun r => decide (r.custody ≠ .carbon)

/-- The story of a key is a CARBON here with a page lock (test 3 of R79). -/
def State.lockedCarbon (k : Key) (s : State) : Bool :=
  (s.story k).any fun r => decide (r.custody = .carbon) && r.lock.isSome

/-- The field checks of an OFFER (R79). -/
def goodOffer (o : Offer) : Bool :=
  within 1 30 o.key.origin && within 1 4095 o.key.serial && within 1 8 o.edition &&
  within 0 16384 o.length && decide (o.slipTotal = slipTotalOf o.length)

/-- An offer of `source` passes the field checks and meets the seven tests (R79, R80, R82). -/
def State.testOffer (o : Offer) (source : Nat) (s : State) : State :=
  let no (reason : DeclineReason) : State := s.decline source o.key reason
  if !goodOffer o then s
  else if s.desk.state = .unattended then no .unattended
  else if s.heldHere o.key then no .heldHere
  else if s.lockedCarbon o.key then no .locked
  else
    match ((s.inboundOf o.key).map fun x => x.2.sender).or
        ((s.queuedOffer o.key).map (·.source)) with
    | some other => if other = source then s else no .busy
    | none =>
        if s.asks then
          if s.pass.offers.length < 4 then
            ((s.onPass fun e => { e with offers := e.offers ++ [{ offer := o, source := source }] }).raise
              .offerWaiting).tellOffers
          else no .busy
        else
          let x := s.takeOffer o source false
          match x.2 with
          | .taken | .noShare => x.1
          | .noEntry => no .busy
          | .noRoom => no .noRoom

/-- An offer-queue entry is removed, and the new count told (R82). -/
def State.removeOffer (k : Key) (s : State) : State :=
  (s.onPass fun e => { e with offers := e.offers.filter fun q => q.offer.key ≠ k }).tellOffers

/-! ## TAKE, DECLINE and WITHDRAW as received (R70 to R72, R87) -/

/-- The entry accepts a TAKE from `source` (R70). -/
def Pass.acceptsTake (source : Nat) (p : Pass) : Bool :=
  decide (p.phase = .offering) && p.offered &&
  (match p.dest.form with
   | .station => decide (p.dest.number = source)
   | .role => true)

/-- A TAKE of key `k` from `source` (R70, R71). -/
def State.receiveTake (k : Key) (source : Nat) (s : State) : State :=
  match s.passOf k with
  | some (n, p) =>
      if p.acceptsTake source then
        let s := s.onOutbound n fun p =>
          { p with taker := some source, phase := .sending, timer := false, nextSlip := 0 }
        (s.withdraw (.passEntry n)).prepareSlip n
      else if p.phase = .sending ∧ p.taker = some source then s
      else s.sendWithdraw (toStation source) k
  | none => s.sendWithdraw (toStation source) k

/-- A DECLINE of key `k` from `source` (R72). -/
def State.receiveDecline (k : Key) (source : Nat) (reason : DeclineReason) (s : State) : State :=
  match s.passOf k with
  | some (n, p) =>
      if p.phase = .offering then
        match p.dest.form with
        | .role => s.onOutbound n fun p => { p with declines := bump 255 p.declines }
        | .station =>
            if p.dest.number = source then
              (s.onOutbound n fun p => { p with declines := bump 255 p.declines }).endReturn n p
                (.declined reason)
            else s
      else s
  | none => s

/-- A WITHDRAW of key `k` from `source` (R87). -/
def State.receiveWithdraw (k : Key) (source : Nat) (s : State) : State :=
  let s :=
    match s.inboundOf k with
    | some (n, b) =>
        if b.sender = source ∧ b.complete = false then
          (s.freeInbound n).raise
            (if b.byHost && decide (b.expected = 0) then .offerLapsed else .inboundLost)
        else s
    | none => s
  match s.queuedOffer k with
  | some q => if q.source = source then (s.removeOffer k).raise .offerLapsed else s
  | none => s

/-! ## Slips at the receiver (R88) -/

/-- The answers of the SLIP acceptance test (R59). -/
inductive SlipAnswer where
  | store (entry pass : Nat)
  | repeated
  | refuse
  deriving DecidableEq, Repr

/-- The right character count for slip `i` of an offer (R88). -/
def Offer.rightCount (i : Nat) (o : Offer) : Nat :=
  if i + 1 = o.slipTotal then o.length - 32 * (o.slipTotal - 1) else 32

/-- A slip taken for an entry: the gap timer restarts, and an unconfirmed TAKE is confirmed and
withdrawn (R86). -/
def State.slipTaken (n : Nat) (confirmed : Bool) (f : Inbound → Inbound) (s : State) : State :=
  let s := s.onInbound n fun b => f { b with confirmed := true, timer := true }
  if confirmed then s else s.withdraw (.take n)

/-- The SLIP acceptance test (R88): the first row that applies decides. -/
def State.acceptSlip (k : Key) (source i : Nat) (codes : List Byte) (slotFree : Bool) (s : State) :
    State × SlipAnswer :=
  match (s.inboundOf k).filter fun x => decide (x.2.sender = source) with
  | some (n, b) =>
      if b.complete then
        if i < b.expected then (s, .repeated) else (s, .refuse)
      else if i = b.expected then
        if codes.length = b.offer.rightCount i then
          let running := crcCodes b.running codes
          if i + 1 = b.offer.slipTotal then
            if running = b.offer.storyCheck then
              if slotFree then
                (s.slipTaken n b.confirmed fun b =>
                    { b with expected := b.offer.slipTotal, running := running, complete := true,
                             timer := false },
                 .store n b.pass)
              else (s, .refuse)
            else if slotFree then (s.loseInbound n, .refuse)
            else (s, .refuse)
          else if slotFree then
            (s.slipTaken n b.confirmed fun b => { b with expected := i + 1, running := running },
             .store n b.pass)
          else (s, .refuse)
        else (s.loseInbound n, .refuse)
      else if i < b.expected then (s.slipTaken n b.confirmed id, .repeated)
      else (s, .refuse)
  | none =>
      if (s.story k).any fun r =>
          r.isHeld && r.receivedFrom.any fun f => decide (f.station = source) && decide (i + 1 = f.slips)
      then (s, .repeated)
      else (s, .refuse)

/-! ## Commit (R8, R90) -/

/-- The record made at commit. -/
def Inbound.record (b : Inbound) (chain : List Nat) : Story :=
  { key := b.offer.key, slug := (substitute printable b.offer.slug).1, edition := b.offer.edition,
    custody := .held, length := b.offer.length, chain := chain, damaged := false, lock := none,
    fit := none, receivedFrom := some { station := b.sender, slips := b.offer.slipTotal },
    inEdit := false }

/-- Commit of inbound entry `n` (R8, R90, R149). -/
def State.commit (n : Nat) (s : State) : State :=
  match s.inbound n with
  | none => s
  | some b =>
      let k := b.offer.key
      let replaced := (s.story k).isSome
      let blocks := s.store.reservation n
      let used := blocksFor b.offer.length
      let s := s.onStore (Store.free k List.reverse)
      let s := s.onStore fun st =>
        Store.giveBack (blocks.drop used)
          { st with stories := st.stories ++ [b.record (blocks.take used)],
                    reservations := st.reservations.set n none,
                    substitutions := add16 st.substitutions (substitute printable b.offer.slug).2 }
      let s := s.onPass fun e => { e with inbound := e.inbound.set n none }
      let s := if replaced then s.notifyTextChanged k else s
      (s.raise .inboundDone).commitEdition k

/-- After the slot of a written slip has been freed: commit, when it was the final slip of a COMPLETE
entry (R61). -/
def State.commitIfFinal (r : InboundRef) (index : Nat) (s : State) : State :=
  match s.inbound r.entry with
  | some b =>
      if b.pass = r.pass ∧ b.complete = true ∧ index + 1 = b.offer.slipTotal then s.commit r.entry
      else s
  | none => s

/-! ## What the out queue tells each owner (R54, R55) -/

/-- A report of the out queue. -/
inductive Report where
  | delivered
  | attempt (cause : Cause)
  | failed (cause : Cause)
  | withdrawn
  deriving DecidableEq, Repr

/-- The report ends the entry, so the owner's share has room again. -/
def Report.ends : Report → Bool
  | .attempt _ => false
  | _ => true

/-- An outbound entry OFFERING is told of its OFFER (R69). -/
def State.offerTold (n : Nat) (p : Pass) (r : Report) (s : State) : State :=
  let start (s : State) : State := s.onOutbound n fun p => { p with timer := true }
  match r with
  | .delivered => start s
  | .attempt .partly => (start s).withdraw (.passEntry n)
  | .failed .partly => start s
  | .failed c => s.endReturn n p (.failed (.line c))
  | .attempt _ | .withdrawn => s

/-- An outbound entry SENDING is told of its slip (R75, R76). -/
def State.slipTold (n : Nat) (p : Pass) (r : Report) (s : State) : State :=
  match r with
  | .delivered =>
      if p.finalInHand then
        let s := s.endPass n .delivered
        if p.keepCarbon then s.carbonStory p.key else s.freeStory p.key
      else (s.onOutbound n fun p => { p with nextSlip := p.nextSlip + 1 }).prepareSlip n
  | .failed c =>
      if p.finalInHand then (s.endPass n .unconfirmed).doubtStory p.key p.keepCarbon
      else s.endReturn n p (.failed (.line c))
  | .attempt _ | .withdrawn => s

/-- A frame that waited for its share goes in once the share has room (R68, R74). -/
def State.sendReady (n : Nat) (s : State) : State :=
  match (s.outbound n).bind (·.ready) with
  | some f => if s.traffic.hasRoom (.passEntry n) then s.passFrame n f else s
  | none => s

/-- Outbound entry `n` is told. An ENDED entry, and one told of a frame of an earlier pass, set the
report aside (R78). -/
def State.passTold (n : Nat) (kind : FrameKind) (r : Report) (s : State) : State :=
  let s :=
    match s.outbound n with
    | none => s
    | some p =>
        if p.phase = .offering ∧ kind = .offer then s.offerTold n p r
        else if p.phase = .sending ∧ kind = .slip then s.slipTold n p r
        else s
  if r.ends then s.sendReady n else s

/-- The inbound entry is told of its TAKE (R80). -/
def State.takeTold (n : Nat) (r : Report) (s : State) : State :=
  match r with
  | .delivered => s.onInbound n fun b => { b with confirmed := true, timer := !b.complete }
  | .failed _ => if (s.inbound n).isSome then s.loseInbound n else s
  | .attempt _ | .withdrawn => s

/-- The next placement after `p`, or PAGE END after the last (R132). -/
def Transfer.after (count : Nat) (t : Transfer) : Transfer :=
  if t.placement + 1 < count then { t with step := .placement, placement := t.placement + 1 }
  else { t with step := .finish }

/-- A page frame of the SENDING plan was DELIVERED (R132, R133). DEDUCED (log entry 33): the chunk index is
counted up after the last chunk too, to 512 at most, until the next placement is delivered. -/
def State.pageDelivered (slot : Nat) (p : Plan) (kind : FrameKind) (s : State) : State :=
  let t := s.page.transfer
  let count := p.placements.length
  let go (t : Transfer) : State := (s.onPage fun e => { e with transfer := t }).preparePage
  match kind with
  | .pageHead => go { t with step := .placement, placement := 0 }
  | .placement =>
      let length :=
        (((p.placements[t.placement]?).bind fun q => s.story q.key).map (·.length)).getD 0
      let t : Transfer := { t with left := blocksFor length, chunk := 0 }
      go (if t.left = 0 then t.after count else { t with step := .text })
  | .setText =>
      let t : Transfer :=
        { t with sent := t.sent + 1, left := t.left - 1, chunk := t.chunk + 1 }
      go (if t.left = 0 then t.after count else t)
  | .pageEnd =>
      let late := decide (s.editionState p.edition = some .late)
      (s.onPlan slot fun p => { p with late := late }).endPlan slot .sent
  | _ => s

/-- The page engine is told of a frame of the SENDING plan (R132). -/
def State.planTold (kind : FrameKind) (r : Report) (s : State) : State :=
  match s.page.transfer.plan with
  | none => s
  | some slot =>
      match s.plan slot with
      | none => s
      | some p =>
          match r with
          | .delivered => s.pageDelivered slot p kind
          | .failed c => s.endPlan slot (.failed (.line c))
          | .attempt _ | .withdrawn => s

/-- A waiting PAGE HEAD goes in once the pending drop has cleared (R134). -/
def State.sendHead (s : State) : State :=
  match s.page.ready with
  | some f => (s.sendPageFrame f).onPage fun e => { e with ready := none }
  | none => s

/-- The page share is told. A withdrawn frame's report is set aside and its PAGE DROP goes in; when
the PAGE DROP leaves the queue the pending drop clears (R134). -/
def State.pageTold (kind : FrameKind) (r : Report) (s : State) : State :=
  match r with
  | .withdrawn =>
      match s.page.dropReady with
      | some f => (s.send .page f).onPage fun e => { e with dropReady := none }
      | none => s
  | _ =>
      if kind = .pageDrop then
        if r.ends then
          (s.onPage fun e => { e with transfer := { e.transfer with drop := none } }).sendHead
        else s
      else (s.planTold kind r).settleFits

/-- The flash sender is told; the outcome is kept (R174). -/
def State.flashTold (r : Report) (s : State) : State :=
  match r with
  | .delivered => s.onScreen fun c => { c with lastFlash := some .delivered }
  | .failed x => s.onScreen fun c => { c with lastFlash := some (.failed x) }
  | .attempt _ | .withdrawn => s

/-- The clock is told; a mark that waited for the withdrawal report goes in (R156). -/
def State.clockTold (r : Report) (s : State) : State :=
  match r, s.clock.nextMark with
  | .withdrawn, some t => (s.onClock fun c => { c with nextMark := none }).send .clock (timeMarkFrame t)
  | _, _ => s

/-- The out queue tells the owner of an entry. -/
def State.tellOwner (e : OutEntry) (r : Report) (s : State) : State :=
  match e.owner with
  | .passEntry n => s.passTold n e.frame.kind r
  | .page => s.pageTold e.frame.kind r
  | .take n => s.takeTold n r
  | .answer => s
  | .flash => s.flashTold r
  | .clock => s.clockTold r

end Sys2Proof.Machine
end

