-- ==== Sys2Proof/Machine/DeskLink.lean ====
section
/-!
DEFINITION. The desk link: taking a command, answering it, the operations of the desk link that take
time, and what every desk command shares (R180 to R184).
-/

namespace Sys2Proof.Machine

/-- The code of a command name (R203). -/
def commandCode : CommandName → Nat
  | .openStory => 0x01 | .place => 0x02 | .readText => 0x03 | .dropStory => 0x04
  | .storyState => 0x05 | .resolve => 0x06 | .lineRetry => 0x07 | .lineCounts => 0x08
  | .pass => 0x09 | .cancelPass => 0x0A | .answerOffer => 0x0B | .passTable => 0x0C
  | .fit => 0x0D | .fitStatus => 0x0E | .fitDepth => 0x0F | .planPage => 0x10 | .clearPlan => 0x11
  | .sendPage => 0x12 | .cancelPage => 0x13 | .pageTable => 0x14 | .setClock => 0x15
  | .clockStatus => 0x16 | .view => 0x17 | .scroll => 0x18 | .cursor => 0x19 | .sendFlash => 0x1A
  | .screenStatus => 0x1B | .settle => 0x1C | .tend => 0x1D | .report => 0x1E | .status => 0x1F
  | .restart => 0x20

/-- The name byte of a command. -/
def nameByte (c : CommandName) : Byte := BitVec.ofNat 8 (commandCode c)

/-- Whether a desk state takes a command (R184): START takes SETTLE, REPORT and STATUS; ON-LINE and
UNATTENDED take every command but SETTLE. -/
def taken (c : CommandName) : DeskState → Bool
  | .start => decide (c = .settle) || decide (c = .report) || decide (c = .status)
  | .onLine | .unattended => decide (c ≠ .settle)

/-- A command in progress is answered: its response is ready (R181). -/
def State.respond (result : Result) (field : Option (FieldName × Nat)) (data : ResponseData)
    (s : State) : State :=
  s.onDesk fun d =>
    { d with op := .idle,
             response := some { name := d.command.getD 0#8, result := result, field := field,
                                data := data } }

/-- DONE with its data. -/
def State.done (data : ResponseData) (s : State) : State := s.respond .done none data

/-- A refusal that names no field. -/
def State.refuse (r : Result) (s : State) : State := s.respond r none .nothing

/-- A refusal that names a field. -/
def State.refuseField (r : Result) (f : FieldName × Nat) (s : State) : State :=
  s.respond r (some f) .nothing

/-- A command transfer begun while READY is low: discarded, LINK OVERRUN (R183). -/
def State.discardTransfer (s : State) : State := s.raise .linkOverrun

/-- The end of a command transfer taken as a command: READY falls in the same change (R180). -/
def State.takeTransfer (name : Byte) (s : State) : State :=
  s.onDesk fun d => { d with ready := false, command := some name }

/-- A command transfer that reads as command `c`. Begun while READY is low it is discarded (R183).
Otherwise it is taken, meets the state check of R184, and goes to its owner. -/
def State.command (c : CommandName) (owner : State → State) (s : State) : State :=
  if s.desk.ready then
    let s := s.takeTransfer (nameByte c)
    if taken c s.desk.state then owner s else s.refuse .wrongState
  else s.discardTransfer

/-- A command transfer that cannot be read as a command (R181): answered BAD FIELD naming no field. -/
def State.unreadable (name : Byte) (s : State) : State :=
  if s.desk.ready then (s.takeTransfer name).refuse .badField else s.discardTransfer

/-- One use of a value the spec does not state. -/
def State.useFree (s : State) : State := { s with freeReads := s.freeReads + 1 }

/-- What is left, in milliseconds, of a timer that runs for `window`: some number of 0..window
(log entry 6). -/
def timeLeft (window n : Nat) : Nat := window - min window (Config.elapsed n)

/-- The first window of the tend timer after SETTLE and RESTART, 10 s (R187, R195). -/
def firstWindow : Nat := 10000

end Sys2Proof.Machine
end

