-- ==== Sys2Proof/Machine/Accesses.lean ====
section
/-!
DEFINITION. The completions of store port accesses: parity and damage (R9), the PLACE rewrite (R16),
READ TEXT (R17), the slip writer (R61, R68, R74), the page reader (R131), the fit reader (R104, R106)
and the row builder (R168, R169). A completion that the port's access is not for does not happen
(log entry 1).
-/

namespace Sys2Proof.Machine

/-! ## The end of an access (R9, R11) -/

/-- A block marked damaged, with the damaged field of the story whose chain holds it (R9). -/
def Store.mark (block : Nat) (st : Store) : Store :=
  { st with marks := block :: st.marks,
            stories := st.stories.map fun r =>
              if r.chain.contains block then { r with damaged := true } else r }

/-- What a read delivers: its characters, and whether the block carries a damage mark after it. -/
structure Delivery where
  codes   : List Byte
  damaged : Bool
  deriving DecidableEq, Repr

/-- A read of the RAM with the parity check of R9. -/
def State.readBlock (a : Access) (upsets : List Upset) (s : State) : State × Delivery :=
  let s := s.onStore fun st => { st with text := applyUpsets a.block upsets st.text }
  let cells := readCells a.block a.first a.count s.store.text
  let fill := List.replicate a.count 0x1A#8
  if s.store.marks.contains a.block then (s, { codes := fill, damaged := true })
  else if cells.all goodParity then (s, { codes := cells.map cellCode, damaged := false })
  else ((s.onStore (Store.mark a.block)).raise .storeDamage, { codes := fill, damaged := true })

/-- A write of the RAM: odd parity on each code, and the block's damage mark cleared (R9, R10). -/
def State.writeBlock (a : Access) (codes : List Byte) (replaced : Nat) (s : State) : State :=
  s.onStore fun st =>
    { st with text := writeCodes a.block a.first codes st.text,
              marks := st.marks.filter (· ≠ a.block),
              substitutions := add16 st.substitutions replaced }

/-- The port falls free and the highest waiting request is granted; RESTART's response becomes ready
when it waited for this access (R11, R195). -/
def State.endAccess (s : State) : State :=
  let s := s.onPort Port.complete
  if s.desk.op = .restarting then s.done .nothing else s

/-- The access in progress, when it is for a purpose that satisfies `mine`. -/
def State.serving (mine : Purpose → Bool) (s : State) : Option Access :=
  s.port.busy.filter fun a => mine a.purpose

/-- A read completes: the port is served on, and the characters are delivered. -/
def State.endRead (a : Access) (upsets : List Upset) (s : State) : State × Delivery :=
  s.endAccess.readBlock a upsets

/-! ## The rewrite of a PLACE (R16) -/

def Rewrite.textEnd (r : Rewrite) : Nat := r.start + r.text.length

/-- The old offset whose character stands at new offset `p`, for `p` after the text. -/
def Rewrite.oldOffset (r : Rewrite) (p : Nat) : Nat := p - r.textEnd + r.stop

/-- New block `j` needs an old character of block `i` from after the replaced part. -/
def Rewrite.needs (r : Rewrite) (j i : Nat) : Bool :=
  let lo := max (32 * j) r.textEnd
  let hi := min (32 * j + 32) r.newLength
  decide (lo < hi) && decide (r.oldOffset lo / 32 ≤ i) && decide (i ≤ r.oldOffset (hi - 1) / 32)

/-- Old block `i` has been read. -/
def Rewrite.hasRead (r : Rewrite) (i : Nat) : Bool := r.held.any fun h => decide (h.1 = i)

/-- The next old block to read before the next write; after the last write, the next one not yet
read. -/
def Rewrite.nextRead (r : Rewrite) : Option Nat :=
  let first := r.start / 32
  ((List.range (blocksFor r.oldLength - first)).map (first + ·)).find? fun i =>
    !r.hasRead i &&
    (decide (blocksFor r.newLength ≤ r.next) || decide (i ≤ r.next) || r.needs r.next i)

/-- The old character at an offset, as it was read. -/
def Rewrite.oldChar (r : Rewrite) (q : Nat) : Byte :=
  (((r.held.find? fun h => decide (h.1 = q / 32)).map (·.2)).getD []).getD (q % 32) 0x1A#8

/-- The character of the new text at offset `p`. -/
def Rewrite.newChar (r : Rewrite) (p : Nat) : Byte :=
  if p < r.start then r.oldChar p
  else if p < r.textEnd then r.text.getD (p - r.start) 0x1A#8
  else r.oldChar (r.oldOffset p)

/-- The characters of new block `j`, before the substitution of 0x1A. -/
def Rewrite.newBlock (r : Rewrite) (j : Nat) : List Byte :=
  (List.range (charsIn r.newLength j)).map fun i => r.newChar (32 * j + i)

/-- The completion of a PLACE (R16): the six changes of the store as one, then DONE. -/
def State.completePlace (r : Rewrite) (s : State) : State :=
  let used := blocksFor r.newLength
  let extra := ((s.story r.key).map fun q => q.chain.drop used).getD []
  let s := s.onStore fun st =>
    Store.change r.key
      (fun q =>
        { q with chain := q.chain.take used, length := r.newLength,
                 damaged := (q.chain.take used).any fun b => st.marks.contains b, fit := none,
                 receivedFrom := none, inEdit := false })
      (Store.giveBack extra st)
  (((s.onDesk fun d => { d with op := .idle }).notifyTextChanged r.key).settleRows).done
    (.placed r.newLength)

/-- The rewrite goes on: its next read or write is requested, or the PLACE completes. -/
def State.continuePlace (r : Rewrite) (s : State) : State :=
  let s := s.onDesk fun d => { d with op := .rewriting r }
  let chain := ((s.story r.key).map (·.chain)).getD []
  match r.nextRead with
  | some i => s.requestChain (.rewriteRead i) chain r.oldLength i
  | none =>
      if r.next < blocksFor r.newLength then
        s.requestChain (.rewriteWrite r.next) chain r.newLength r.next
      else s.completePlace r

/-- REWRITE_ACCESS_COMPLETION (R16). -/
def State.rewriteCompleted (upsets : List Upset) (s : State) : State :=
  match s.port.busy, s.desk.op with
  | some a, .rewriting r =>
      match a.purpose with
      | .rewriteRead i =>
          let x := s.endRead a upsets
          x.1.continuePlace { r with held := r.held ++ [(i, x.2.codes)] }
      | .rewriteWrite j =>
          let new := substitute (fun c => decide (c ≠ 0x1A#8)) (r.newBlock j)
          (s.endAccess.writeBlock a new.1 new.2).continuePlace { r with next := j + 1 }
      | _ => s
  | _, _ => s

/-! ## READ TEXT (R17) -/

/-- READ TEXT's next access, or its response when every character has been read. DESIGN CHOICE (log entry
27): the block is that of the story's chain when this request is made, and block 0 where the story has no such
block any more; a request that waits keeps that block, whatever becomes of its story before the grant. -/
def State.continueRead (r : ReadOp) (s : State) : State :=
  if r.got.length < r.count then
    let p := r.offset + r.got.length
    let chain := ((s.story r.key).map (·.chain)).getD []
    (s.onDesk fun d => { d with op := .reading r }).requestAccess .readText (chain.getD (p / 32) 0)
      (p % 32) (min (r.count - r.got.length) (32 - p % 32))
  else s.done (.text r.got)

/-- READ_TEXT_ACCESS_COMPLETION (R17). -/
def State.readTextCompleted (upsets : List Upset) (s : State) : State :=
  match s.serving (fun p => decide (p = .readText)), s.desk.op with
  | some a, .reading r =>
      let x := s.endRead a upsets
      x.1.continueRead { r with got := r.got ++ x.2.codes }
  | _, _ => s

/-! ## The slip writer (R61, R68, R74) -/

/-- The written slip's receive slot is freed. -/
def Traffic.freeWritten (r : InboundRef) (index : Nat) (t : Traffic) : Traffic :=
  match t.slots with
  | x :: rest =>
      if x.handed && decide (x.inbound = some r) && decide (x.slipIndex = index) then
        { t with slots := rest }
      else t
  | [] => t

/-- SLIP_WRITE_COMPLETION (R61). -/
def State.slipWriteCompleted (s : State) : State :=
  match s.port.busy with
  | some a =>
      match a.purpose with
      | .slipWrite entry pass index codes =>
          let r : InboundRef := { entry := entry, pass := pass }
          let new := substitute legalCode codes
          let s := s.endAccess.writeBlock a new.1 new.2
          let s := s.onTraffic (Traffic.freeWritten r index)
          let s := if a.aside then s else s.commitIfFinal r index
          s.settleSlips.settleRows
      | _ => s
  | none => s

/-- OFFER_CHECK_READ_COMPLETION (R68). -/
def State.checkReadCompleted (upsets : List Upset) (s : State) : State :=
  match s.port.busy with
  | some a =>
      match a.purpose with
      | .checkRead n =>
          let x := s.endRead a upsets
          if a.aside then x.1.settleSlips
          else
            match x.1.outbound n with
            | none => x.1.settleSlips
            | some p =>
                if x.2.damaged then (x.1.endReturn n p (.failed .damaged)).settleSlips
                else
                  let next := (p.reading.getD 0) + 1
                  let s := x.1.onOutbound n fun p =>
                    { p with storyCheck := crcCodes p.storyCheck x.2.codes, reading := some next }
                  (if next < blocksFor (((s.story p.key).map (·.length)).getD 0) then s
                   else s.buildOffer n).settleSlips
      | _ => s
  | none => s

/-- SLIP_READ_COMPLETION (R74). -/
def State.slipReadCompleted (upsets : List Upset) (s : State) : State :=
  match s.port.busy with
  | some a =>
      match a.purpose with
      | .slipRead n =>
          let x := s.endRead a upsets
          if a.aside then x.1.settleSlips
          else
            match x.1.outbound n with
            | none => x.1.settleSlips
            | some p =>
                if x.2.damaged then (x.1.endReturn n p (.failed .damaged)).settleSlips
                else (x.1.buildSlip n x.2.codes).settleSlips
      | _ => s
  | none => s

/-! ## The page reader (R131) -/

/-- PAGE_READ_COMPLETION (R131): the SET TEXT is built, or damage ends the plan. -/
def State.pageReadCompleted (upsets : List Upset) (s : State) : State :=
  match s.serving Purpose.isPage with
  | some a =>
      let x := s.endRead a upsets
      if a.aside then x.1
      else
        match x.1.page.transfer.plan with
        | none => x.1
        | some slot =>
            if x.2.damaged then (x.1.endPlan slot (.failed .damaged)).settleFits
            else
              let t := x.1.page.transfer
              x.1.sendPageFrame (setTextFrame s.typesetRole t.placement t.chunk x.2.codes)
  | none => s

/-! ## The fit reader (R104 to R106, R111) -/

/-- A run has processed its last character or stopped counting: it waits for the store's answer. -/
def State.fitProcessed (setting : Setting) (lines : Nat) (r : FitReading) (s : State) : State :=
  s.onFit fun e => { e with run := some (.storing (r.record setting lines) r.block false false) }

/-- A run goes on with a block's characters. -/
def State.fitDelivered (setting : Setting) (k : Key) (r : FitReading) (codes : List Byte) (s : State) :
    State :=
  let r := { FitReading.feed (32 * r.block) codes r with block := r.block + 1 }
  if maxLines ≤ r.lines then s.fitProcessed setting r.lines r
  else if r.block < blocksFor r.length then
    (s.onFit fun e => { e with run := some (.reading r) }).requestChain .fitRead
      (((s.story k).map (·.chain)).getD []) r.length r.block
  else s.fitProcessed setting (r.lines + (r.breaker.finish r.length).length) r

/-- FIT_READ_COMPLETION (R104, R111). -/
def State.fitReadCompleted (upsets : List Upset) (s : State) : State :=
  match s.serving Purpose.isFit with
  | some a =>
      let x := s.endRead a upsets
      if a.aside then x.1
      else
        match x.1.fit.run, x.1.fit.queue with
        | some (.reading r), q :: _ => x.1.fitDelivered q.setting q.key r x.2.codes
        | _, _ => x.1
  | none => s

/-- The store applies or discards a fit record request (R21); a record stored before a WIDTHS frame's
removal request is removed by it (R98, R106). A record of a text that has changed is not kept: a fit
record present is of the present text (R106; DEDUCED, log entry 26). -/
def State.storeRecord (k : Key) (record : FitRecord) (widthsSince textSince : Bool) (s : State) :
    State × FitOutcome :=
  match s.story k with
  | none => (s, .noStory)
  | some r =>
      if r.inEdit || textSince then (s, .stale)
      else if widthsSince then
        (s.onStore (Store.change k fun r => { r with fit := none }), .stale)
      else (s.onStore (Store.change k fun r => { r with fit := some record }), .done)

/-- STORE_FIT_RECORD (R106). -/
def State.fitStored (s : State) : State :=
  match s.fit.run, s.fit.queue with
  | some (.storing record _ widthsSince textSince), q :: _ =>
      let x := s.storeRecord q.key record widthsSince textSince
      (x.1.endRun x.2).settleFits
  | _, _ => s

/-! ## The row builder (R168, R169) -/

/-- The line walk between two characters. -/
structure WalkState where
  breaker   : Breaker
  count     : Nat
  lastStart : Nat
  starts    : List Nat
  deriving DecidableEq, Repr

/-- A closed line counted; its start is recorded from the top line on. -/
def WalkState.close (top : Nat) (w : WalkState) (l : ClosedLine) : WalkState :=
  { w with count := w.count + 1, lastStart := l.start,
           starts := if top ≤ w.count then w.starts ++ [l.start] else w.starts }

/-- The starts recorded, that of the open line among them. -/
def WalkState.recorded (top : Nat) (w : WalkState) : List Nat :=
  match w.breaker.line with
  | some l =>
      match l.items with
      | i :: _ => if top ≤ w.count then w.starts ++ [i.offset] else w.starts
      | [] => w.starts
  | none => w.starts

/-- Characters walked until the start of line top + 19 is recorded; the twenty starts then. -/
def WalkState.feed (top offset : Nat) : List Byte → WalkState → WalkState × Option (List Nat)
  | [], w => (w, none)
  | c :: rest, w =>
      let x := w.breaker.feed screenMeasure c offset
      let w := x.lines.foldl (WalkState.close top) { w with breaker := x.breaker }
      if 20 ≤ (w.recorded top).length then (w, some ((w.recorded top).take 20))
      else WalkState.feed top (offset + 1) rest w

/-- The build in progress, at another phase. -/
def State.setBuild (n r : Nat) (phase : BuildPhase) (s : State) : State :=
  s.onScreen fun c => { c with build := some { lane := n, row := r, phase := phase } }

/-- LINE_WALK_READ_COMPLETION (R168). -/
def State.walkCompleted (upsets : List Upset) (s : State) : State :=
  match s.serving (fun p => decide (p = .walkRead)) with
  | some a =>
      let x := s.endRead a upsets
      let s := x.1
      if a.aside then s
      else
        match s.screen.build with
        | some { lane := n, row := r, phase := .walk block breaker count lastStart starts } =>
            match (s.screen.windows[n]?).bind fun w => (w.key.bind s.story).map fun q => (w, q) with
            | none => s
            | some (w, story) =>
                let y := WalkState.feed w.top (32 * block) x.2.codes
                  { breaker := breaker, count := count, lastStart := lastStart, starts := starts }
                match y.2 with
                | some map =>
                    ((s.onWindow n fun w => { w with lineMap := some map }).renderOrBlank n r
                      story).settleRows
                | none =>
                    if block + 1 < blocksFor story.length then
                      (s.setBuild n r (.walk (block + 1) y.1.breaker y.1.count y.1.lastStart
                        y.1.starts)).requestChain .walkRead story.chain story.length (block + 1)
                    else
                      let z := (y.1.breaker.finish story.length).foldl (WalkState.close w.top) y.1
                      ((s.onWindow n (Window.walkedToEnd z.count z.lastStart
                          (z.starts.take 20))).renderOrBlank n r story).settleRows
        | _ => s
  | none => s

/-- Characters placed from the line's start on, until the line closes. -/
def renderFeed (start offset : Nat) : List Byte → Breaker → Breaker × Option ClosedLine
  | [], b => (b, none)
  | c :: rest, b =>
      if offset < start then renderFeed start (offset + 1) rest b
      else
        let x := b.feed screenMeasure c offset
        match x.lines with
        | l :: _ => (x.breaker, some l)
        | [] => renderFeed start (offset + 1) rest x.breaker

/-- A rendered row becomes READY and CLEAN, and the row builder idle (R167, R169). -/
def State.rowRendered (n r : Nat) (items : List Item) (s : State) : State :=
  ((s.onScreen fun c => { c with build := none }).onWindow n fun w =>
    Window.stage
      { number := r, mode := w.mode, cursor := cursorColumn w.cursor items, codes := rowCodes items }
      w).settleRows

/-- RENDER_READ_COMPLETION (R169). -/
def State.renderCompleted (upsets : List Upset) (s : State) : State :=
  match s.serving (fun p => decide (p = .renderRead)) with
  | some a =>
      let x := s.endRead a upsets
      let s := x.1
      if a.aside then s
      else
        match s.screen.build with
        | some { lane := n, row := r, phase := .render start block breaker } =>
            match ((s.screen.windows[n]?).bind (·.key)).bind s.story with
            | none => s
            | some story =>
                let y := renderFeed start (32 * block) x.2.codes breaker
                match y.2 with
                | some l => s.rowRendered n r l.columns
                | none =>
                    if block + 1 < blocksFor story.length then
                      (s.setBuild n r (.render start (block + 1) y.1)).requestChain .renderRead
                        story.chain story.length (block + 1)
                    else
                      s.rowRendered n r
                        (((y.1.finish story.length).head?.map ClosedLine.columns).getD [])
        | _ => s
  | none => s

/-! ## The meanings -/

def execRewriteAccessCompletion (upsets : List Upset) (s : State) : Host.Outcome State Fault Refusal :=
  .next (s.rewriteCompleted upsets)

def execReadTextAccessCompletion (upsets : List Upset) (s : State) : Host.Outcome State Fault Refusal :=
  .next (s.readTextCompleted upsets)

def execSlipWriteCompletion (s : State) : Host.Outcome State Fault Refusal := .next s.slipWriteCompleted

def execOfferCheckReadCompletion (upsets : List Upset) (s : State) : Host.Outcome State Fault Refusal :=
  .next (s.checkReadCompleted upsets)

def execSlipReadCompletion (upsets : List Upset) (s : State) : Host.Outcome State Fault Refusal :=
  .next (s.slipReadCompleted upsets)

def execPageReadCompletion (upsets : List Upset) (s : State) : Host.Outcome State Fault Refusal :=
  .next (s.pageReadCompleted upsets)

def execFitReadCompletion (upsets : List Upset) (s : State) : Host.Outcome State Fault Refusal :=
  .next (s.fitReadCompleted upsets)

def execStoreFitRecord (s : State) : Host.Outcome State Fault Refusal := .next s.fitStored

def execLineWalkReadCompletion (upsets : List Upset) (s : State) : Host.Outcome State Fault Refusal :=
  .next (s.walkCompleted upsets)

def execRenderReadCompletion (upsets : List Upset) (s : State) : Host.Outcome State Fault Refusal :=
  .next (s.renderCompleted upsets)

end Sys2Proof.Machine
end

