-- ==== Sys2Proof/Machine/StoryCommands.lean ====
section
/-!
DEFINITION. The commands on stories (R14 to R20): OPEN STORY, PLACE, READ TEXT, DROP STORY, STORY STATE
and RESOLVE.
-/

namespace Sys2Proof.Machine

/-! ## OPEN STORY (R2, R14) -/

/-- The serial after one, with 1 after 4095. -/
def nextSerial (n : Nat) : Nat := if n < 4095 then n + 1 else 1

/-- A key formed from this station's number. -/
def State.ownKey (s : State) (serial : Nat) : Key := { origin := s.desk.station, serial := serial }

/-- The key of a record or of an inbound entry. -/
def State.keyInUse (s : State) (k : Key) : Bool := (s.story k).isSome || (s.inboundOf k).isSome

/-- The first candidate from `c` on whose key is not in use, `tries` of them looked at (R2). -/
def State.freeSerial (s : State) : Nat → Nat → Nat
  | 0, c => c
  | tries + 1, c =>
      if s.keyInUse (s.ownKey c) then State.freeSerial s tries (nextSerial c) else c

/-- The serial the next OPEN STORY gives. -/
def State.openSerial (s : State) : Nat := s.freeSerial 65 s.store.serial

/-- The record OPEN STORY makes. -/
def newStory (k : Key) (slug : List Byte) (edition : Nat) : Story :=
  { key := k, slug := slug, edition := edition, custody := .held, length := 0, chain := [],
    damaged := false, lock := none, fit := none, receivedFrom := none, inEdit := false }

/-- OPEN STORY carried out. -/
def State.openStory (slug : List Byte) (edition : Nat) (s : State) : State :=
  let serial := s.openSerial
  let k := s.ownKey serial
  (s.onStore fun st =>
    { st with stories := st.stories ++ [newStory k slug edition], serial := nextSerial serial }).done
    (.opened k)

/-- The checks of OPEN STORY in order (R14). -/
def State.openRefusal (slug : List Byte) (edition : Nat) (s : State) : Option Result :=
  if !(goodSlug slug && within 1 8 edition && decide (edition ≤ s.editionTable.length)) then
    some .badField
  else if s.editionClosed edition then some .closed
  else if s.store.freeEntries < 1 then some .full
  else none

/-! ## PLACE (R15, R16) -/

/-- The length after a PLACE. -/
def placedLength (length start stop count : Nat) : Nat := length - (stop - start) + count

/-- The blocks a PLACE adds. -/
def growth (old new : Nat) : Nat := blocksFor new - blocksFor old

/-- The checks of PLACE in order (R15). -/
def State.placeRefusal (k : Key) (start stop : Nat) (text : List Byte) (s : State) : Option Result :=
  match s.story k with
  | none => some .noStory
  | some r =>
      if !r.isHeld then some .wrongState
      else if r.lock.isSome then some .locked
      else if !(decide (start ≤ stop) && decide (stop ≤ r.length)) then some .badField
      else if !text.all legalCode then some .badText
      else
        let new := placedLength r.length start stop text.length
        if 16384 < new then some .tooLong
        else if s.store.pool.length < growth r.length new then some .noRoom
        else none

/-- What the store does at the taking of a PLACE (R16). DESIGN CHOICE (log entry 18): a block that was marked in
the free pool joins the chain with its mark, and the damaged field stays as it was until the rewrite's end
recomputes it (R10). -/
def Store.beginPlace (k : Key) (blocks : Nat) (st : Store) : Store :=
  Store.change k (fun r => { r with inEdit := true, chain := r.chain ++ st.pool.take blocks })
    { st with pool := st.pool.drop blocks }

/-- PLACE taken. DESIGN CHOICE (log entry 12): the rewrite's first request is made after those that the
in-edit notification leads to at the fit engine and the row builder. -/
def State.place (k : Key) (start stop : Nat) (text : List Byte) (s : State) : State :=
  let old := ((s.story k).map (·.length)).getD 0
  let new := placedLength old start stop text.length
  let s := (s.onStore (Store.beginPlace k (growth old new))).notifyInEdit k
  s.settleRows.continuePlace
    { key := k, start := start, stop := stop, text := text, oldLength := old, newLength := new,
      held := [], next := start / 32 }

/-! ## READ TEXT (R17) -/

/-- The checks of READ TEXT in order. -/
def State.readTextRefusal (k : Key) (offset count : Nat) (s : State) : Option Result :=
  match s.story k with
  | none => some .noStory
  | some r =>
      if within 1 32 count && decide (offset < r.length) then none else some .badField

/-- READ TEXT taken. -/
def State.readText (k : Key) (offset count : Nat) (s : State) : State :=
  let length := ((s.story k).map (·.length)).getD 0
  s.continueRead { key := k, offset := offset, count := min count (length - offset), got := [] }

/-! ## DROP STORY, RESOLVE (R18, R20) -/

/-- The checks of DROP STORY in order. -/
def State.dropRefusal (k : Key) (s : State) : Option Result :=
  match s.story k with
  | none => some .noStory
  | some r =>
      if r.custody = .outbound then some .wrongState
      else if r.lock.isSome then some .locked
      else none

/-- The checks of RESOLVE in order. -/
def State.resolveRefusal (k : Key) (s : State) : Option Result :=
  match s.story k with
  | none => some .noStory
  | some r => if r.isDoubt then none else some .wrongState

/-- RESOLVE carried out. -/
def State.resolve (k : Key) (keep : Bool) (s : State) : State :=
  if keep then s.returnStory k
  else if (s.story k).any fun r => decide (r.custody = .doubt true) then s.carbonStory k
  else (s.freeStory k).settleRows

/-! ## Answering a command with checks -/

/-- The refusal found, or the command carried out. -/
def State.unless (refusal : Option Result) (go : State → State) (s : State) : State :=
  match refusal with
  | some r => s.refuse r
  | none => go s

/-! ## The meanings -/

/-- OPEN_STORY (R14). -/
def execOpenStory (slug : List Byte) (edition : Nat) (s : State) : Host.Outcome State Fault Refusal :=
  .next (s.command .openStory fun s =>
    s.unless (s.openRefusal slug edition) (State.openStory slug edition))

/-- PLACE (R15). A text of more than 32 characters is a field of the wrong size (log entry 14). -/
def execPlace (k : Key) (start stop : Nat) (text : List Byte) (s : State) :
    Host.Outcome State Fault Refusal :=
  .next
    (if 32 < text.length then s.unreadable (nameByte .place)
     else
      s.command .place fun s =>
        s.unless (s.placeRefusal k start stop text) (State.place k start stop text))

/-- READ_TEXT (R17). -/
def execReadText (k : Key) (offset count : Nat) (s : State) : Host.Outcome State Fault Refusal :=
  .next (s.command .readText fun s =>
    s.unless (s.readTextRefusal k offset count) (State.readText k offset count))

/-- DROP_STORY (R18). -/
def execDropStory (k : Key) (s : State) : Host.Outcome State Fault Refusal :=
  .next (s.command .dropStory fun s =>
    s.unless (s.dropRefusal k) fun s => ((s.freeStory k).settleRows).done .nothing)

/-- STORY_STATE (R19). -/
def execStoryState (k : Option Key) (s : State) : Host.Outcome State Fault Refusal :=
  .next (s.command .storyState fun s =>
    match k with
    | none => s.done (.storyState none s.store.totals)
    | some k =>
        match s.story k with
        | none => s.refuse .noStory
        | some r => s.done (.storyState (some r) s.store.totals))

/-- RESOLVE (R20). -/
def execResolve (k : Key) (keep : Bool) (s : State) : Host.Outcome State Fault Refusal :=
  .next (s.command .resolve fun s =>
    s.unless (s.resolveRefusal k) fun s => (s.resolve k keep).done .nothing)

end Sys2Proof.Machine
end

