-- ==== Sys2Proof/Machine/Wire.lean ====
section
/-!
DEFINITION. The copy line as levels in time (R25 to R28, R33): what each station drives, what the line
section sees of the wire, the frames it reads there, the drive faults it finds (R30, R40), and the row that a
dominant level comes about as. The rows of the line section carry what is read here (log entry 11).

A time on the wire is a number of 64ths of the bit period T, so that T/8 is 8 and 8T is 512.
-/

namespace Sys2Proof.Machine

/-- A level of the wire over time: dominant where true. -/
abbrev Wire := Nat → Bool

/-- The wire is dominant whenever any station drives it (R25, R27). -/
def Wire.join (a b : Wire) : Wire := fun t => a t || b t

/-! ## The filter (R26) -/

/-- A change to the other level at `t` holds for T/8. -/
def Wire.holds (w : Wire) (level : Bool) (t : Nat) : Bool :=
  (List.range 8).all fun i => w (t + i) == level

/-- The line as the line section sees it, each edge dated back to the moment the level changed: a change is
seen only when the new level has held for T/8 (R26). The line is recessive before time 1. -/
def Wire.seen (w : Wire) : Wire
  | 0 => false
  | t + 1 => if w.holds (!w.seen t) (t + 1) then !w.seen t else w.seen t

/-! ## What a station sends (R27, R28, R33) -/

/-- How long a bit drives the line from its beginning: T/4 for a 1, 3T/4 for a 0. -/
def bitHold (one : Bool) : Nat := if one then 16 else 48

/-- A bit as its sender drives it: timed from `start`, driven from `lead`. -/
structure SentBit where
  start : Nat
  lead  : Nat
  one   : Bool
  deriving DecidableEq, Repr

def SentBit.drives (b : SentBit) : Wire := fun t => decide (b.lead ≤ t ∧ t < b.start + bitHold b.one)

/-- The bit that a sender begins when its own timer would begin it at `timer`. If it has seen the line fall
before that, T/8 after the fall, it begins its lead then and times the bit from the fall (R27). -/
def sendBit (timer : Nat) (fall : Option Nat) (one : Bool) : SentBit :=
  match fall with
  | some f =>
      if f + 8 < timer then { start := f, lead := f + 8, one := one }
      else { start := timer, lead := timer, one := one }
  | none => { start := timer, lead := timer, one := one }

/-- The bits that a sender begins at `timer`, each with the fall of another sender's lead that it sees
first: every bit lasts T. -/
def sendBits : Nat → List (Bool × Option Nat) → List SentBit
  | _, [] => []
  | timer, (one, fall) :: rest =>
      let b := sendBit timer fall one
      b :: sendBits (b.start + 64) rest

/-- The wire as one station's bits drive it. -/
def bitsWire (bits : List SentBit) : Wire := fun t => bits.any fun b => b.drives t

/-- The start mark that a sender begins at `t`: dominant for 2T (R28). -/
def markWire (t : Nat) : Wire := fun u => decide (t ≤ u ∧ u < t + 128)

/-- The lead of the first header bit: at the end of the T for which the start mark is released (R28). -/
def firstLead (t : Nat) : Nat := t + 192

/-- The bits of a frame and its two slots, which the sender sends as 1 (R33), each at its own timer. -/
def frameBits (body : List Bool) : List (Bool × Option Nat) :=
  (body ++ [true, true]).map fun b => (b, none)

/-- A whole frame as its sender drives it from `t`: the start mark, the body, the two slots. -/
def frameWire (t : Nat) (body : List Bool) : Wire :=
  (markWire t).join (bitsWire (sendBits (firstLead t) (frameBits body)))

/-- The slots as a receiver drives them, given the leads it sees: the slot it asserts is held from its lead,
once seen, to 3T/4; after a lead that does not come nothing is asserted (R33). -/
def slotWire (d : SlotDrive) (takenLead refusedLead : Option Nat) : Wire := fun t =>
  let hold (lead : Nat) : Bool := decide (lead + 8 ≤ t ∧ t < lead + 48)
  match d with
  | .neither => false
  | .taken => takenLead.any hold
  | .refused => takenLead.isSome && refusedLead.any hold

/-! ## What a receiver reads (R27, R28, R30) -/

/-- The first falling edge after `t` and at most `span` later. -/
def Wire.nextFall (w : Wire) (t span : Nat) : Option Nat :=
  ((List.range span).find? fun i => !w (t + i) && w (t + i + 1)).map fun i => t + i + 1

/-- How long the level that falls at `t` is dominant: at most 513, which is more than 8T. -/
def Wire.run (w : Wire) (t : Nat) : Nat := ((List.range 513).takeWhile fun i => w (t + i)).length

/-- What a receiver has of a frame: the bits read, with the lead of the last of them, or the cause for which it
abandoned the frame (R30). -/
inductive Reception where
  | bits (read : List Bool) (last : Nat)
  | abandoned (cause : AbandonCause)
  deriving DecidableEq, Repr

def Reception.cons (b : Bool) : Reception → Reception
  | .bits read last => .bits (b :: read) last
  | .abandoned cause => .abandoned cause

/-- The fall of a dominant level of more than T that begins at a bit's lead or before its T/2, where the search
for the next lead takes over (R30). A frame abandoned at it may be followed by the start mark that
`Wire.levelRow` finds there. -/
def Wire.longLevel (w : Wire) (lead : Nat) : Option Nat :=
  ((List.range 33).find? fun i => decide (64 < w.run (lead + i))).map (lead + ·)

/-- The next `n` bits that a receiver reads, the first of them from its lead at `lead`: each at T/2, a recessive
level as a 1, the next from the falling edge that follows. Before the last of them it abandons the frame at a
dominant level of more than T, and where no lead comes within 2T of the last (R27, R30). -/
def Wire.readBits (w : Wire) : Nat → Nat → Reception
  | 0, lead => .bits [] lead
  | n + 1, lead =>
      if n = 0 then .bits [!w (lead + 32)] lead
      else if (w.longLevel lead).isSome then .abandoned .longDominant
      else
        match w.nextFall (lead + 32) 96 with
        | none => .abandoned .missingLead
        | some next => (w.readBits n next).cons (!w (lead + 32))

/-- The lead of the first header bit, where the level that falls at `t` is a start mark: it lasts 3T/2 to
5T/2, and a lead follows within 2T of its release (R28). -/
def Wire.startMark (w : Wire) (t : Nat) : Option Nat :=
  if 96 ≤ w.run t ∧ w.run t ≤ 160 then w.nextFall (t + w.run t) 128 else none

/-- The frame whose start mark falls at `t`, up to its frame end: the 23 header bits, then as many as its length
gives. A length over 40 abandons it at the 23rd bit (R29, R30). None where no start mark falls at `t`. -/
def Wire.receive (w : Wire) (t : Nat) : Option Reception :=
  (w.startMark t).map fun lead =>
    match w.readBits 23 lead with
    | .abandoned cause => .abandoned cause
    | .bits header _ =>
        let len := bodyField header 17 6
        if 40 < len then .abandoned .lengthOver40 else w.readBits (39 + 8 * len) lead

/-- The row as which the end of that reception comes about. -/
def Reception.row : Reception → Instr
  | .bits body _ => .frameEnd body
  | .abandoned cause => .frameAbandoned cause

/-- Whether the slot after the bit whose lead is `last` reads 0, with its lead: none where no lead comes within 2T
(R33). -/
def Wire.readSlot (w : Wire) (last : Nat) : Option (Bool × Nat) :=
  (w.nextFall (last + 32) 96).map fun lead => (w (lead + 32), lead)

/-- Whether the taken and the refused slot read 0, as the sender of the frame tells it at the slot end (R33). -/
def Wire.readSlots (w : Wire) (last : Nat) : Option (Bool × Bool) :=
  (w.readSlot last).bind fun taken => (w.readSlot taken.2).map fun refused => (taken.1, refused.1)

/-! ## A drive fault found (R40) -/

/-- When the sender of a bit reads the line: T/8 after its lead, and T/2 of a bit it drives as 0. -/
def SentBit.checks (b : SentBit) : List Nat := (b.lead + 8) :: if b.one then [] else [b.start + 32]

/-- When the sender of a frame reads the line: T/8 and T into its start mark, and in its bits and slots. -/
def frameChecks (t : Nat) (body : List Bool) : List Nat :=
  [t + 8, t + 64] ++ (sendBits (firstLead t) (frameBits body)).flatMap SentBit.checks

/-- When a receiver reads the line in the slot it asserts: at T/2. -/
def slotChecks (d : SlotDrive) (takenLead refusedLead : Option Nat) : List Nat :=
  match d with
  | .neither => []
  | .taken => takenLead.toList.map (· + 32)
  | .refused => if takenLead.isSome then refusedLead.toList.map (· + 32) else []

/-- The first of the times `checks` at which a station drives the line dominant and reads it recessive. -/
def Wire.faultAt (line drives : Wire) (checks : List Nat) : Option Nat :=
  checks.find? fun t => drives t && !line t

/-! ## The row of a level outside a frame (R28, R41) -/

/-- A length in eighths of T, so that each limit of R28 and R41 falls as it does for the length itself. -/
def eighths (u : Nat) : Nat := if u < 96 then u / 8 else (u + 7) / 8

/-- The row as which the level that falls at `t` outside a frame comes about: over 8T a stuck line, a start
mark with the lead that follows it, else a level that is passed over. -/
def Wire.levelRow (w : Wire) (t : Nat) : Instr :=
  let d := w.run t
  if 512 < d then .stuckLine (eighths d)
  else
    match w.startMark t with
    | some lead => .startMarkRecognised (eighths d) (eighths (lead - (t + d)))
    | none => .dominantLevelNotStartMark (eighths d)

end Sys2Proof.Machine
end

