-- ==== Sys2Proof/Machine/LineEvents.lean ====
section
/-!
DEFINITION. What happens on the copy line: quiet times, arbitration, attempts and their ends, frame
ends, faults, joining (R28 to R48, R51 to R62), and the commands LINE RETRY and LINE COUNTS (R46, R63).
An event that the line section cannot see in its state changes nothing (log entry 1).
-/

namespace Sys2Proof.Machine

/-- What follows at once from an event at another block: the fit queue and the page engine, the slip
writer's request, and the rows. -/
def State.settle (s : State) : State := s.settleFits.settleSlips.settleRows

/-! ## Line section states (R42) -/

/-- JOINING, ACTIVE or LISTEN-ONLY: the line section recognises start marks, receives and asserts
slots. -/
def LineState.listens : LineState → Bool
  | .joining | .active | .listenOnly => true
  | .dormant | .stuck => false

/-- A change of the line counts. -/
def State.count (f : LineCounts → LineCounts) (s : State) : State :=
  s.onTraffic fun t => { t with counts := f t.counts }

/-- JOINING entered with its join count and quiet count at 0 (R43, R46, R47). -/
def State.enterJoining (s : State) : State :=
  (s.onLine fun l => { l with quiet := 0, join := 0, recessive := 0 }).enterLine .joining

/-! ## Start marks (R28, R37, R44) -/

/-- A seen falling edge: the quiet count, the join count and the recessive count of STUCK are 0. -/
def Line.fall (l : Line) : Line := { l with quiet := 0, join := 0, recessive := 0 }

/-- The line is recessive: no dominant run is under way (R41). -/
def Line.released (l : Line) : Line := { l with dominantRun := 0 }

/-- START_MARK_RECOGNISED outside a frame: the reception of a frame begins. -/
def State.startMark (dominant lead : Nat) (s : State) : State :=
  if s.line.state.listens && !s.line.receiving && !s.traffic.sending &&
      decide (dominantLevel dominant = .startMark) && decide (lead ≤ 16) then
    s.onLine fun l => { l.fall.released with receiving := true, slot := .neither }
  else s

/-! ## A stuck line (R41) -/

/-- STUCK_LINE (R41): the line has been seen dominant without a break for `dominant` eighths of T, which the
dominant run measure then holds in JOINING, ACTIVE and LISTEN-ONLY (log entry 11). Over 8T the line section
enters STUCK, where there is no measure and a seen level sets the recessive count to 0. -/
def State.stuckLine (dominant : Nat) (s : State) : State :=
  if decide (dominantLevel dominant = .notSeen) then s
  else if s.line.state = .stuck then s.onLine Line.fall
  else if !s.line.state.listens then s
  else if decide (dominantLevel dominant = .stuck) then
    if s.traffic.sending then s
    else
      let s :=
        if s.line.receiving then s.count fun c => { c with checkFailures := bump16 c.checkFailures }
        else s
      let s := s.onLine fun l =>
        { l.fall.released with recorded := some l.state, receiving := false, slot := .neither }
      ((s.enterLine .stuck).raise .lineFault).settleRows
  else s.onLine fun l => { l.fall with dominantRun := dominant }

/-- DOMINANT_LEVEL_NOT_START_MARK outside a frame: a seen level that is over ends the counts, and the slots of
a frame before it are over; one shorter than T/8 is not seen (R26). One longer than 8T was a stuck line
(R28). -/
def State.passedOver (dominant : Nat) (s : State) : State :=
  if decide (s.line.state = .dormant) || s.line.receiving || s.traffic.sending ||
      decide (dominantLevel dominant = .notSeen) then s
  else if s.line.state.listens && decide (dominantLevel dominant = .stuck) then s.stuckLine dominant
  else s.onLine fun l => { l.fall.released with slot := .neither }

/-- The entry at index `i` of the out queue begins its start mark: it becomes ON LINE (R51). -/
def Traffic.begin (i : Nat) (t : Traffic) : Traffic :=
  { t with queue := t.queue.modify i fun e => { e with onLine := true } }

/-- The line has been seen recessive for `quiet` bit periods: the quiet count reaches that, and it does not
fall without an edge (R37). At two of them no lead of a slot has come within 2T, and nothing is asserted
(R33). -/
def Line.quietFor (quiet : Nat) (l : Line) : Line :=
  { l.released with quiet := max l.quiet quiet, slot := if 2 ≤ max l.quiet quiet then .neither else l.slot }

/-- START_MARK_BEGIN (R37): the quiet count reaches `quiet`, or stands higher already; the offered frame
begins when the count is at least its Q. -/
def State.beginAttempt (quiet : Nat) (s : State) : State :=
  if decide (s.line.state = .active) && !s.line.receiving && !s.traffic.sending then
    let s := s.onLine (Line.quietFor quiet)
    match s.traffic.selected with
    | none => s
    | some i =>
        if (s.traffic.queue[i]?).any fun e => decide (e.quietTime ≤ s.line.quiet) then
          (s.onLine fun l => { l.fall with slot := .neither }).onTraffic (Traffic.begin i)
        else s
  else s

/-- JOIN_COMPLETE (R44): the join count reaches `recessive`, or stands higher already; at 24 the line
section enters ACTIVE. -/
def State.joinCounted (recessive : Nat) (s : State) : State :=
  if decide (s.line.state = .joining) && !s.line.receiving then
    let s := s.onLine fun l => { l.quietFor recessive with join := max l.join recessive }
    if 24 ≤ s.line.join then
      ((s.onLine fun l => { l with join := 0, quiet := 24 }).enterLine .active).settleRows
    else s
  else s

/-! ## Arbitration and attempts (R38, R39, R52 to R55) -/

/-- The index of the ON LINE entry. -/
def Traffic.onLineIndex (t : Traffic) : Option Nat := indexWhere (fun e : OutEntry => e.onLine) t.queue

/-- The ON LINE entry. -/
def State.onLineEntry (s : State) : Option (Nat × OutEntry) :=
  s.traffic.onLineIndex.bind fun i => (s.traffic.queue[i]?).map fun e => (i, e)

/-- Bit `bit` of an entry's body, numbered from 1, as this station sends it. -/
def State.ownBit (s : State) (e : OutEntry) (bit : Nat) : Option Bool :=
  (bodyBits (e.frame.onLine s.desk.station))[bit - 1]?

/-- What the station drives on the wire, released where it does not (R25, R27, R28, R33): the frame of its ON
LINE entry from its start mark at `start` on, and the slot it asserts at the leads it sees. -/
def State.drives (start : Nat) (takenLead refusedLead : Option Nat) (s : State) : Wire :=
  Wire.join
    (match s.onLineEntry with
     | some (_, e) => frameWire start (bodyBits (e.frame.onLine s.desk.station))
     | none => fun _ => false)
    (slotWire s.line.slot takenLead refusedLead)

/-- Where the station finds a drive fault on the wire `w`, DRIVE_FAULT's cause: the first time at which it drives
the line dominant and reads it recessive (R40). -/
def State.faultFound (start : Nat) (takenLead refusedLead : Option Nat) (w : Wire) (s : State) : Option Nat :=
  w.seen.faultAt (s.drives start takenLead refusedLead)
    ((match s.onLineEntry with
      | some (_, e) => frameChecks start (bodyBits (e.frame.onLine s.desk.station))
      | none => []) ++
      slotChecks s.line.slot takenLead refusedLead)

/-- An entry removed from the queue. -/
def State.removeEntry (i : Nat) (s : State) : State :=
  s.onTraffic fun t => { t with queue := t.queue.eraseIdx i }

/-- A change of one entry. -/
def State.onEntry (i : Nat) (f : OutEntry → OutEntry) (s : State) : State :=
  s.onTraffic fun t => { t with queue := t.queue.modify i f }

/-- "arbitration lost" for the ON LINE entry (R52, R55). -/
def State.loseArbitration (i : Nat) (e : OutEntry) (s : State) : State :=
  let s := s.count fun c => { c with arbLosses := bump16 c.arbLosses }
  let s := s.onLine fun l => { l with receiving := true }
  if e.withdrawing then ((s.removeEntry i).tellOwner e .withdrawn).settle
  else s.onEntry i fun e => { e with onLine := false, losses := bump 15 e.losses }

/-- ARBITRATION_LOST (R38): the station sent 1 in a bit of the arbitration field and read 0. -/
def State.arbitrationLost (bit : Nat) (s : State) : State :=
  match s.onLineEntry with
  | none => s
  | some (i, e) =>
      if within 1 7 bit && decide (s.ownBit e bit = some true) then s.loseArbitration i e else s

/-- The record of an attempt that ended with an outcome, absent for DELIVERED (R53). -/
def OutEntry.attempted (outcome : Option Cause) (e : OutEntry) : OutEntry :=
  { e with onLine := false, attempts := e.attempts + 1,
           refusals :=
             if outcome = some .refused ∨ outcome = some .partly then e.refusals + 1 else e.refusals }

/-- The end of the attempt of the entry at index `i` (R54, R55): absent for DELIVERED. -/
def State.endAttemptOf (i : Nat) (e : OutEntry) (outcome : Option Cause) (s : State) : State :=
  let done := e.attempted outcome
  let sent (s : State) : State := s.count fun c => { c with sent := bump16 c.sent }
  if e.withdrawing then
    (((if outcome = none then sent s else s).removeEntry i).tellOwner done .withdrawn).settle
  else
    match outcome with
    | none => (((sent s).removeEntry i).tellOwner done .delivered).settle
    | some c =>
        let done := { done with lastCause := some c }
        if done.attempts < 1 + s.retryLimit then
          ((s.onEntry i fun _ => done).tellOwner done (.attempt c)).settle
        else
          (((s.count fun x => { x with failed := bump16 x.failed }).removeEntry i).tellOwner done
            (.failed c)).settle

/-- The end of the attempt in progress, if there is one. -/
def State.endAttempt (outcome : Option Cause) (s : State) : State :=
  match s.onLineEntry with
  | none => s
  | some (i, e) => s.endAttemptOf i e outcome

/-- BIT_ERROR (R39): the station sent 1 in a bit after the arbitration field and read 0. -/
def State.bitError (bit : Nat) (s : State) : State :=
  match s.onLineEntry with
  | none => s
  | some (i, e) =>
      if decide (8 ≤ bit) && decide (s.ownBit e bit = some true) then
        (s.onLine Line.fall).endAttemptOf i e (some .bitError)
      else s

/-- The outcome the two slot answers form (R53): absent for DELIVERED. -/
def slotOutcome (taken refused : Bool) : Option Cause :=
  match taken, refused with
  | true, false => none
  | false, true => some .refused
  | true, true => some .partly
  | false, false => some .noTaker

/-- The slots of a received frame have passed, or no lead of theirs comes any more: nothing is asserted,
and the frame-end decision stands (R33). -/
def Line.slotsOver (l : Line) : Line := { l.released with slot := .neither }

/-- SLOT_END: of the station's own frame, the answers read (R53); of a received frame, the end of what the
station asserts (R29, R33). -/
def State.slotsRead (taken refused : Bool) (s : State) : State :=
  if s.traffic.sending then
    (s.onLine fun l => { l.released with quiet := 0 }).endAttempt (slotOutcome taken refused)
  else s.onLine Line.slotsOver

/-! ## A drive fault, and the return from STUCK (R40, R41) -/

/-- DRIVE_FAULT (R40): the line section drives, and reads recessive (`State.faultFound`); it releases the line. -/
def State.driveFault (s : State) : State :=
  let sending := s.traffic.sending
  if s.line.state.listens && (sending || decide (s.line.slot ≠ .neither)) then
    let s := s.onLine fun l => { l.fall.released with slot := .neither }
    let s := s.enterLine .listenOnly
    let s := s.raise .lineFault
    (if sending then s.endAttempt (some .bitError) else s).settleRows
  else s

/-- STUCK_RELEASE (R41): recessive for `recessive` bit periods in STUCK; at 16 the recorded state
returns. -/
def State.stuckReleased (recessive : Nat) (s : State) : State :=
  if s.line.state = .stuck then
    if 16 ≤ max s.line.recessive recessive then
      match s.line.recorded with
      | none => s
      | some st =>
          ((s.onLine fun l =>
              { l.released with recorded := none, recessive := 0, join := 0,
                                quiet := if st = .active then 16 else 0 }).enterLine st).settleRows
    else s.onLine fun l => { l.released with recessive := max l.recessive recessive }
  else s

/-! ## Received frames (R30 to R36, R58, R59, R62) -/

/-- FRAME_ABANDONED (R30): counted as a check failure. A missing lead after the frame end abandons
nothing: it ends what the station asserts in the slots (R33). -/
def State.abandonFrame (cause : AbandonCause) (s : State) : State :=
  if s.line.state.listens && s.line.receiving then
    (s.onLine fun l =>
        { (if cause = .missingLead then l.released else l) with
            receiving := false, slot := .neither }).count fun c =>
      { c with checkFailures := bump16 c.checkFailures }
  else if cause = .missingLead then s.onLine Line.slotsOver
  else s

/-- The frame is heard (R34). -/
def State.hears (f : Frame) (s : State) : Bool :=
  within 1 30 f.source &&
  (match f.dest.form with
   | .station => decide (f.dest.number = s.desk.station)
   | .role => decide (f.dest.number = 15) || s.listenRoles.contains f.dest.number)

/-- The receiving kind of a heard frame (R36); none is an unknown kind. -/
def Frame.receiving (f : Frame) : Option FrameKind :=
  (receivingKind f.kind).filter fun k =>
    decide (f.cls = k.cls) && within k.payloadRange.1 k.payloadRange.2 f.payload.length

/-- A receive slot is free (R57). -/
def Traffic.slotFree (t : Traffic) : Bool := decide (t.slots.length < 4)

/-- A frame placed in the youngest receive slot. -/
def State.placeFrame (k : FrameKind) (f : Frame) (inbound : Option InboundRef) (s : State) : State :=
  s.onTraffic fun t =>
    { t with slots := t.slots ++
        [{ kind := k, source := f.source, dest := f.dest, payload := f.payload, inbound := inbound,
           handed := false }] }

def State.assert (d : SlotDrive) (s : State) : State := s.onLine fun l => { l with slot := d }

/-- A frame refused because the receive slots are full (R62). -/
def State.countFull (s : State) : State :=
  s.count fun c => { c with refusedFull := bump16 c.refusedFull }

/-- The receive-slot decision (R58). -/
def State.receiveFrame (k : FrameKind) (f : Frame) (s : State) : State :=
  if s.traffic.slotFree then (s.placeFrame k f none).assert .taken
  else (s.countFull).assert .refused

/-- The slip is the expected one of an inbound entry and right but for a receive slot (R88). -/
def State.slipWantsSlot (k : Key) (source i : Nat) (codes : List Byte) (s : State) : Bool :=
  ((s.inboundOf k).filter fun x => decide (x.2.sender = source)).any fun x =>
    !x.2.complete && decide (i = x.2.expected) && decide (codes.length = x.2.offer.rightCount i)

/-- A heard SLIP (R59). -/
def State.receiveSlip (f : Frame) (s : State) : State :=
  let k := keyAt f.payload 0
  let i := twoAt f.payload 3
  let codes := f.payload.drop 5
  let free := s.traffic.slotFree
  let x := s.acceptSlip k f.source i codes free
  match x.2 with
  | .store entry pass =>
      (x.1.placeFrame .slip f (some { entry := entry, pass := pass })).assert .taken
  | .repeated => x.1.assert .taken
  | .refuse =>
      (if !free && s.slipWantsSlot k f.source i codes then x.1.countFull else x.1).assert .refused

/-- A frame that passed the check (R34 to R36). -/
def State.goodFrame (f : Frame) (s : State) : State :=
  let s := s.count fun c => { c with good := bump16 c.good }
  if f.source = s.desk.station then s.raise .sameNumber
  else if !s.hears f then s
  else
    match f.receiving with
    | none => s.count fun c => { c with unknownKinds := bump16 c.unknownKinds }
    | some .slip => (s.receiveSlip f).settle
    | some k => s.receiveFrame k f

/-- FRAME_END of the frame in reception (R31, R36). -/
def State.frameEnded (body : List Bool) (s : State) : State :=
  if s.line.state.listens && s.line.receiving then
    match readBody body with
    | none => s
    | some (f, passed) =>
        let s := s.onLine fun l => { l.released with receiving := false, slot := .neither }
        if passed then s.goodFrame f
        else s.count fun c => { c with checkFailures := bump16 c.checkFailures }
  else s

/-! ## Commands (R46, R63) -/

/-- LINE RETRY carried out or refused (R46). DESIGN CHOICE (log entry 39): a frame in reception goes on being
received, and a slot that is to be asserted is asserted. -/
def State.lineRetry (s : State) : State :=
  if s.line.state = .listenOnly then (s.enterJoining.settleRows).done .nothing
  else s.refuse .wrongState

/-! ## The meanings -/

def execLineRetry (s : State) : Host.Outcome State Fault Refusal :=
  .next (s.command .lineRetry State.lineRetry)

def execLineCounts (s : State) : Host.Outcome State Fault Refusal :=
  .next (s.command .lineCounts fun s =>
    s.done (.lineCounts s.line.state s.retryLimit s.traffic.counts s.traffic.queue s.traffic.slots))

def execStartMarkBegin (quiet : Nat) (s : State) : Host.Outcome State Fault Refusal :=
  .next (s.beginAttempt quiet)

def execArbitrationLost (bit : Nat) (s : State) : Host.Outcome State Fault Refusal :=
  .next (s.arbitrationLost bit)

def execBitError (bit : Nat) (s : State) : Host.Outcome State Fault Refusal := .next (s.bitError bit)

def execDriveFault (s : State) : Host.Outcome State Fault Refusal := .next s.driveFault

def execSlotEnd (taken refused : Bool) (s : State) : Host.Outcome State Fault Refusal :=
  .next (s.slotsRead taken refused)

def execFrameEnd (body : List Bool) (s : State) : Host.Outcome State Fault Refusal :=
  .next (s.frameEnded body)

/-- FRAME_ABANDONED (R30): in reception every cause is counted alike, and a missing lead shows the line
recessive. -/
def execFrameAbandoned (cause : AbandonCause) (s : State) : Host.Outcome State Fault Refusal :=
  .next (s.abandonFrame cause)

def execStuckLine (dominant : Nat) (s : State) : Host.Outcome State Fault Refusal :=
  .next (s.stuckLine dominant)

def execStuckRelease (recessive : Nat) (s : State) : Host.Outcome State Fault Refusal :=
  .next (s.stuckReleased recessive)

/-- JOIN_COMPLETE (R44). -/
def execJoinComplete (recessive : Nat) (s : State) : Host.Outcome State Fault Refusal :=
  .next (s.joinCounted recessive)

def execStartMarkRecognised (dominant lead : Nat) (s : State) : Host.Outcome State Fault Refusal :=
  .next (s.startMark dominant lead)

def execDominantLevelNotStartMark (dominant : Nat) (s : State) : Host.Outcome State Fault Refusal :=
  .next (s.passedOver dominant)

end Sys2Proof.Machine
end

