-- ==== Sys2Proof/Machine/PassCommands.lean ====
section
/-!
DEFINITION. The pass engine's commands (R67, R77, R83, R93), its timers (R73, R84, R86), the dispatch of
the oldest receive slot (R60) and the dispatches of the pass engine's kinds (R61, R70, R72, R79, R87).
-/

namespace Sys2Proof.Machine

/-! ## PASS (R67) -/

/-- The ENDED entry with the earliest end order. -/
def earliestEnded (l : List (Option Pass)) : Option Nat :=
  (l.zipIdx.filterMap fun x =>
      x.1.bind fun p => if p.phase = .ended then some (p.endOrder, x.2) else none).foldl
    (fun best x =>
      match best with
      | none => some x
      | some b => if x.1 < b.1 then some x else some b) (none : Option (Nat × Nat))
    |>.map (·.2)

/-- The entry PASS takes: the lowest-numbered free one, else the ENDED one that ended earliest. -/
def State.passEntryChoice (s : State) : Option Nat :=
  (indexWhere (fun o : Option Pass => o.isNone) s.pass.outbound).or (earliestEnded s.pass.outbound)

/-- The checks of PASS in order. -/
def State.passRefusal (k : Key) (dest : Address) (s : State) : Option Result :=
  match s.story k with
  | none => some .noStory
  | some r =>
      if !r.isHeld then some .wrongState
      else if r.lock.isSome then some .locked
      else if r.damaged then some .damaged
      else if !goodDestination s.desk.station dest then some .badField
      else if s.passEntryChoice.isNone then some .full
      else none

/-- An entry as PASS fills it. -/
def newPass (k : Key) (dest : Address) (keepCarbon : Bool) (length : Nat) : Pass :=
  { key := k, dest := dest, keepCarbon := keepCarbon, phase := .offering, storyCheck := crcStart,
    slipTotal := slipTotalOf length, taker := none, nextSlip := 0, declines := 0, timer := false,
    outcome := none, endOrder := 0, reading := none, ready := none, offered := false }

/-- PASS carried out in entry `n`. -/
def State.beginOutbound (n : Nat) (k : Key) (dest : Address) (keepCarbon : Bool) (s : State) : State :=
  let length := ((s.story k).map (·.length)).getD 0
  let s := s.onPass fun e =>
    { e with outbound := e.outbound.set n (some (newPass k dest keepCarbon length)) }
  ((((s.beginPass k).prepareOffer n k).settleSlips).settleRows).done (.passEntry n)

/-- PASS carried out. -/
def State.startPass (k : Key) (dest : Address) (keepCarbon : Bool) (s : State) : State :=
  match s.passEntryChoice with
  | none => s.refuse .full
  | some n => s.beginOutbound n k dest keepCarbon

/-! ## CANCEL PASS (R77) -/

/-- CANCEL PASS carried out or refused. -/
def State.cancelPass (k : Key) (s : State) : State :=
  match s.passOf k with
  | none => s.refuse .wrongState
  | some (n, p) =>
      if p.finalInHand then s.refuse .busy
      else
        let s := s.endReturn n p .cancelled
        ((if p.phase = .offering then s.sendWithdraw p.dest k else s).settleSlips).done .nothing

/-! ## ANSWER OFFER (R83) -/

/-- A DECLINE sent for a queue entry, and the entry removed. -/
def State.declineOffer (q : QueuedOffer) (reason : DeclineReason) (s : State) : State :=
  (s.decline q.source q.offer.key reason).removeOffer q.offer.key

/-- The choice take. -/
def State.takeQueued (q : QueuedOffer) (s : State) : State :=
  let k := q.offer.key
  if s.heldHere k then ((s.declineOffer q .heldHere).settleRows).refuse .wrongState
  else if s.lockedCarbon k then ((s.declineOffer q .locked).settleRows).refuse .locked
  else
    let x := s.takeOffer q.offer q.source true
    match x.2 with
    | .taken => ((x.1.removeOffer k).settleRows).done .nothing
    | .noEntry => ((s.declineOffer q .busy).settleRows).refuse .busy
    | .noRoom => ((s.declineOffer q .noRoom).settleRows).refuse .noRoom
    | .noShare => s.refuse .full

/-- The choice decline. -/
def State.declineQueued (q : QueuedOffer) (s : State) : State :=
  ((s.declineOffer q .desk).settleRows).done (.declineSent (s.traffic.hasRoom .answer))

/-- ANSWER OFFER carried out or refused. -/
def State.answerOffer (k : Key) (take : Bool) (s : State) : State :=
  match s.queuedOffer k with
  | none => s.refuse .noStory
  | some q => if take then s.takeQueued q else s.declineQueued q

/-! ## PASS TABLE (R93) -/

def State.passTable (s : State) : State :=
  s.done (.passTable s.pass.outbound s.pass.inbound s.pass.offers s.asks
    ((s.desk.record.map (·.answerTime)).getD 0) ((s.desk.record.map (·.gapTime)).getD 0))

/-! ## Timers -/

/-- ANSWER_TIMER_EXPIRY of an OFFERING entry whose timer runs (R73). -/
def State.answerTimerExpired (n : Nat) (s : State) : State :=
  match s.outbound n with
  | none => s
  | some p =>
      if p.phase = .offering ∧ p.timer = true then (s.endReturn n p .noAnswer).settleSlips else s

/-- OFFER_QUEUE_TIMER_EXPIRY (R84). -/
def State.offerTimerExpired (k : Key) (s : State) : State :=
  match s.queuedOffer k with
  | none => s
  | some q => ((s.declineOffer q .noAnswer).raise .offerLapsed).settleRows

/-- GAP_TIMER_EXPIRY of a TAKEN entry whose timer runs (R86). -/
def State.gapTimerExpired (n : Nat) (s : State) : State :=
  match s.inbound n with
  | none => s
  | some b => if b.complete = false ∧ b.timer = true then (s.loseInbound n).settleSlips else s

/-! ## Dispatch of the oldest receive slot (R60) -/

/-- The oldest slot is freed. -/
def State.freeOldest (s : State) : State := s.onTraffic fun t => { t with slots := t.slots.tail }

/-- The oldest full slot holds a frame of kind `k`: its owner deals with it and frees the slot. -/
def State.dispatch (k : FrameKind) (owner : RxSlot → State → State) (s : State) : State :=
  match s.traffic.slots with
  | [] => s
  | x :: _ => if x.kind = k then ((owner x s).freeOldest).settle else s

/-- An OFFER at the pass engine (R79). -/
def offerOwner (x : RxSlot) (s : State) : State := s.testOffer (offerFields x.payload) x.source

/-- A TAKE at the pass engine (R70, R71). -/
def takeOwner (x : RxSlot) (s : State) : State := s.receiveTake x.key x.source

/-- A DECLINE at the pass engine; one with another reason is set aside (R72, R199). -/
def declineOwner (x : RxSlot) (s : State) : State :=
  match DeclineReason.ofCode (byteAt x.payload 3) with
  | none => s
  | some reason => s.receiveDecline x.key x.source reason

/-- A WITHDRAW at the pass engine (R87). -/
def withdrawOwner (x : RxSlot) (s : State) : State := s.receiveWithdraw x.key x.source

/-- SLIP_DISPATCH (R61): a stored SLIP has become the oldest full slot. -/
def State.slipDispatched (s : State) : State :=
  match s.traffic.slots with
  | [] => s
  | x :: rest =>
      if x.kind = .slip ∧ x.handed = false then
        match x.inbound with
        | none => s.freeOldest
        | some r =>
            if !s.holdsPass r then s.freeOldest
            else if x.slipText = [] then (s.freeOldest.commitIfFinal r x.slipIndex).settle
            else
              (s.onTraffic fun t => { t with slots := { x with handed := true } :: rest }).settleSlips
      else s

/-! ## The meanings -/

/-- PASS (R67). -/
def execPass (k : Key) (dest : Address) (keepCarbon : Bool) (s : State) :
    Host.Outcome State Fault Refusal :=
  .next (s.command .pass fun s =>
    s.unless (s.passRefusal k dest) (State.startPass k dest keepCarbon))

/-- CANCEL_PASS (R77). -/
def execCancelPass (k : Key) (s : State) : Host.Outcome State Fault Refusal :=
  .next (s.command .cancelPass (State.cancelPass k))

/-- ANSWER_OFFER (R83). -/
def execAnswerOffer (k : Key) (take : Bool) (s : State) : Host.Outcome State Fault Refusal :=
  .next (s.command .answerOffer (State.answerOffer k take))

/-- PASS_TABLE (R93). -/
def execPassTable (s : State) : Host.Outcome State Fault Refusal :=
  .next (s.command .passTable State.passTable)

def execOfferDispatch (s : State) : Host.Outcome State Fault Refusal :=
  .next (s.dispatch .offer offerOwner)

def execTakeDispatch (s : State) : Host.Outcome State Fault Refusal :=
  .next (s.dispatch .take takeOwner)

def execDeclineDispatch (s : State) : Host.Outcome State Fault Refusal :=
  .next (s.dispatch .decline declineOwner)

def execWithdrawDispatch (s : State) : Host.Outcome State Fault Refusal :=
  .next (s.dispatch .withdraw withdrawOwner)

def execSlipDispatch (s : State) : Host.Outcome State Fault Refusal := .next s.slipDispatched

def execAnswerTimerExpiry (entry : Nat) (s : State) : Host.Outcome State Fault Refusal :=
  .next (s.answerTimerExpired entry)

def execOfferQueueTimerExpiry (k : Key) (s : State) : Host.Outcome State Fault Refusal :=
  .next (s.offerTimerExpired k)

def execGapTimerExpiry (entry : Nat) (s : State) : Host.Outcome State Fault Refusal :=
  .next (s.gapTimerExpired entry)

end Sys2Proof.Machine
end

