-- ==== Sys2Proof/Machine/FitCommands.lean ====
section
/-!
DEFINITION. The fit engine's commands FIT, FIT STATUS and FIT DEPTH (R102, R115, R116) and the dispatch
of a WIDTHS frame (R97, R98).
-/

namespace Sys2Proof.Machine

/-! ## FIT (R100 to R102) -/

/-- The checks of FIT in order. -/
def State.fitRefusal (k : Key) (t : Setting) (s : State) : Option Result :=
  match s.story k with
  | none => some .noStory
  | some _ =>
      if !goodSetting t then some .badField
      else if s.fit.hasSame k (clampSetting t) ||
          (decide (s.fit.queue.length < 4) && s.fit.waiting.isNone) then none
      else some .busy

/-- FIT carried out: the request joins an identical one, or is added. -/
def State.requestFit (k : Key) (t : Setting) (s : State) : State :=
  let c := clampSetting t
  let joined := s.fit.hasSame k c
  ((s.onFit fun e => if joined then e.join k c true false else e.add k c true false).settleFits).done
    (.fitTaken c.lead c.indent joined)

/-! ## FIT STATUS (R115) -/

/-- FIT STATUS answered. -/
def State.fitStatus (face : Option Nat) (s : State) : State :=
  if face.any fun f => !within 0 3 f then s.refuse .badField
  else s.done (.fitStatus s.fit.faces face s.fit.queue s.fit.run s.fit.waiting s.fit.last)

/-! ## FIT DEPTH (R116) -/

/-- The depth figures of a fit record in `columns` columns against a budget (R112). -/
def depthOf (f : FitRecord) (columns budget : Nat) : ResponseData :=
  .depth f (columnLines f.lines columns) (halfPoints f.setting f.lines columns)
    (points f.setting f.lines columns) (oversetOf f.setting f.lines columns budget)

/-- FIT DEPTH answered. -/
def State.fitDepth (k : Key) (columns budget : Nat) (s : State) : State :=
  match s.story k with
  | none => s.refuse .noStory
  | some r =>
      if !(within 1 6 columns && within 0 2000 budget) then s.refuse .badField
      else
        match r.fit with
        | none => s.refuse .wrongState
        | some f => s.done (depthOf f columns budget)

/-! ## WIDTHS (R97, R98) -/

/-- The 32 widths of a WIDTHS payload, clamped. -/
def widthsIn (payload : List Byte) : List Nat :=
  (List.range 32).map fun i => clamp 4 36 (byteAt payload (2 + i))

/-- A part written. -/
def Face.write (part : Nat) (widths : List Nat) (f : Face) : Face :=
  match part with
  | 0 => { f with part0 := some widths }
  | 1 => { f with part1 := some widths }
  | _ => { f with part2 := some widths }

/-- remove fit records (R21). -/
def Store.removeFits (face : Nat) (st : Store) : Store :=
  { st with stories := st.stories.map fun r =>
      if r.fit.any fun f => decide (f.setting.face = face) then { r with fit := none } else r }

/-- The run in flight is on a face, and a WIDTHS frame for it has been applied: it ends STALE, or, when
it waits for the store's answer, the answer finds it so (R98, R105, R106). DEDUCED (log entry 31): a run
held for a story in edit is not in flight (R104, R115), and stays held. -/
def State.widthsAtRun (face : Nat) (s : State) : State :=
  match s.fit.run, s.fit.queue with
  | some (.reading _), q :: _ => if q.setting.face = face then s.stopRun .stale else s
  | some (.storing record blocks _ textSince), q :: _ =>
      if q.setting.face = face then
        s.onFit fun e => { e with run := some (.storing record blocks true textSince) }
      else s
  | _, _ => s

/-- A WIDTHS frame applied to a face (R97). -/
def State.learnWidths (face part : Nat) (widths : List Nat) (s : State) : State :=
  let s := s.onFit fun e => { e with faces := e.faces.modify face (Face.write part widths) }
  let s := if (s.fit.face face).known then s.raise .faceLearned else s
  (s.onStore (Store.removeFits face)).widthsAtRun face

/-- A WIDTHS frame at the fit engine. -/
def widthsOwner (x : RxSlot) (s : State) : State :=
  let face := byteAt x.payload 0
  let part := byteAt x.payload 1
  if within 0 3 face && within 0 2 part then s.learnWidths face part (widthsIn x.payload) else s

/-! ## The meanings -/

/-- FIT (R102). -/
def execFit (k : Key) (t : Setting) (s : State) : Host.Outcome State Fault Refusal :=
  .next (s.command .fit fun s => s.unless (s.fitRefusal k t) (State.requestFit k t))

/-- FIT_STATUS (R115). -/
def execFitStatus (face : Option Nat) (s : State) : Host.Outcome State Fault Refusal :=
  .next (s.command .fitStatus (State.fitStatus face))

/-- FIT_DEPTH (R116). -/
def execFitDepth (k : Key) (columns budget : Nat) (s : State) : Host.Outcome State Fault Refusal :=
  .next (s.command .fitDepth (State.fitDepth k columns budget))

/-- WIDTHS_DISPATCH (R97). -/
def execWidthsDispatch (s : State) : Host.Outcome State Fault Refusal :=
  .next (s.dispatch .widths widthsOwner)

end Sys2Proof.Machine
end

