-- ==== Sys2Proof/Machine/PageCommands.lean ====
section
/-!
DEFINITION. The page engine's commands (R121 to R123, R136, R138), the clock's commands (R154, R157),
the dispatch of a TIME MARK (R155) and the second event (R146).
-/

namespace Sys2Proof.Machine

/-! ## PLAN PAGE (R121) -/

/-- A placement as the slot takes it: lead and indent clamped, stale count 0, result absent. -/
def placementOf (p : PlacementSpec) : Placement :=
  { key := p.key, columns := p.columns, setting := clampSetting p.setting, budget := p.budget,
    stale := 0, result := none }

/-- The plan a PLAN PAGE writes. -/
def planOf (page edition : Nat) (sendOverset : Bool) (placements : List PlacementSpec) : Plan :=
  { page := page, edition := edition, sendOverset := sendOverset,
    placements := placements.map placementOf, state := .planned, late := false }

/-- The contents of a plan slot. -/
def State.setPlan (slot : Nat) (p : Option Plan) (s : State) : State :=
  s.onPage fun e => { e with plans := e.plans.set slot p }

/-- A slot is QUEUED, FITTING or SENDING. -/
def State.slotBusy (slot : Nat) (s : State) : Bool := (s.plan slot).any fun p => p.state.underWay

/-- A PLANNED plan in a slot leaves PLANNED, told with its edition (R120). -/
def State.oldPlanLeaves (slot : Nat) (s : State) : State :=
  match s.plan slot with
  | some p => if p.state = .planned then s.planLeaves p.edition else s
  | none => s

/-- PLAN PAGE carried out. -/
def State.writePlan (slot page edition : Nat) (sendOverset : Bool) (placements : List PlacementSpec)
    (s : State) : State :=
  (((s.oldPlanLeaves slot).setPlan slot (some (planOf page edition sendOverset placements))).planEnters
    edition).done
    (.planned (placements.map fun p =>
      ((clampSetting p.setting).lead, (clampSetting p.setting).indent)))

/-- PLAN PAGE carried out or refused. -/
def State.planPage (slot page edition : Nat) (sendOverset : Bool) (placements : List PlacementSpec)
    (s : State) : State :=
  if !within 0 3 slot then s.refuse .badField
  else if s.slotBusy slot then s.refuse .busy
  else
    match planFault s.editionTable.length page edition placements with
    | some f => s.refuseField .badField f
    | none => s.writePlan slot page edition sendOverset placements

/-! ## CLEAR PLAN (R122) -/

def State.clearPlan (slot : Nat) (s : State) : State :=
  if !within 0 3 slot then s.refuse .badField
  else if s.slotBusy slot then s.refuse .busy
  else ((s.oldPlanLeaves slot).setPlan slot none).done .nothing

/-! ## SEND PAGE (R123) -/

/-- Check 2 for one placement: a record here, HELD or CARBON. -/
def State.placedFault (k : Key) (s : State) : Option Result :=
  match s.story k with
  | none => some .noStory
  | some r => if r.custody = .held ∨ r.custody = .carbon then none else some .wrongState

/-- Checks 2 to 5, each over the placements in plan order. -/
def State.sendChecks (s : State) : List (Key → Option Result) :=
  [s.placedFault,
   fun k => if (s.story k).any (·.damaged) then some .damaged else none,
   fun k => if (s.story k).any (·.lock.isSome) then some .locked else none,
   fun k => if (s.inboundOf k).isSome then some .busy else none]

/-- The first placement, from index `i` on, that fails a check. -/
def firstFailing (check : Key → Option Result) (i : Nat) : List Placement → Option (Result × Nat)
  | [] => none
  | p :: rest =>
      match check p.key with
      | some r => some (r, i)
      | none => firstFailing check (i + 1) rest

/-- The refusal of SEND PAGE for a plan's placements, with the index of the placement. -/
def State.sendFault (p : Plan) (s : State) : Option (Result × Nat) :=
  s.sendChecks.findSome? fun check => firstFailing check 0 p.placements

/-- SEND PAGE carried out: the locks in plan order, QUEUED, and the youngest of the send order. -/
def State.queuePage (slot : Nat) (p : Plan) (s : State) : State :=
  let position := s.page.sendOrder.length
  let s := p.placements.foldl (fun s q => s.takeLock q.key slot) s
  let s := s.onPlan slot fun p => { p with state := .queued }
  let s := s.planLeaves p.edition
  let s := s.onPage fun e => { e with sendOrder := e.sendOrder ++ [slot] }
  (s.settle).done (.position position)

/-- SEND PAGE carried out or refused. -/
def State.sendPage (slot : Nat) (s : State) : State :=
  if !within 0 3 slot then s.refuse .badField
  else
    match (s.plan slot).filter fun p => decide (p.state = .planned) with
    | none => s.refuse .wrongState
    | some p =>
        if s.editionClosed p.edition then s.refuse .closed
        else
          match s.sendFault p with
          | some (r, i) => s.refuseField r (.placement, i)
          | none => s.queuePage slot p

/-! ## CANCEL PAGE, PAGE TABLE (R136, R138) -/

def State.cancelPage (slot : Nat) (s : State) : State :=
  if !within 0 3 slot then s.refuse .badField
  else if !s.slotBusy slot then s.refuse .wrongState
  else ((s.endPlan slot .cancelled).settle).done .nothing

def State.pageTable (s : State) : State :=
  s.done (.pageTable s.page.plans s.page.outstanding s.page.requests s.fit.waiting.isSome
    s.page.sendOrder s.page.transfer)

/-! ## SET CLOCK, CLOCK STATUS (R154, R157) -/

/-- SET CLOCK carried out; this station's TIME MARK follows when it is its own source (R156). -/
def State.hostSet (time : Nat) (s : State) : State :=
  let kind := s.setKind time
  let x := s.setClock time
  let s := x.1
  let s := if s.ownSource then s.sendMark s.clock.time else s
  s.settle.done (.clockSet kind x.2 s.clock.time s.current)

def State.setClockCommand (time : Nat) (s : State) : State :=
  if daySeconds ≤ time then s.refuse .badField else s.hostSet time

def State.clockStatus (s : State) : State :=
  s.done (.clockStatus s.clock.time s.clock.isSet s.dayStart (dayTime s.dayStart s.clock.time)
    s.clockSource s.ownSource (s.editionTable.zip s.clock.editions) s.current s.clock.ignored
    (s.traffic.holdsKind .timeMark))

/-! ## TIME MARK (R155) -/

/-- The clock accepts a mark of time `t` from `source`. -/
def State.acceptsMark (source t : Nat) (s : State) : Bool :=
  within 1 30 s.clockSource && decide (s.clockSource = source) && decide (t < daySeconds)

/-- A TIME MARK at the edition clock. -/
def markOwner (x : RxSlot) (s : State) : State :=
  let t := threeAt x.payload 0
  if s.acceptsMark x.source t then (s.setClock t).1
  else s.onClock fun c => { c with ignored := bump16 c.ignored }

/-! ## The meanings -/

/-- PLAN_PAGE (R121). -/
def execPlanPage (slot page edition : Nat) (sendOverset : Bool) (placements : List PlacementSpec)
    (s : State) : Host.Outcome State Fault Refusal :=
  .next (s.command .planPage (State.planPage slot page edition sendOverset placements))

/-- CLEAR_PLAN (R122). -/
def execClearPlan (slot : Nat) (s : State) : Host.Outcome State Fault Refusal :=
  .next (s.command .clearPlan (State.clearPlan slot))

/-- SEND_PAGE (R123). -/
def execSendPage (slot : Nat) (s : State) : Host.Outcome State Fault Refusal :=
  .next (s.command .sendPage (State.sendPage slot))

/-- CANCEL_PAGE (R136). -/
def execCancelPage (slot : Nat) (s : State) : Host.Outcome State Fault Refusal :=
  .next (s.command .cancelPage (State.cancelPage slot))

/-- PAGE_TABLE (R138). -/
def execPageTable (s : State) : Host.Outcome State Fault Refusal :=
  .next (s.command .pageTable State.pageTable)

/-- SET_CLOCK (R154). -/
def execSetClock (time : Nat) (s : State) : Host.Outcome State Fault Refusal :=
  .next (s.command .setClock (State.setClockCommand time))

/-- CLOCK_STATUS (R157). -/
def execClockStatus (s : State) : Host.Outcome State Fault Refusal :=
  .next (s.command .clockStatus State.clockStatus)

/-- TIME_MARK_DISPATCH (R155). -/
def execTimeMarkDispatch (s : State) : Host.Outcome State Fault Refusal :=
  .next (s.dispatch .timeMark markOwner)

/-- SECOND_EVENT (R146). -/
def execSecondEvent (s : State) : Host.Outcome State Fault Refusal := .next s.second.settle

end Sys2Proof.Machine
end

