-- ==== Sys2Proof/Machine/ScreenCommands.lean ====
section
/-!
DEFINITION. The screen unit's commands (R163 to R165, R174, R177), the row slot event (R161), the flash
notice (R173, R175).
-/

namespace Sys2Proof.Machine

/-- The window of a screen. -/
def State.window (s : State) (n : Nat) : Option Window := s.screen.windows[n]?

/-- A screen number below the screen count, and a top line 0..4095. -/
def State.goodView (screen top : Nat) (s : State) : Bool :=
  decide (screen < s.screenCount) && within 0 4095 top

/-! ## VIEW, SCROLL, CURSOR -/

/-- EDIT may be set for a key: its story is HELD with no page lock (R162). -/
def State.editable (k : Key) (s : State) : Bool :=
  (s.story k).any fun r => r.isHeld && r.lock.isNone

/-- The checks of VIEW in order (R163). -/
def State.viewRefusal (screen : Nat) (k : Option Key) (edit : Bool) (top : Nat) (s : State) :
    Option Result :=
  if !s.goodView screen top then some .badField
  else if k.any fun k => (s.story k).isNone then some .noStory
  else if edit && !k.any s.editable then some .wrongState
  else none

/-- The window VIEW leaves, its row table and staging as they stand. -/
def Window.viewing (k : Option Key) (edit : Bool) (top : Nat) (w : Window) : Window :=
  match k with
  | none => w.blanked
  | some k =>
      { w with key := some k, mode := if edit then .edit else .read, top := top, cursor := none,
               lineMap := none, waiting := false }

/-- VIEW carried out. -/
def State.view (screen : Nat) (k : Option Key) (edit : Bool) (top : Nat) (s : State) : State :=
  ((((s.dirty screen anyRow).onWindow screen (Window.viewing k edit top))).settleRows).done .nothing

/-- The checks of SCROLL in order (R164). -/
def State.scrollRefusal (screen top : Nat) (s : State) : Option Result :=
  if !s.goodView screen top then some .badField
  else if (s.window screen).any fun w => w.key.isSome then none
  else some .wrongState

/-- SCROLL carried out. -/
def State.scroll (screen top : Nat) (s : State) : State :=
  (((s.dirty screen textRow).onWindow screen fun w =>
      { w with top := top, lineMap := none }).settleRows).done .nothing

/-- The checks of CURSOR in order (R165). -/
def State.cursorRefusal (screen : Nat) (offset : Option Nat) (s : State) : Option Result :=
  if s.screenCount ≤ screen then some .badField
  else
    match (s.window screen).bind (·.key) with
    | none => some .wrongState
    | some k =>
        let length := ((s.story k).map (·.length)).getD 0
        if offset.any fun o => decide (length < o) then some .badField else none

/-- CURSOR carried out. -/
def State.setCursor (screen : Nat) (offset : Option Nat) (s : State) : State :=
  (((s.dirty screen textRow).onWindow screen fun w => { w with cursor := offset }).settleRows).done
    .nothing

/-! ## The flash notice (R173 to R175) -/

/-- The notice shows this text from this source. -/
def Screen.repeats (text : List Byte) (source : Nat) (c : Screen) : Bool :=
  c.flash.any fun f => decide (f.text = text) && decide (f.source = source)

/-- A flash of a text, its codes all printable: a repeat changes nothing, any other replaces the notice
and starts its hold timer (R173). -/
def State.applyFlash (text : List Byte) (source : Nat) (s : State) : State :=
  if s.screen.repeats text source then s
  else
    let arrival := if s.clock.isSet then some s.clock.time else none
    let f : Flash := { text := text, source := source, arrival := arrival }
    ((s.onScreen fun c => { c with flash := some f }).raise .flashIn).dirtyStatus

/-- A FLASH at the screen unit. -/
def flashOwner (x : RxSlot) (s : State) : State :=
  s.applyFlash (substitute printable x.payload).1 x.source

/-- The checks of SEND FLASH in order (R174). -/
def State.flashRefusal (text : List Byte) (dest : Address) (s : State) : Option Result :=
  if !(within 1 32 text.length && goodDestination s.desk.station dest) then some .badField
  else if !text.all printable then some .badText
  else if s.traffic.holdsKind .flash then some .busy
  else if !s.traffic.hasRoom .flash then some .full
  else none

/-- SEND FLASH carried out. -/
def State.sendFlash (text : List Byte) (dest : Address) (s : State) : State :=
  (((s.send .flash (flashFrame dest text)).applyFlash text s.desk.station).settleRows).done .nothing

/-- HOLD_TIMER_EXPIRY while a notice is present (R175). -/
def State.holdExpired (s : State) : State :=
  if s.screen.flash.isSome then
    ((s.onScreen fun c => { c with flash := none }).dirtyStatus).settleRows
  else s

/-! ## The row slot event (R161) -/

/-- What a lane sends at a row slot. -/
def Staging.message : Staging → LaneMessage
  | .ready r => .row r
  | .empty | .building _ => .keep

/-- The staging after a row slot. -/
def Staging.afterSlot : Staging → Staging
  | .ready _ => .empty
  | .empty => .empty
  | .building r => .building r

/-- A lane sends a message, and counts it. -/
def Lane.send (m : LaneMessage) (l : Lane) : Lane :=
  match m with
  | .row _ => { l with rows := bump16 l.rows, last := some m }
  | .keep => { l with keeps := bump16 l.keeps, last := some m }

/-- Lane `n` at a row slot. -/
def State.slotAtLane (n : Nat) (s : State) : State :=
  match s.window n with
  | none => s
  | some w =>
      (s.onScreen fun c => { c with lanes := c.lanes.modify n (Lane.send w.staging.message) }).onWindow n
        fun w => { w with staging := w.staging.afterSlot }

/-- ROW_SLOT, while the row slot timer runs. -/
def State.rowSlotEvent (s : State) : State :=
  if s.screen.timer then (s.eachWindow State.slotAtLane).settleRows else s

/-- The characters of a lane message as sent (R200). -/
def LaneMessage.chars : LaneMessage → List Byte
  | .keep => [0x02#8]
  | .row r =>
      [0x01#8, BitVec.ofNat 8 r.number, (match r.mode with | .read => 0x00#8 | .edit => 0x01#8),
       BitVec.ofNat 8 r.cursor] ++ r.codes

/-- A character on a lane, in bit times of 500 kbit/s, the mark level as true: one start bit at the space
level, eight data bits with the least significant first, one stop bit at the mark level (R200). -/
def charLevels (c : Byte) : List Bool := false :: ((List.range 8).map fun i => c.getLsbD i) ++ [true]

/-- A message on a lane: its characters follow one another without gaps (R200). -/
def LaneMessage.levels (m : LaneMessage) : List Bool := m.chars.flatMap charLevels

/-- The output of a lane `bit` bit times after the last row slot event: the message's levels, then the
mark level, which an idle lane holds (R160, R200). -/
def Lane.levelAt (bit : Nat) (l : Lane) : Bool :=
  ((l.last.map LaneMessage.levels).getD []).getD bit true

/-! ## SCREEN STATUS (R177) -/

/-- SCREEN STATUS answered. The time left on the hold timer is a free value (log entry 6). -/
def State.screenStatus (s : State) : State :=
  let count := s.screenCount
  let hold := (s.desk.record.map (·.flashHold)).getD 0
  let flash := s.screen.flash.map fun f => (f, timeLeft (1000 * hold) s.freeReads)
  (if s.screen.flash.isSome then s.useFree else s).done
    (.screenStatus count ((s.desk.record.map (·.rowSlot)).getD 0) hold (s.screen.windows.take count)
      (s.screen.lanes.take count) s.screen.build flash (s.traffic.holdsKind .flash) s.screen.lastFlash)

/-! ## The meanings -/

/-- VIEW (R163). -/
def execView (screen : Nat) (k : Option Key) (edit : Bool) (top : Nat) (s : State) :
    Host.Outcome State Fault Refusal :=
  .next (s.command .view fun s =>
    s.unless (s.viewRefusal screen k edit top) (State.view screen k edit top))

/-- SCROLL (R164). -/
def execScroll (screen top : Nat) (s : State) : Host.Outcome State Fault Refusal :=
  .next (s.command .scroll fun s =>
    s.unless (s.scrollRefusal screen top) (State.scroll screen top))

/-- CURSOR (R165). -/
def execCursor (screen : Nat) (offset : Option Nat) (s : State) : Host.Outcome State Fault Refusal :=
  .next (s.command .cursor fun s =>
    s.unless (s.cursorRefusal screen offset) (State.setCursor screen offset))

/-- SEND_FLASH (R174). -/
def execSendFlash (text : List Byte) (dest : Address) (s : State) :
    Host.Outcome State Fault Refusal :=
  .next (s.command .sendFlash fun s =>
    s.unless (s.flashRefusal text dest) (State.sendFlash text dest))

/-- SCREEN_STATUS (R177). -/
def execScreenStatus (s : State) : Host.Outcome State Fault Refusal :=
  .next (s.command .screenStatus State.screenStatus)

/-- FLASH_DISPATCH (R173). -/
def execFlashDispatch (s : State) : Host.Outcome State Fault Refusal :=
  .next (s.dispatch .flash flashOwner)

/-- ROW_SLOT (R161). -/
def execRowSlot (s : State) : Host.Outcome State Fault Refusal := .next s.rowSlotEvent

/-- HOLD_TIMER_EXPIRY (R175). -/
def execHoldTimerExpiry (s : State) : Host.Outcome State Fault Refusal := .next s.holdExpired

end Sys2Proof.Machine
end

