-- ==== Sys2Proof/Machine/Reply.lean ====
section
/-!
DEFINITION. The bytes of a response message (R203): its name, result, field named and data. R203 fixes
the sizes of fields; the data of a response are "the data of the command's rule, in the order listed"
and are laid out here by those sizes (DEDUCED, log entry 9).
-/

namespace Sys2Proof.Machine

/-! ## Codes, numbered in the order their rules list them (R203) -/

def resultCode : Result → Nat
  | .done => 0x00 | .wrongState => 0x01 | .noStory => 0x02 | .noRoom => 0x03 | .full => 0x04
  | .busy => 0x05 | .locked => 0x06 | .damaged => 0x07 | .badField => 0x08 | .badText => 0x09
  | .tooLong => 0x0A | .closed => 0x0B

/-- The model's number of a field, from which the free numbering of Config is read (log entry 8). -/
def fieldNumber : FieldName → Nat
  | .stationNumber => 0 | .rate => 1 | .roles => 2 | .typesetRole => 3 | .policy => 4
  | .clockSource => 5 | .dayStart => 6 | .editionCount => 7 | .deadline => 8 | .screenCount => 9
  | .page => 10 | .edition => 11 | .placements => 12 | .key => 13 | .columns => 14 | .face => 15
  | .measure => 16 | .size => 17 | .budget => 18 | .placement => 19 | .tendByte => 20

def Custody.code : Custody → Nat
  | .held => 0 | .carbon => 1 | .outbound => 2 | .doubt _ => 3

def LineState.code : LineState → Nat
  | .dormant => 0 | .joining => 1 | .active => 2 | .listenOnly => 3 | .stuck => 4

def DeskState.code : DeskState → Nat
  | .start => 0 | .onLine => 1 | .unattended => 2

def Cause.code : Cause → Nat
  | .refused => 0 | .partly => 1 | .noTaker => 2 | .bitError => 3

def Owner.code : Owner → Nat
  | .passEntry n => n
  | .page => 4
  | .take _ | .answer => 5
  | .flash => 6
  | .clock => 7

def PassPhase.code : PassPhase → Nat
  | .offering => 0 | .sending => 1 | .ended => 2

def PassCause.code : PassCause → Nat
  | .line c => c.code
  | .damaged => 4

def FitOutcome.code : FitOutcome → Nat
  | .done => 0 | .stale => 1 | .noStory => 2

def PageCause.code : PageCause → Nat
  | .line c => c.code
  | .fitUnsettled => 4
  | .damaged => 5

def PageStep.code : PageStep → Nat
  | .head => 0 | .placement => 1 | .text => 2 | .finish => 3

def FrameInHand.code : FrameInHand → Nat
  | .none => 0 | .preparing => 1 | .queued => 2

def EditionState.code : EditionState → Nat
  | .opened => 0 | .due => 1 | .late => 2 | .closed => 3

def SetKind.code : SetKind → Nat
  | .first => 0 | .noChange => 1 | .forward => 2 | .backward => 3

def LampPattern.code : LampPattern → Nat
  | .fast => 0 | .steady => 1 | .slow => 2 | .off => 3

/-! ## Field forms (R203) -/

/-- A flag: 0 for no, 1 for yes. -/
def flagByte (b : Bool) : List Byte := oneByte b.toNat

/-- A field that may be left out. -/
def optional {α : Type} (f : α → List Byte) : Option α → List Byte
  | none => oneByte 0
  | some x => oneByte 1 ++ f x

/-- A list, after its one-byte count. -/
def counted {α : Type} (f : α → List Byte) (l : List α) : List Byte :=
  oneByte l.length ++ l.flatMap f

/-- A text, after its character count in two bytes. -/
def textField (codes : List Byte) : List Byte := twoBytes codes.length ++ codes

def addressBytes (a : Address) : List Byte := oneByte (formCode a.form) ++ oneByte a.number

def settingBytes (t : Setting) : List Byte :=
  oneByte t.face ++ twoBytes t.measure ++ oneByte t.size ++ oneByte t.lead ++ oneByte t.indent

/-- A set of notices: bit 0 at the least significant bit of the last byte. -/
def noticeBytes (n : BitVec 18) : List Byte := threeBytes n.toNat

/-! ## Records -/

def fitRecordBytes (f : FitRecord) : List Byte :=
  settingBytes f.setting ++ twoBytes f.lines ++ oneByte (placementFlags f.flags false)

/-- A story record (R19). -/
def storyBytes (r : Story) : List Byte :=
  keyBytes r.key ++ slugBytes r.slug ++ oneByte r.edition ++ oneByte r.custody.code ++
    (match r.custody with
     | .doubt carbon => flagByte carbon
     | _ => []) ++
    twoBytes r.length ++ twoBytes r.chain.length ++ flagByte r.damaged ++ optional oneByte r.lock ++
    optional fitRecordBytes r.fit ++
    optional (fun f => oneByte f.station ++ twoBytes f.slips) r.receivedFrom ++ flagByte r.inEdit

def totalsBytes (t : StoreTotals) : List Byte :=
  oneByte t.records ++ oneByte t.reserved ++ oneByte t.freeEntries ++ twoBytes t.freeBlocks ++
    twoBytes t.substitutions

def countsBytes (c : LineCounts) : List Byte :=
  twoBytes c.good ++ twoBytes c.checkFailures ++ twoBytes c.unknownKinds ++ twoBytes c.refusedFull ++
    twoBytes c.sent ++ twoBytes c.failed ++ twoBytes c.arbLosses

/-- An out queue entry (R63). -/
def entryBytes (e : OutEntry) : List Byte :=
  oneByte e.frame.kind.code ++ oneByte e.frame.kind.cls ++ addressBytes e.frame.dest ++
    oneByte e.owner.code ++ flagByte e.onLine ++ oneByte e.attempts ++ oneByte e.losses ++
    oneByte e.refusals ++ optional (fun c => oneByte c.code) e.lastCause

/-- An outcome. A DECLINE reason is numbered from 0 in the order of R81, as R203 numbers a code. -/
def outcomeBytes : PassOutcome → List Byte
  | .delivered => oneByte 0
  | .declined reason => oneByte 1 ++ oneByte (reason.code - 1)
  | .noAnswer => oneByte 2
  | .failed cause => oneByte 3 ++ oneByte cause.code
  | .unconfirmed => oneByte 4
  | .cancelled => oneByte 5
  | .abandoned => oneByte 6

/-- An outbound entry in use (R93). -/
def passBytes (p : Pass) : List Byte :=
  keyBytes p.key ++ addressBytes p.dest ++ flagByte p.keepCarbon ++ oneByte p.phase.code ++
    optional oneByte p.taker ++ twoBytes p.nextSlip ++ twoBytes p.slipTotal ++ oneByte p.declines ++
    flagByte p.timer ++ optional outcomeBytes p.outcome ++ flagByte p.finalInHand

/-- An inbound entry in use (R93). -/
def inboundBytes (b : Inbound) : List Byte :=
  keyBytes b.offer.key ++ oneByte b.sender ++ slugBytes b.offer.slug ++ oneByte b.offer.edition ++
    twoBytes b.offer.length ++ twoBytes b.offer.slipTotal ++ flagByte b.complete ++
    flagByte b.byHost ++ flagByte b.confirmed ++ twoBytes b.expected ++ flagByte b.timer

def offerBytes (q : QueuedOffer) : List Byte :=
  keyBytes q.offer.key ++ oneByte q.source ++ slugBytes q.offer.slug ++ oneByte q.offer.edition ++
    twoBytes q.offer.length ++ twoBytes q.offer.slipTotal

/-- A table entry: whether it is free, then its fields. -/
def tableEntry {α : Type} (f : α → List Byte) (o : Option α) : List Byte :=
  flagByte o.isNone ++ (o.map f).getD []

/-- A face's state: ABSENT, INCOMPLETE, KNOWN (R96). -/
def faceCode (f : Face) : Nat :=
  if f.known then 2
  else if f.part0.isSome || f.part1.isSome || f.part2.isSome then 1
  else 0

/-- A face's state and its set of parts. DESIGN CHOICE (log entry 9): the set takes one byte, part n at bit n,
part 0 the least significant. -/
def faceBytes (f : Face) : List Byte :=
  oneByte (faceCode f) ++
    oneByte (f.part0.isSome.toNat + 2 * f.part1.isSome.toNat + 4 * f.part2.isSome.toNat)

/-- The widths of the parts received. -/
def widthBytes (f : Face) : List Byte :=
  ((f.part0.getD []) ++ (f.part1.getD []) ++ (f.part2.getD [])).map (BitVec.ofNat 8)

/-- The requesters. DESIGN CHOICE (log entry 9): the host 0, the page engine 1, both 2; a free value for none
(log entry 30). -/
def requesterByte (q : FitRequest) : Byte :=
  if q.host && q.page then 2#8 else if q.page then 1#8 else if q.host then 0#8
  else Config.noRequester

def requestBytes (q : FitRequest) : List Byte :=
  keyBytes q.key ++ settingBytes q.setting ++ [requesterByte q]

/-- The oldest request's run: in flight, held for a story in edit, or waiting for the store's answer,
and the blocks it has read (R115). -/
def runBytes : Option Run → List Byte
  | some (.reading r) => oneByte 0 ++ twoBytes r.block
  | some .held => oneByte 1 ++ twoBytes 0
  | some (.storing _ blocks _ _) => oneByte 2 ++ twoBytes blocks
  | none => oneByte 0 ++ twoBytes 0

def lastFitBytes (l : LastFit) : List Byte :=
  keyBytes l.key ++ settingBytes l.setting ++ oneByte l.outcome.code

def planStateBytes : PlanState → List Byte
  | .planned => oneByte 1
  | .queued => oneByte 2
  | .fitting => oneByte 3
  | .sending => oneByte 4
  | .sent => oneByte 5
  | .failed cause => oneByte 6 ++ oneByte cause.code
  | .overset => oneByte 7
  | .dropped => oneByte 8
  | .cancelled => oneByte 9

def resultBytes (r : PlacementResult) : List Byte :=
  twoBytes r.lines ++ oneByte (placementFlags r.flags false) ++ twoBytes r.columnLines ++
    twoBytes r.depth ++ twoBytes r.overset

def placementBytes (p : Placement) : List Byte :=
  keyBytes p.key ++ oneByte p.columns ++ settingBytes p.setting ++ twoBytes p.budget ++
    oneByte p.stale ++ optional resultBytes p.result

/-- A plan slot (R138); EMPTY is code 0. -/
def slotBytes : Option Plan → List Byte
  | none => oneByte 0
  | some p =>
      planStateBytes p.state ++ oneByte p.page ++ oneByte p.edition ++ flagByte p.sendOverset ++
        flagByte p.late

/-- The placements of a plan slot, which R138 lists after the four slots; none for an EMPTY one. -/
def slotPlacementBytes : Option Plan → List Byte
  | none => []
  | some p => counted placementBytes p.placements

/-- The transfer record. Its pending drop is numbered from 0 in the order of the record's table, as R203
numbers a code. -/
def transferBytes (t : Transfer) : List Byte :=
  optional oneByte t.plan ++ oneByte t.step.code ++ oneByte t.placement ++ twoBytes t.chunk ++
    twoBytes t.left ++ twoBytes t.sent ++ oneByte t.frame.code ++
    optional (fun r => oneByte (r.code - 1)) t.drop

def editionBytes (e : EditionSpec) : List Byte :=
  twoBytes e.deadline ++ oneByte e.lead ++ oneByte e.margin

/-- An edition of CLOCK STATUS (R157). -/
def editionStatusBytes (e : EditionSpec × EditionState) : List Byte :=
  editionBytes e.1 ++ twoBytes (dueMinute e.1) ++ twoBytes (lateMinute e.1) ++
    twoBytes (closeMinute e.1) ++ oneByte e.2.code

/-- The current edition, or none. -/
def currentBytes (c : Current) : List Byte := optional (fun x => oneByte x.1) c

/-- The start record, in the order SETTLE carries it. -/
def recordBytes (r : StartRecord) : List Byte :=
  oneByte r.rate ++ counted oneByte r.roles ++ oneByte r.retry ++ oneByte r.typesetRole ++
    flagByte r.ask ++ twoBytes r.answerTime ++ twoBytes r.gapTime ++ oneByte r.clockSource ++
    twoBytes r.dayStart ++ oneByte r.editions.length ++ counted editionBytes r.editions ++
    oneByte r.screens ++ oneByte r.rowSlot ++ oneByte r.flashHold ++ twoBytes r.tendWindow ++
    noticeBytes r.mask

def modeCode : Mode → Nat
  | .read => 0 | .edit => 1

def stagingBytes : Staging → List Byte
  | .empty => oneByte 0
  | .building r => oneByte 1 ++ oneByte r
  | .ready r => oneByte 2 ++ oneByte r.number

/-- A set of rows. DESIGN CHOICE (log entry 9): it takes three bytes, row 0 at the least significant bit of the
last, as R203 lays the attention mask. -/
def rowSet (dirty : List Bool) : Nat :=
  (dirty.zipIdx.map fun x => if x.1 then 2 ^ x.2 else 0).sum

def windowBytes (w : Window) : List Byte :=
  optional keyBytes w.key ++ oneByte (modeCode w.mode) ++ twoBytes w.top ++
    optional twoBytes w.cursor ++ threeBytes (rowSet w.dirty) ++ stagingBytes w.staging ++
    flagByte w.lineMap.isSome ++ flagByte w.waiting

/-- The row builder while it serves a lane: the lane, and the line walk 0 or the render 1. DESIGN CHOICE (log entry
9): an idle one is told by the presence byte before it, and not by a third number. -/
def buildBytes (b : Build) : List Byte :=
  oneByte b.lane ++
    (match b.phase with
     | .walk .. => oneByte 0
     | .render .. => oneByte 1)

def flashBytes (f : Flash × Nat) : List Byte :=
  textField f.1.text ++ oneByte f.1.source ++ optional threeBytes f.1.arrival ++ threeBytes f.2

def flashOutcomeBytes : FlashOutcome → List Byte
  | .delivered => oneByte 0
  | .failed c => oneByte 1 ++ oneByte c.code

/-! ## The message -/

/-- The data of a response. DESIGN CHOICE (log entry 9): the text of READ TEXT carries its number of
characters once, before it, and no presence byte or count stands before a keyed STORY STATE's record, FIT
STATUS's widths and oldest run, or PAGE TABLE's fitting items; FIT's "joined an existing one or was added" is a
flag, 1 for joined. -/
def dataBytes : ResponseData → List Byte
  | .nothing => []
  | .opened k => keyBytes k
  | .placed length => twoBytes length
  | .text codes => textField codes
  | .storyState record totals => (record.map storyBytes).getD [] ++ totalsBytes totals
  | .lineCounts st retry counts queue slots =>
      oneByte st.code ++ oneByte retry ++ countsBytes counts ++ counted entryBytes queue ++
        counted (fun x => oneByte x.kind.code ++ oneByte x.source) slots
  | .passEntry n => oneByte n
  | .declineSent room => flagByte room
  | .passTable outbound inbound offers ask answerTime gapTime =>
      (outbound.zipIdx.flatMap fun x => oneByte x.2 ++ tableEntry passBytes x.1) ++
        inbound.flatMap (tableEntry inboundBytes) ++ counted offerBytes offers ++ flagByte ask ++
        twoBytes answerTime ++ twoBytes gapTime
  | .fitTaken lead indent joined => oneByte lead ++ oneByte indent ++ flagByte joined
  | .fitStatus faces asked queue run waiting last =>
      faces.flatMap faceBytes ++
        ((asked.map fun n => widthBytes (faces.getD n Face.absent)).getD []) ++
        counted requestBytes queue ++ (if queue = [] then [] else runBytes run) ++
        optional (fun w => keyBytes w.1 ++ settingBytes w.2) waiting ++ optional lastFitBytes last
  | .depth record columnLines halfPoints points overset =>
      fitRecordBytes record ++ twoBytes columnLines ++ twoBytes halfPoints ++ twoBytes points ++
        twoBytes overset
  | .planned pairs => counted (fun p => oneByte p.1 ++ oneByte p.2) pairs
  | .position n => oneByte n
  | .pageTable plans outstanding requests waits sendOrder transfer =>
      plans.flatMap slotBytes ++ plans.flatMap slotPlacementBytes ++
        (if plans.any (fun o => o.any fun p => decide (p.state = .fitting)) then
           counted oneByte outstanding ++ counted oneByte requests ++ flagByte waits
         else []) ++
        counted oneByte sendOrder ++ transferBytes transfer
  | .clockSet kind applied time current =>
      oneByte kind.code ++ oneByte applied ++ threeBytes time ++ currentBytes current
  | .clockStatus time isSet dayStart dayTime clockSource own editions current ignored markQueued =>
      threeBytes time ++ flagByte isSet ++ twoBytes dayStart ++ threeBytes dayTime ++
        oneByte clockSource ++ flagByte own ++ counted editionStatusBytes editions ++
        currentBytes current ++ twoBytes ignored ++ flagByte markQueued
  | .screenStatus screens rowSlot flashHold windows lanes build flash flashQueued lastFlash =>
      oneByte screens ++ oneByte rowSlot ++ oneByte flashHold ++ counted windowBytes windows ++
        counted (fun l => twoBytes l.rows ++ twoBytes l.keeps) lanes ++ optional buildBytes build ++
        optional flashBytes flash ++ flagByte flashQueued ++ optional flashOutcomeBytes lastFlash
  | .settled record => recordBytes record
  | .tended st missed => oneByte st.code ++ oneByte missed
  | .report notices st missed left =>
      noticeBytes notices ++ oneByte st.code ++ oneByte missed ++ optional twoBytes left
  | .status st station valid record notices attention lamp missed left line current offers planned =>
      oneByte st.code ++ oneByte station ++ flagByte valid ++ optional recordBytes record ++
        noticeBytes notices ++ flagByte attention ++ oneByte lamp.code ++ oneByte missed ++
        optional twoBytes left ++ oneByte line.code ++
        optional (fun x => oneByte x.1 ++ oneByte x.2.code) (current.bind id) ++ oneByte offers ++
        oneByte planned

/-- The field named, with the index of a placement or an edition; 0 for none. -/
def fieldBytes : Option (FieldName × Nat) → List Byte
  | none => twoBytes 0
  | some (f, i) => Config.fieldCode (fieldNumber f) :: oneByte i

/-- A response message, whole. -/
def Response.bytes (r : Response) : List Byte :=
  [r.name, BitVec.ofNat 8 (resultCode r.result)] ++ fieldBytes r.field ++
    twoBytes (dataBytes r.data).length ++ dataBytes r.data

/-- The message NONE. -/
def noneBytes : List Byte := List.replicate 6 0#8

/-- What the part shifts out when the host clocks `clocked` message bytes: the message, then fill bytes
of 0x00 (R182, R203). -/
def shiftedOut (message : List Byte) (clocked : Nat) : List Byte :=
  (message ++ List.replicate (clocked - message.length) 0#8).take clocked

end Sys2Proof.Machine
end

