-- ==== Sys2Proof/Machine/DeskCommands.lean ====
section
/-!
DEFINITION. The desk unit's commands SETTLE, TEND, REPORT, STATUS and RESTART (R186 to R195), the
transfers of the desk link (R181 to R183), the tend timer (R189), the lamp phase (R196) and power-on
reset (R197).
-/

namespace Sys2Proof.Machine

/-! ## Transfers (R181 to R183) -/

/-- RESPONSE_TRANSFER (R182): the ready response is sent from its first byte and has gone when it was
read whole; else NONE is sent. -/
def State.responseTransfer (clocked : Nat) (s : State) : State :=
  match s.desk.response with
  | none => s.onDesk fun d => { d with sent := shiftedOut noneBytes clocked }
  | some r =>
      if r.bytes.length ≤ clocked then
        s.onDesk fun d =>
          { d with sent := shiftedOut r.bytes clocked, response := none, command := none, ready := true }
      else s.onDesk fun d => { d with sent := shiftedOut r.bytes clocked }

/-- DISCARDED_COMMAND_TRANSFER (R183): READY at the beginning of the transfer decides, so the row has its
effect whatever READY is at the end. -/
def State.discarded (s : State) : State := s.discardTransfer

/-- UNREADABLE_COMMAND (R181). The reply's name byte is the command's where its name can be read, else a
free value (log entry 7). -/
def State.unreadableCommand (name : Option CommandName) (s : State) : State :=
  match name with
  | some c => s.unreadable (nameByte c)
  | none =>
      if s.desk.ready then s.useFree.unreadable (Config.unreadName s.freeReads) else s.discardTransfer

/-! ## SETTLE (R186, R187) -/

/-- The windows of the enabled lanes become blank with every row DIRTY (R160). -/
def Window.settled : Window := { Window.blank with dirty := List.replicate 21 true }

/-- The enabled lanes start. -/
def State.startLanes (s : State) : State :=
  let n := s.screenCount
  s.onScreen fun c =>
    { c with windows := List.replicate n Window.settled ++ c.windows.drop n, timer := true }

/-- SETTLE carried out. -/
def State.settleDesk (record : StartRecord) (s : State) : State :=
  let s := s.onDesk fun d =>
    Desk.refresh { d with record := some record, tendTimer := some firstWindow }
  let s := s.startLanes.enterJoining
  let s := s.onClock fun c => { c with editions := record.editions.map fun _ => .opened }
  let s := s.tellCurrent s.current
  ((s.enterDesk .onLine).settleRows).done (.settled record)

/-- SETTLE carried out or refused. -/
def State.settleCommand (r : StartSpec) (s : State) : State :=
  match settleFault s.desk.station r with
  | some f => s.refuseField .badField f
  | none => s.settleDesk (clampRecord r)

/-! ## TEND (R188, R189) -/

/-- The tend window of the start record. -/
def State.tendWindow (s : State) : Nat := (s.desk.record.map (·.tendWindow)).getD 0

/-- TEND carried out or refused. -/
def State.tend (byte : Byte) (s : State) : State :=
  if evenParity byte then
    let before := s.desk.missed
    let s := s.onDesk fun d => { d with tendTimer := some s.tendWindow, missed := 0 }
    let s := if s.desk.state = .unattended then (s.enterDesk .onLine).settleRows else s
    s.done (.tended s.desk.state before)
  else (s.raise .tendBad).refuseField .badField (.tendByte, 0)

/-- TEND_TIMER_EXPIRY, while the timer runs (R189). -/
def State.tendExpired (s : State) : State :=
  if s.desk.tendTimer.isSome then
    let s := s.onDesk fun d =>
      { d with tendTimer := some s.tendWindow, missed := bump 255 d.missed }
    if s.desk.state = .onLine then ((s.enterDesk .unattended).raise .tendMissed).settleRows else s
  else s

/-! ## REPORT, STATUS (R192, R194) -/

/-- The time left on the tend timer, or none while it is stopped (log entry 6). -/
def State.tendLeft (s : State) : Option Nat := s.desk.tendTimer.map fun w => timeLeft w s.freeReads

/-- A response that carries the time left uses one free value when the timer runs. -/
def State.usedTendLeft (s : State) : State := if s.desk.tendTimer.isSome then s.useFree else s

/-- REPORT carried out. -/
def State.report (s : State) : State :=
  ((s.usedTendLeft).onDesk fun d => Desk.refresh { d with notices := 0#18 }).done
    (.report s.desk.notices s.desk.state s.desk.missed s.tendLeft)

/-- The number of PLANNED plans of the current edition, as told. -/
def LampInputs.plannedNow (i : LampInputs) : Nat :=
  match i.current with
  | some (some (n, _)) => i.plannedOf n
  | _ => 0

/-- STATUS answered. -/
def State.statusReply (s : State) : State :=
  let d := s.desk
  (s.usedTendLeft).done
    (.status d.state d.station (within 1 30 d.station) d.record d.notices d.attention d.lamp d.missed
      s.tendLeft d.inputs.line d.inputs.current d.inputs.offers d.inputs.plannedNow)

/-! ## RESTART (R195) -/

/-- The desk unit's part. -/
def State.restartDesk (s : State) : State :=
  s.onDesk fun d =>
    Desk.refresh { d with notices := 0#18, missed := 0, state := .onLine, tendTimer := some firstWindow }

/-- The fit engine's part: a record already sent to the store is applied or discarded there (R118). -/
def State.restartFit (s : State) : State :=
  let s :=
    match s.fit.run, s.fit.queue with
    | some (.storing record _ widthsSince textSince), q :: _ =>
        (s.storeRecord q.key record widthsSince textSince).1
    | _, _ => s
  s.onFit fun e => { e with queue := [], run := none, waiting := none, last := none }

/-- A story record after RESTART (R24). -/
def Story.restarted (r : Story) : Story :=
  { r with custody := if r.custody = .outbound then .held else r.custody, lock := none,
           receivedFrom := none }

/-- The copy store's part (R24). -/
def Store.restart (st : Store) : Store :=
  { Store.release 1 (Store.release 0 st) with
      stories := st.stories.map Story.restarted, substitutions := 0 }

/-- The line section's part (R47, R65). R47 clears the dominant run measure at a power-on reset only, and
JOINING keeps it (R41). -/
def State.restartLine (s : State) : State :=
  let s := s.onTraffic fun _ => Traffic.reset
  let s := s.onLine fun l =>
    { l with recorded := none, receiving := false, slot := .neither }
  s.enterJoining

/-- An outbound entry after RESTART, with the next end order (R95). -/
def Pass.restarted (endOrder : Nat) (p : Pass) : Pass :=
  { p with phase := .ended, outcome := some .abandoned, endOrder := endOrder, timer := false,
           reading := none, ready := none }

/-- The outbound entries, the passes under way ended in ascending entry number. -/
def restartOutbound (next : Nat) : List (Option Pass) → List (Option Pass) × Nat
  | [] => ([], next)
  | none :: rest =>
      let x := restartOutbound next rest
      (none :: x.1, x.2)
  | some p :: rest =>
      if p.underWay then
        let x := restartOutbound (next + 1) rest
        (some (p.restarted next) :: x.1, x.2)
      else
        let x := restartOutbound next rest
        (some p :: x.1, x.2)

/-- The pass engine's part (R95). -/
def PassEngine.restart (e : PassEngine) : PassEngine :=
  let x := restartOutbound e.nextEnd e.outbound
  { outbound := x.1, inbound := [none, none], offers := [], nextEnd := x.2, nextPass := e.nextPass }

/-- A plan after RESTART (R140). -/
def Plan.restarted (p : Plan) : Plan :=
  if p.state.underWay then
    { p with state := .planned,
             placements := p.placements.map fun q => { q with stale := 0, result := none } }
  else p

/-- The page engine's part, with its tellings to the desk unit. -/
def State.restartPage (s : State) : State :=
  let returned := s.page.plans.filterMap fun o => o.filter fun p => p.state.underWay
  let s := s.onPage fun e =>
    { PageEngine.reset with plans := e.plans.map (Option.map Plan.restarted) }
  returned.foldl (fun s p => s.planEnters p.edition) s

/-- A window after RESTART (R179). -/
def Window.restarted (held : Bool) (w : Window) : Window :=
  { w with mode := if held then w.mode else .read, dirty := List.replicate 21 true,
           staging := .empty, lineMap := none, waiting := false }

/-- The screen unit's part: `held` tells whether a story was HELD at the RESTART. -/
def State.restartScreen (held : Key → Bool) (s : State) : State :=
  let n := s.screenCount
  s.onScreen fun c =>
    { c with
        windows :=
          ((c.windows.take n).map fun w => w.restarted (w.key.any held)) ++ c.windows.drop n,
        lanes := c.lanes.map fun l => { l with rows := 0, keeps := 0 }, build := none,
        lastServed := 7, lastFlash := none,
        status := { line := s.line.state, offers := 0, desk := .onLine,
                    current := some s.current } }

/-- The blocks' parts. The parts touch different state (R195). -/
def State.restartBlocks (s : State) : State :=
  let held (k : Key) : Bool := (s.story k).any Story.isHeld
  let s := s.restartFit
  let s := (s.onStore Store.restart).onPort Port.restart
  let s := s.restartLine
  let s := (s.onPass PassEngine.restart).tellOffers
  let s := s.restartPage
  let s := s.onClock fun c => { c with nextMark := none }
  (s.tellStatus fun x => { x with desk := .onLine }).restartScreen held

/-- RESTART carried out: its response is ready at once, or at the completion of the store access that
was in progress. -/
def State.restart (s : State) : State :=
  let s := s.restartDesk.restartBlocks
  let s := if s.port.busy.isSome then s.onDesk fun d => { d with op := .restarting }
    else s.done .nothing
  s.settleRows

/-! ## The lamp (R196) -/

/-- LAMP_PHASE_TOGGLE of a pattern that flashes. -/
def State.togglePhase (s : State) : State :=
  if s.desk.lamp = .fast ∨ s.desk.lamp = .slow then s.onDesk fun d => { d with lit := !d.lit } else s

/-! ## The meanings -/

/-- POWER_ON_RESET (R197). The queue of waiting rows and the count of free values are the model's own
and stay. -/
def execPowerOnReset (straps : Nat) (s : State) : Host.Outcome State Fault Refusal :=
  .next { State.afterReset straps with freeReads := s.freeReads, pending := s.pending }

def execResponseTransfer (clocked : Nat) (s : State) : Host.Outcome State Fault Refusal :=
  .next (s.responseTransfer clocked)

def execDiscardedCommandTransfer (s : State) : Host.Outcome State Fault Refusal := .next s.discarded

def execUnreadableCommand (name : Option CommandName) (s : State) :
    Host.Outcome State Fault Refusal :=
  .next (s.unreadableCommand name)

def execSettle (record : StartSpec) (s : State) : Host.Outcome State Fault Refusal :=
  .next (s.command .settle (State.settleCommand record))

def execTend (byte : Byte) (s : State) : Host.Outcome State Fault Refusal :=
  .next (s.command .tend (State.tend byte))

def execReport (s : State) : Host.Outcome State Fault Refusal := .next (s.command .report State.report)

def execStatus (s : State) : Host.Outcome State Fault Refusal :=
  .next (s.command .status State.statusReply)

def execRestart (s : State) : Host.Outcome State Fault Refusal :=
  .next (s.command .restart State.restart)

def execTendTimerExpiry (s : State) : Host.Outcome State Fault Refusal := .next s.tendExpired

def execLampPhaseToggle (s : State) : Host.Outcome State Fault Refusal := .next s.togglePhase

end Sys2Proof.Machine
end

