-- ==== Sys2Proof/Machine/Dispatch.lean ====
section
/-!
DEFINITION. One arm for each row of spec/opcode_table.json, in the table's order.
-/

namespace Sys2Proof.Machine

def exec (i : Instr) (s : State) : Host.Outcome State Fault Refusal :=
  match i with
  | .powerOnReset straps => Sys2Proof.Machine.execPowerOnReset straps s
  | .responseTransfer clocked => Sys2Proof.Machine.execResponseTransfer clocked s
  | .discardedCommandTransfer => Sys2Proof.Machine.execDiscardedCommandTransfer s
  | .unreadableCommand name => Sys2Proof.Machine.execUnreadableCommand name s
  | .openStory slug edition => Sys2Proof.Machine.execOpenStory slug edition s
  | .place key start stop text => Sys2Proof.Machine.execPlace key start stop text s
  | .readText key offset count => Sys2Proof.Machine.execReadText key offset count s
  | .dropStory key => Sys2Proof.Machine.execDropStory key s
  | .storyState key => Sys2Proof.Machine.execStoryState key s
  | .resolve key keep => Sys2Proof.Machine.execResolve key keep s
  | .lineRetry => Sys2Proof.Machine.execLineRetry s
  | .lineCounts => Sys2Proof.Machine.execLineCounts s
  | .pass key dest keepCarbon => Sys2Proof.Machine.execPass key dest keepCarbon s
  | .cancelPass key => Sys2Proof.Machine.execCancelPass key s
  | .answerOffer key take => Sys2Proof.Machine.execAnswerOffer key take s
  | .passTable => Sys2Proof.Machine.execPassTable s
  | .fit key setting => Sys2Proof.Machine.execFit key setting s
  | .fitStatus face => Sys2Proof.Machine.execFitStatus face s
  | .fitDepth key columns budget => Sys2Proof.Machine.execFitDepth key columns budget s
  | .planPage slot page edition sendOverset placements => Sys2Proof.Machine.execPlanPage slot page edition sendOverset placements s
  | .clearPlan slot => Sys2Proof.Machine.execClearPlan slot s
  | .sendPage slot => Sys2Proof.Machine.execSendPage slot s
  | .cancelPage slot => Sys2Proof.Machine.execCancelPage slot s
  | .pageTable => Sys2Proof.Machine.execPageTable s
  | .setClock time => Sys2Proof.Machine.execSetClock time s
  | .clockStatus => Sys2Proof.Machine.execClockStatus s
  | .view screen key edit top => Sys2Proof.Machine.execView screen key edit top s
  | .scroll screen top => Sys2Proof.Machine.execScroll screen top s
  | .cursor screen offset => Sys2Proof.Machine.execCursor screen offset s
  | .sendFlash text dest => Sys2Proof.Machine.execSendFlash text dest s
  | .screenStatus => Sys2Proof.Machine.execScreenStatus s
  | .settle record => Sys2Proof.Machine.execSettle record s
  | .tend byte => Sys2Proof.Machine.execTend byte s
  | .report => Sys2Proof.Machine.execReport s
  | .status => Sys2Proof.Machine.execStatus s
  | .restart => Sys2Proof.Machine.execRestart s
  | .rewriteAccessCompletion upsets => Sys2Proof.Machine.execRewriteAccessCompletion upsets s
  | .readTextAccessCompletion upsets => Sys2Proof.Machine.execReadTextAccessCompletion upsets s
  | .slipWriteCompletion => Sys2Proof.Machine.execSlipWriteCompletion s
  | .offerCheckReadCompletion upsets => Sys2Proof.Machine.execOfferCheckReadCompletion upsets s
  | .slipReadCompletion upsets => Sys2Proof.Machine.execSlipReadCompletion upsets s
  | .pageReadCompletion upsets => Sys2Proof.Machine.execPageReadCompletion upsets s
  | .fitReadCompletion upsets => Sys2Proof.Machine.execFitReadCompletion upsets s
  | .storeFitRecord => Sys2Proof.Machine.execStoreFitRecord s
  | .lineWalkReadCompletion upsets => Sys2Proof.Machine.execLineWalkReadCompletion upsets s
  | .renderReadCompletion upsets => Sys2Proof.Machine.execRenderReadCompletion upsets s
  | .startMarkBegin quiet => Sys2Proof.Machine.execStartMarkBegin quiet s
  | .arbitrationLost bit => Sys2Proof.Machine.execArbitrationLost bit s
  | .bitError bit => Sys2Proof.Machine.execBitError bit s
  | .driveFault => Sys2Proof.Machine.execDriveFault s
  | .slotEnd taken refused => Sys2Proof.Machine.execSlotEnd taken refused s
  | .frameEnd body => Sys2Proof.Machine.execFrameEnd body s
  | .frameAbandoned cause => Sys2Proof.Machine.execFrameAbandoned cause s
  | .stuckLine dominant => Sys2Proof.Machine.execStuckLine dominant s
  | .stuckRelease recessive => Sys2Proof.Machine.execStuckRelease recessive s
  | .joinComplete recessive => Sys2Proof.Machine.execJoinComplete recessive s
  | .flashDispatch => Sys2Proof.Machine.execFlashDispatch s
  | .timeMarkDispatch => Sys2Proof.Machine.execTimeMarkDispatch s
  | .offerDispatch => Sys2Proof.Machine.execOfferDispatch s
  | .takeDispatch => Sys2Proof.Machine.execTakeDispatch s
  | .declineDispatch => Sys2Proof.Machine.execDeclineDispatch s
  | .withdrawDispatch => Sys2Proof.Machine.execWithdrawDispatch s
  | .widthsDispatch => Sys2Proof.Machine.execWidthsDispatch s
  | .slipDispatch => Sys2Proof.Machine.execSlipDispatch s
  | .answerTimerExpiry entry => Sys2Proof.Machine.execAnswerTimerExpiry entry s
  | .offerQueueTimerExpiry key => Sys2Proof.Machine.execOfferQueueTimerExpiry key s
  | .gapTimerExpiry entry => Sys2Proof.Machine.execGapTimerExpiry entry s
  | .secondEvent => Sys2Proof.Machine.execSecondEvent s
  | .rowSlot => Sys2Proof.Machine.execRowSlot s
  | .holdTimerExpiry => Sys2Proof.Machine.execHoldTimerExpiry s
  | .tendTimerExpiry => Sys2Proof.Machine.execTendTimerExpiry s
  | .lampPhaseToggle => Sys2Proof.Machine.execLampPhaseToggle s
  | .startMarkRecognised dominant lead => Sys2Proof.Machine.execStartMarkRecognised dominant lead s
  | .dominantLevelNotStartMark dominant => Sys2Proof.Machine.execDominantLevelNotStartMark dominant s

end Sys2Proof.Machine
end

