-- ==== Sys2Proof/Machine/Step.lean ====
section
/-!
DEFINITION. One step: the row at the front of the queue is carried out on the state with the queue's
rest. On an empty queue the part idles (DESIGN CHOICE, log entry 2).
-/

namespace Sys2Proof.Machine

/-- One step of the machine. -/
def step (s : State) : Host.Outcome State Fault Refusal :=
  match s.pending with
  | [] => .next s
  | i :: rest => exec i { s with pending := rest }

/-- The command that a word of the table spells, put at the front of the queue. The table gives no row
any bits, so no word spells a command and the state is as it was (log entry 23). -/
def State.withFetchWord (s : State) (nbits w : Nat) : State :=
  match decodeTableWord nbits w with
  | some i => { s with pending := i :: s.pending }
  | none => s

end Sys2Proof.Machine
end

