-- ==== Sys2Proof/Machine/Messages.lean ====
section
/-!
DEFINITION. Command messages (R203): the bytes a host writes for a command, the reading of a message
(R181), and the row that a whole transfer is (R180 to R183). Rows enter the queue already read; these
functions say which bytes they stand for.
-/

namespace Sys2Proof.Machine

/-- The command of a code (R203). -/
def commandOf : Nat → Option CommandName
  | 0x01 => some .openStory | 0x02 => some .place | 0x03 => some .readText | 0x04 => some .dropStory
  | 0x05 => some .storyState | 0x06 => some .resolve | 0x07 => some .lineRetry
  | 0x08 => some .lineCounts | 0x09 => some .pass | 0x0A => some .cancelPass
  | 0x0B => some .answerOffer | 0x0C => some .passTable | 0x0D => some .fit | 0x0E => some .fitStatus
  | 0x0F => some .fitDepth | 0x10 => some .planPage | 0x11 => some .clearPlan | 0x12 => some .sendPage
  | 0x13 => some .cancelPage | 0x14 => some .pageTable | 0x15 => some .setClock
  | 0x16 => some .clockStatus | 0x17 => some .view | 0x18 => some .scroll | 0x19 => some .cursor
  | 0x1A => some .sendFlash | 0x1B => some .screenStatus | 0x1C => some .settle | 0x1D => some .tend
  | 0x1E => some .report | 0x1F => some .status | 0x20 => some .restart
  | _ => none

/-! ## Writing (R203) -/

/-- A choice of two, the first listed as 0. -/
def choiceByte (first : Bool) : List Byte := oneByte (if first then 0 else 1)

/-- A slug field: twelve bytes. -/
def slugField (slug : List Byte) : List Byte := slugBytes slug

def placementSpecBytes (p : PlacementSpec) : List Byte :=
  keyBytes p.key ++ oneByte p.columns ++ settingBytes p.setting ++ twoBytes p.budget

/-- The attention mask, three bytes. -/
def maskBytes (m : BitVec 24) : List Byte := threeBytes m.toNat

/-- The start record in the order of section 9.4. -/
def startBytes (r : StartSpec) : List Byte :=
  oneByte r.rate ++ counted oneByte r.roles ++ oneByte r.retry ++ oneByte r.typesetRole ++
    oneByte r.policy ++ twoBytes r.answerTime ++ twoBytes r.gapTime ++ oneByte r.clockSource ++
    twoBytes r.dayStart ++ oneByte r.editionCount ++ counted editionBytes r.editions ++
    oneByte r.screenCount ++ oneByte r.rowSlot ++ oneByte r.flashHold ++ twoBytes r.tendWindow ++
    maskBytes r.mask

/-- The name and the fields of a row that is a host command. -/
def commandFields : Instr → Option (CommandName × List Byte)
  | .openStory slug edition => some (.openStory, slugField slug ++ oneByte edition)
  | .place k start stop text =>
      some (.place, keyBytes k ++ twoBytes start ++ twoBytes stop ++ textField text)
  | .readText k offset count => some (.readText, keyBytes k ++ twoBytes offset ++ twoBytes count)
  | .dropStory k => some (.dropStory, keyBytes k)
  | .storyState k => some (.storyState, optional keyBytes k)
  | .resolve k keep => some (.resolve, keyBytes k ++ choiceByte keep)
  | .lineRetry => some (.lineRetry, [])
  | .lineCounts => some (.lineCounts, [])
  | .pass k dest keepCarbon => some (.pass, keyBytes k ++ addressBytes dest ++ flagByte keepCarbon)
  | .cancelPass k => some (.cancelPass, keyBytes k)
  | .answerOffer k take => some (.answerOffer, keyBytes k ++ choiceByte take)
  | .passTable => some (.passTable, [])
  | .fit k t => some (.fit, keyBytes k ++ settingBytes t)
  | .fitStatus face => some (.fitStatus, optional oneByte face)
  | .fitDepth k columns budget => some (.fitDepth, keyBytes k ++ oneByte columns ++ twoBytes budget)
  | .planPage slot page edition sendOverset placements =>
      some (.planPage,
        oneByte slot ++ oneByte page ++ oneByte edition ++ flagByte sendOverset ++
          counted placementSpecBytes placements)
  | .clearPlan slot => some (.clearPlan, oneByte slot)
  | .sendPage slot => some (.sendPage, oneByte slot)
  | .cancelPage slot => some (.cancelPage, oneByte slot)
  | .pageTable => some (.pageTable, [])
  | .setClock time => some (.setClock, threeBytes time)
  | .clockStatus => some (.clockStatus, [])
  | .view screen k edit top =>
      some (.view, oneByte screen ++ optional keyBytes k ++ flagByte edit ++ twoBytes top)
  | .scroll screen top => some (.scroll, oneByte screen ++ twoBytes top)
  | .cursor screen offset => some (.cursor, oneByte screen ++ optional twoBytes offset)
  | .sendFlash text dest => some (.sendFlash, textField text ++ addressBytes dest)
  | .screenStatus => some (.screenStatus, [])
  | .settle record => some (.settle, startBytes record)
  | .tend byte => some (.tend, [byte])
  | .report => some (.report, [])
  | .status => some (.status, [])
  | .restart => some (.restart, [])
  | .powerOnReset _ | .responseTransfer _ | .discardedCommandTransfer | .unreadableCommand _
  | .rewriteAccessCompletion _ | .readTextAccessCompletion _ | .slipWriteCompletion
  | .offerCheckReadCompletion _ | .slipReadCompletion _ | .pageReadCompletion _
  | .fitReadCompletion _ | .storeFitRecord | .lineWalkReadCompletion _ | .renderReadCompletion _
  | .startMarkBegin _ | .arbitrationLost _ | .bitError _ | .driveFault | .slotEnd _ _ | .frameEnd _
  | .frameAbandoned _ | .stuckLine _ | .stuckRelease _ | .joinComplete _ | .flashDispatch
  | .timeMarkDispatch | .offerDispatch | .takeDispatch | .declineDispatch | .withdrawDispatch
  | .widthsDispatch | .slipDispatch | .answerTimerExpiry _ | .offerQueueTimerExpiry _
  | .gapTimerExpiry _ | .secondEvent | .rowSlot | .holdTimerExpiry | .tendTimerExpiry
  | .lampPhaseToggle | .startMarkRecognised _ _ | .dominantLevelNotStartMark _ => none

/-- A command message: kind 0x43, name, field length, fields. -/
def message (name : CommandName) (fields : List Byte) : List Byte :=
  0x43#8 :: nameByte name :: (twoBytes fields.length ++ fields)

/-- The message of a row that is a host command. -/
def commandMessage (i : Instr) : Option (List Byte) := (commandFields i).map fun x => message x.1 x.2

/-! ## Reading (R181, R203) -/

/-- A field read from the front of the bytes, with the bytes that are left. -/
abbrev Reader (α : Type) := List Byte → Option (α × List Byte)

def readByte : Reader Byte
  | [] => none
  | a :: rest => some (a, rest)

def readOne : Reader Nat
  | [] => none
  | a :: rest => some (a.toNat, rest)

def readTwo : Reader Nat
  | a :: b :: rest => some (256 * a.toNat + b.toNat, rest)
  | _ => none

def readThree : Reader Nat
  | a :: b :: c :: rest => some (65536 * a.toNat + (256 * b.toNat + c.toNat), rest)
  | _ => none

def readKey : Reader Key
  | a :: b :: c :: rest =>
      some ({ origin := a.toNat % 32, serial := 256 * b.toNat + c.toNat }, rest)
  | _ => none

/-- A flag or a choice of two: 0 or 1; another byte cannot be read (log entry 14). -/
def readFlag : Reader Bool
  | [] => none
  | a :: rest => if a = 0#8 then some (false, rest) else if a = 1#8 then some (true, rest) else none

/-- `n` bytes. -/
def readBytes (n : Nat) : Reader (List Byte) := fun b =>
  if n ≤ b.length then some (b.take n, b.drop n) else none

def readSlug : Reader (List Byte) := fun b =>
  (readBytes 12 b).map fun x => (x.1.takeWhile (· ≠ 0#8), x.2)

def readText : Reader (List Byte) := fun b => (readTwo b).bind fun x => readBytes x.1 x.2

/-- A field that may be left out. -/
def readOptional {α : Type} (f : Reader α) : Reader (Option α) := fun b =>
  (readFlag b).bind fun x =>
    if x.1 then (f x.2).map fun y => (some y.1, y.2) else some (none, x.2)

/-- `n` members of a list. -/
def readMembers {α : Type} (f : Reader α) : Nat → Reader (List α)
  | 0 => fun b => some ([], b)
  | n + 1 => fun b =>
      (f b).bind fun x => (readMembers f n x.2).map fun y => (x.1 :: y.1, y.2)

/-- A list, after its one-byte count. -/
def readList {α : Type} (f : Reader α) : Reader (List α) := fun b =>
  (readOne b).bind fun x => readMembers f x.1 x.2

def readAddress : Reader Address := fun b => do
  let (role, b) ← readFlag b
  let (number, b) ← readOne b
  return ({ form := if role then .role else .station, number := number }, b)

def readSetting : Reader Setting := fun b => do
  let (face, b) ← readOne b
  let (measure, b) ← readTwo b
  let (size, b) ← readOne b
  let (lead, b) ← readOne b
  let (indent, b) ← readOne b
  return ({ face := face, measure := measure, size := size, lead := lead, indent := indent }, b)

def readPlacement : Reader PlacementSpec := fun b => do
  let (key, b) ← readKey b
  let (columns, b) ← readOne b
  let (setting, b) ← readSetting b
  let (budget, b) ← readTwo b
  return ({ key := key, columns := columns, setting := setting, budget := budget }, b)

def readEdition : Reader EditionSpec := fun b => do
  let (deadline, b) ← readTwo b
  let (lead, b) ← readOne b
  let (margin, b) ← readOne b
  return ({ deadline := deadline, lead := lead, margin := margin }, b)

def readStart : Reader StartSpec := fun b => do
  let (rate, b) ← readOne b
  let (roles, b) ← readList readOne b
  let (retry, b) ← readOne b
  let (typesetRole, b) ← readOne b
  let (policy, b) ← readOne b
  let (answerTime, b) ← readTwo b
  let (gapTime, b) ← readTwo b
  let (clockSource, b) ← readOne b
  let (dayStart, b) ← readTwo b
  let (editionCount, b) ← readOne b
  let (editions, b) ← readList readEdition b
  let (screenCount, b) ← readOne b
  let (rowSlot, b) ← readOne b
  let (flashHold, b) ← readOne b
  let (tendWindow, b) ← readTwo b
  let (mask, b) ← readThree b
  let record : StartSpec :=
    { rate := rate, roles := roles, retry := retry, typesetRole := typesetRole, policy := policy,
      answerTime := answerTime, gapTime := gapTime, clockSource := clockSource, dayStart := dayStart,
      editionCount := editionCount, editions := editions, screenCount := screenCount,
      rowSlot := rowSlot, flashHold := flashHold, tendWindow := tendWindow,
      mask := BitVec.ofNat 24 mask }
  return (record, b)

/-- The fields of a command read to a row, with the bytes left over. -/
def readFields (c : CommandName) : Reader Instr := fun b =>
  match c with
  | .openStory => do
      let (slug, b) ← readSlug b
      let (edition, b) ← readOne b
      return (.openStory slug edition, b)
  | .place => do
      let (k, b) ← readKey b
      let (start, b) ← readTwo b
      let (stop, b) ← readTwo b
      let (text, b) ← readText b
      return (.place k start stop text, b)
  | .readText => do
      let (k, b) ← readKey b
      let (offset, b) ← readTwo b
      let (count, b) ← readTwo b
      return (.readText k offset count, b)
  | .dropStory => (readKey b).map fun x => (.dropStory x.1, x.2)
  | .storyState => (readOptional readKey b).map fun x => (.storyState x.1, x.2)
  | .resolve => do
      let (k, b) ← readKey b
      let (drop, b) ← readFlag b
      return (.resolve k (!drop), b)
  | .lineRetry => some (.lineRetry, b)
  | .lineCounts => some (.lineCounts, b)
  | .pass => do
      let (k, b) ← readKey b
      let (dest, b) ← readAddress b
      let (keepCarbon, b) ← readFlag b
      return (.pass k dest keepCarbon, b)
  | .cancelPass => (readKey b).map fun x => (.cancelPass x.1, x.2)
  | .answerOffer => do
      let (k, b) ← readKey b
      let (decline, b) ← readFlag b
      return (.answerOffer k (!decline), b)
  | .passTable => some (.passTable, b)
  | .fit => do
      let (k, b) ← readKey b
      let (t, b) ← readSetting b
      return (.fit k t, b)
  | .fitStatus => (readOptional readOne b).map fun x => (.fitStatus x.1, x.2)
  | .fitDepth => do
      let (k, b) ← readKey b
      let (columns, b) ← readOne b
      let (budget, b) ← readTwo b
      return (.fitDepth k columns budget, b)
  | .planPage => do
      let (slot, b) ← readOne b
      let (page, b) ← readOne b
      let (edition, b) ← readOne b
      let (sendOverset, b) ← readFlag b
      let (placements, b) ← readList readPlacement b
      return (.planPage slot page edition sendOverset placements, b)
  | .clearPlan => (readOne b).map fun x => (.clearPlan x.1, x.2)
  | .sendPage => (readOne b).map fun x => (.sendPage x.1, x.2)
  | .cancelPage => (readOne b).map fun x => (.cancelPage x.1, x.2)
  | .pageTable => some (.pageTable, b)
  | .setClock => (readThree b).map fun x => (.setClock x.1, x.2)
  | .clockStatus => some (.clockStatus, b)
  | .view => do
      let (screen, b) ← readOne b
      let (k, b) ← readOptional readKey b
      let (edit, b) ← readFlag b
      let (top, b) ← readTwo b
      return (.view screen k edit top, b)
  | .scroll => do
      let (screen, b) ← readOne b
      let (top, b) ← readTwo b
      return (.scroll screen top, b)
  | .cursor => do
      let (screen, b) ← readOne b
      let (offset, b) ← readOptional readTwo b
      return (.cursor screen offset, b)
  | .sendFlash => do
      let (text, b) ← readText b
      let (dest, b) ← readAddress b
      return (.sendFlash text dest, b)
  | .screenStatus => some (.screenStatus, b)
  | .settle => (readStart b).map fun x => (.settle x.1, x.2)
  | .tend => (readByte b).map fun x => (.tend x.1, x.2)
  | .report => some (.report, b)
  | .status => some (.status, b)
  | .restart => some (.restart, b)

/-- The fields fill the field length exactly. -/
def readWhole (c : CommandName) (fields : List Byte) : Option Instr :=
  match readFields c fields with
  | some (i, []) => some i
  | _ => none

/-- A message read as a command, or none where it cannot be read (R181, R203). -/
def readMessage : List Byte → Option Instr
  | kind :: name :: hi :: lo :: fields =>
      let len := 256 * hi.toNat + lo.toNat
      if kind = 0x43#8 ∧ len ≤ fields.length then
        (commandOf name.toNat).bind fun c => readWhole c (fields.take len)
      else none
  | _ => none

/-- The command name of a message that cannot be read, where the name can. DESIGN CHOICE (log entry 7): after a
kind byte other than 0x43 no name is read, whatever the second byte. -/
def readName : List Byte → Option CommandName
  | kind :: name :: _ => if kind = 0x43#8 then commandOf name.toNat else none
  | _ => none

/-- The row that a transfer is, READY being as it was when the transfer began: a kind byte of 0x52 makes
it a response transfer, any other transfer is a command transfer (R180 to R183, R203). -/
def rowOfTransfer (ready : Bool) (bytes : List Byte) : Instr :=
  if bytes.head? = some 0x52#8 then .responseTransfer (bytes.length - 1)
  else if ready then
    match readMessage bytes with
    | some i => i
    | none => .unreadableCommand (readName bytes)
  else .discardedCommandTransfer

/-! ## The wires (R203) -/

/-- The bits of a transfer in SPI mode 0: the data line at each rising edge of the clock, which idles low.
A sample holds the clock and the data line; `before` is the clock before the first. -/
def risingBits (before : Bool) : List (Bool × Bool) → List Bool
  | [] => []
  | x :: rest => if x.1 && !before then x.2 :: risingBits x.1 rest else risingBits x.1 rest

/-- The bytes of a transfer, each shifted most significant bit first; bits that fill no byte are dropped
(log entry 14). -/
def linkBytes (bits : List Bool) : List Byte := bytesOfBits (bits.length / 8) bits

/-- The row that a transfer is, from the samples of its wires. -/
def rowOfWires (ready : Bool) (samples : List (Bool × Bool)) : Instr :=
  rowOfTransfer ready (linkBytes (risingBits false samples))

/-- The bits the part shifts out after the kind byte of a response transfer. -/
def sentBits (s : State) : List Bool := byteBits s.desk.sent

end Sys2Proof.Machine
end

