-- ==== Sys2Proof/Safety.lean ====
section
/-!
DEFINITION. What holds of the part at every moment: the invariants that claims are stated in.
-/

namespace Sys2Proof.Machine

/-- ATTENTION and the lamp are what R193 and R196 compute from the latched notices, the desk state and
what the blocks have told. -/
def State.signalsAgree (s : State) : Prop :=
  s.desk.attention = s.desk.attentionLevel ∧ s.desk.lamp = s.desk.lampPattern

/-- READY is high exactly while no command is in progress, and then no response is ready and no operation
of the desk link goes on; a ready response ends the operation (R180 to R182). -/
def State.linkAgrees (s : State) : Prop :=
  (s.desk.ready = true ↔ s.desk.command = none) ∧
  (s.desk.ready = true → s.desk.response = none ∧ s.desk.op = .idle) ∧
  (s.desk.response ≠ none → s.desk.op = .idle)

/-- A free store port leaves no request waiting (R11). -/
def State.portServes (s : State) : Prop := s.port.busy = none → s.port.noneWaits = true

/-- Each request waits in the place of the requester it belongs to (R11). -/
def State.portOwned (s : State) : Prop :=
  ∀ (q : Requester) (a : Access), s.port.waiting q = some a → a.purpose.requester = q

/-- The text RAM is in canonical form. -/
def State.memoryWf (s : State) : Prop := s.store.text.wf = true

/-- The start record stands exactly outside START (R185, R187). -/
def State.recordStands (s : State) : Prop := s.desk.state = .start ↔ s.desk.record = none

/-- The number of out queue entries that are ON LINE. -/
def Traffic.onLineCount (t : Traffic) : Nat := (t.queue.filter fun e => e.onLine).length

/-- The line section in START is DORMANT; one frame of the station is on the line at most, and only in
ACTIVE (R42, R43, R49). -/
def State.lineLegal (s : State) : Prop :=
  (s.desk.state = .start → s.line.state = .dormant) ∧
  s.traffic.onLineCount ≤ 1 ∧
  (s.traffic.sending = true → s.line.state = .active)

/-- The entries a pass entry's share or the page share holds. -/
def Traffic.held (o : Owner) (t : Traffic) : Nat := (t.queue.filter fun e => decide (e.owner = o)).length

/-- The entries the shared share holds. -/
def Traffic.heldShared (t : Traffic) : Nat := (t.queue.filter fun e => e.owner.shared).length

/-- No share of the out queue holds more entries than R50 gives it. -/
def State.sharesKept (s : State) : Prop :=
  s.traffic.heldShared ≤ 3 ∧ s.traffic.held .page ≤ 1 ∧
  ∀ n, s.traffic.held (.passEntry n) ≤ 1

/-- Every entry in the queue has attempts left: 1 + retry limit are made at most (R54). -/
def State.attemptsLeft (s : State) : Prop :=
  s.recordStands ∧ ∀ e ∈ s.traffic.queue, e.attempts ≤ s.retryLimit

/-- Four receive slots at most are full (R57). -/
def State.slotsLegal (s : State) : Prop := s.traffic.slots.length ≤ 4

/-- The pass tables have four outbound and two inbound entries, each free or in use (R66, R85). -/
def State.tablesWhole (s : State) : Prop := s.pass.outbound.length = 4 ∧ s.pass.inbound.length = 2

/-- The seven line counts, the substitution count, the ignored mark count and each lane's rows sent and
keeps sent stay in 16 bits, the missed count in 8 (R13, R62, R155, R161, R189). -/
def State.countsSaturate (s : State) : Prop :=
  s.traffic.counts.good ≤ 65535 ∧ s.traffic.counts.checkFailures ≤ 65535 ∧
  s.traffic.counts.unknownKinds ≤ 65535 ∧ s.traffic.counts.refusedFull ≤ 65535 ∧
  s.traffic.counts.sent ≤ 65535 ∧ s.traffic.counts.failed ≤ 65535 ∧
  s.traffic.counts.arbLosses ≤ 65535 ∧ s.store.substitutions ≤ 65535 ∧
  s.clock.ignored ≤ 65535 ∧ s.desk.missed ≤ 255 ∧
  ∀ l ∈ s.screen.lanes, l.rows ≤ 65535 ∧ l.keeps ≤ 65535

/-- While the clock is unset the time is 0, and it is a time of day at every moment (R141); the day start
is a minute of a day (R142), and every edition of the start record has its state (R143). -/
def State.clockLegal (s : State) : Prop :=
  s.clock.time < daySeconds ∧ (s.clock.isSet = false → s.clock.time = 0) ∧ s.dayStart < 1440 ∧
  s.clock.editions.length = s.editionTable.length

/-! ## What follows an event at once -/

/-- A story but for its page lock. -/
def Story.unlocked (r : Story) : Story := { r with lock := none }

/-- What a window shows that neither the row builder nor a staging changes. -/
def Window.shown (w : Window) : Option Key × Mode × Option Nat × Bool :=
  (w.key, w.mode, w.cursor, w.waiting)

/-- `t` is `s` after the rows that can be staged and the build that can begin have followed (R167): the
row tables, stagings, line maps and top lines of the windows, the row builder and its own requests may
differ, and nothing else. -/
structure RowsFollow (s t : State) : Prop where
  store : t.store = s.store
  line : t.line = s.line
  traffic : t.traffic = s.traffic
  pass : t.pass = s.pass
  fit : t.fit = s.fit
  page : t.page = s.page
  clock : t.clock = s.clock
  desk : t.desk = s.desk
  freeReads : t.freeReads = s.freeReads
  pending : t.pending = s.pending
  slipPort : t.port.slip = s.port.slip
  deskPort : t.port.desk = s.port.desk
  pagePort : t.port.page = s.port.page
  fitPort : t.port.fit = s.port.fit
  busy : ∀ a, s.port.busy = some a → t.port.busy = some a
  lanes : t.screen.lanes = s.screen.lanes
  timer : t.screen.timer = s.screen.timer
  flash : t.screen.flash = s.screen.flash
  lastFlash : t.screen.lastFlash = s.screen.lastFlash
  status : t.screen.status = s.screen.status
  windows : t.screen.windows.map Window.shown = s.screen.windows.map Window.shown

/-- `t` is `s` after all that follows an event at once at the fit queue, the page engine, the slip
writer's request and the rows (R11, R101 to R104, R124 to R130, R167): the fit queue, the page engine,
page frames as the youngest of the out queue, page locks, notices with the outputs they drive, the port
(the access in progress set aside at most) and the rows may differ, and nothing else. -/
structure SettleFollows (s t : State) : Prop where
  stories : t.store.stories.map Story.unlocked = s.store.stories.map Story.unlocked
  storeRest : t.store = { s.store with stories := t.store.stories }
  line : t.line = s.line
  pass : t.pass = s.pass
  clock : t.clock = s.clock
  slots : t.traffic.slots = s.traffic.slots
  counts : t.traffic.counts = s.traffic.counts
  queue : ∃ l, t.traffic.queue = s.traffic.queue ++ l ∧ ∀ e ∈ l, e.owner = .page
  faces : t.fit.faces = s.fit.faces
  editKey : t.fit.editKey = s.fit.editKey
  deskRest : t.desk =
    { s.desk with notices := t.desk.notices, attention := t.desk.attention, lamp := t.desk.lamp,
                  lit := t.desk.lit }
  notices : ∀ n, s.desk.latched n = true → t.desk.latched n = true
  busy : ∀ a, s.port.busy = some a → ∃ x, t.port.busy = some { a with aside := x }
  lanes : t.screen.lanes = s.screen.lanes
  timer : t.screen.timer = s.screen.timer
  flash : t.screen.flash = s.screen.flash
  lastFlash : t.screen.lastFlash = s.screen.lastFlash
  status : t.screen.status = s.screen.status
  windows : t.screen.windows.map Window.shown = s.screen.windows.map Window.shown
  freeReads : t.freeReads = s.freeReads
  pending : t.pending = s.pending

/-- A waiting request stays unless it is a read of the row builder, and none appears. -/
def othersWait (x y : Option Access) : Prop :=
  (∀ a, y = some a → x = some a) ∧
  ∀ a, x = some a → a.purpose ≠ .walkRead → a.purpose ≠ .renderRead → y = some a

/-- From `s` to `t` nothing changes but windows, the row builder and its requests, the flash notice and
the desk unit. -/
structure OnlyScreen (s t : State) : Prop where
  store : t.store = s.store
  line : t.line = s.line
  traffic : t.traffic = s.traffic
  pass : t.pass = s.pass
  fit : t.fit = s.fit
  page : t.page = s.page
  clock : t.clock = s.clock
  slipPort : othersWait s.port.slip t.port.slip
  deskPort : othersWait s.port.desk t.port.desk
  pagePort : othersWait s.port.page t.port.page
  fitPort : othersWait s.port.fit t.port.fit
  busy : ∀ a, s.port.busy = some a → ∃ x, t.port.busy = some { a with aside := x }
  lanes : t.screen.lanes = s.screen.lanes
  timer : t.screen.timer = s.screen.timer
  lastFlash : t.screen.lastFlash = s.screen.lastFlash
  status : t.screen.status = s.screen.status

/-- Row 0 of window `n` is DIRTY, or staged READY with what it shows now (R171, R172). -/
def State.statusFresh (n : Nat) (s : State) : Prop :=
  ∀ w, s.screen.windows[n]? = some w →
    w.dirty = [] ∨ w.dirty.head? = some true ∨ w.staging = .ready (s.statusRow w.mode)

/-- No window's key, mode, cursor or wait on an edit changes. -/
def sameWindows (s t : State) : Prop :=
  t.screen.windows.map Window.shown = s.screen.windows.map Window.shown

/-- Of the desk unit only notices and the outputs they drive differ. -/
def onlyNotices (s t : State) : Prop :=
  t.desk =
    { s.desk with notices := t.desk.notices, attention := t.desk.attention, lamp := t.desk.lamp,
                  lit := t.desk.lit }

/-! ## Words for claims about one row -/

/-- The part takes the next command transfer, and is settled: every command but SETTLE reaches its owner
(R180, R184). -/
def State.hearsHost (s : State) : Prop := s.desk.ready = true ∧ s.desk.state ≠ .start

/-- The state in which command `c` has been taken and answered, and nothing else has changed. -/
def State.replied (c : CommandName) (r : Result) (f : Option (FieldName × Nat)) (d : ResponseData)
    (s : State) : State :=
  { s with
      desk :=
        { s.desk with
            ready := false, command := some (nameByte c), op := .idle,
            response := some { name := nameByte c, result := r, field := f, data := d } } }

/-- Command `c` stands answered DONE with data `d`. -/
def answeredDone (c : CommandName) (d : ResponseData) (t : State) : Prop :=
  t.desk.ready = false ∧ t.desk.command = some (nameByte c) ∧
  t.desk.response = some { name := nameByte c, result := .done, field := none, data := d }

/-! ## Windows told of a story (R176) -/

/-- Rows 1..20 of window `v` are DIRTY, its line map is absent, no text row is staged READY, and its top
line is that of `w`. -/
def Window.textStale (w v : Window) : Prop :=
  v.lineMap = none ∧ v.top = w.top ∧ (∀ r, 1 ≤ r → r ≤ 20 → v.dirty[r]? = some true) ∧
  ∀ q, v.staging = .ready q → q.number = 0

/-- From `s` to `t` every window on story `k` shows what `f` makes of it, and every other what it showed;
where `stale` holds, the text rows of the windows on `k` are to be sent anew. -/
def windowsTold (k : Key) (f : Window → Window) (stale : Prop) (s t : State) : Prop :=
  ∀ (n : Nat) (w : Window), n < 8 → s.screen.windows[n]? = some w →
    ∃ v : Window, t.screen.windows[n]? = some v ∧
      v.shown = (if w.key = some k then f w else w).shown ∧
      (w.key = some k → stale → w.dirty.length = 21 → w.textStale v)

/-- The in-edit notification for `k` has reached the windows. -/
def toldInEdit (k : Key) (s t : State) : Prop :=
  windowsTold k (fun w => { w with waiting := true }) True s t

/-- The text-changed notification for `k` has reached the windows: the story has `length` characters, and a
walk of an empty one ends at once. -/
def toldTextChanged (k : Key) (length : Nat) (s t : State) : Prop :=
  windowsTold k (fun w => { w with waiting := false, cursor := w.cursor.map (min length) })
    (0 < length) s t

/-- The edit-barred notification for `k` has reached the windows: an EDIT window on it is in READ, with row
0 staged anew on an enabled one and its text rows to be sent again; its line map stays. -/
def toldEditBarred (k : Key) (s t : State) : Prop :=
  windowsTold k (fun w => { w with mode := .read }) False s t ∧
  ∀ (n : Nat) (w : Window), n < 8 → n < s.screenCount → s.screen.windows[n]? = some w →
    w.key = some k → w.mode = .edit → w.dirty.length = 21 →
    t.screen.windows[n]? =
      some
        { w with
            mode := .read, dirty := false :: List.replicate 20 true,
            staging := .ready (t.statusRow .read) }

/-! ## The slip writer (R11, R61) -/

/-- The write of the SLIP in the oldest full slot, handed on, into block i of its entry's reservation. -/
def State.slipWriteAsked (s : State) (a : Access) : Prop :=
  ∃ (x : RxSlot) (rest : List RxSlot) (r : InboundRef) (b : Inbound),
    s.traffic.slots = x :: rest ∧ x.handed = true ∧ x.inbound = some r ∧
    s.pass.inbound[r.entry]? = some (some b) ∧ b.pass = r.pass ∧
    a =
      { purpose := .slipWrite r.entry r.pass (twoAt x.payload 3) (x.payload.drop 5),
        block := (s.store.reservation r.entry).getD (twoAt x.payload 3) 0, first := 0,
        count := x.payload.length - 5, aside := false } ∧
    ∀ c, s.port.busy = some c → c.purpose ≠ a.purpose

/-- The read outbound entry `n` makes next, for its story check or for its slip in hand. -/
def State.outboundReadAsked (s : State) (n : Nat) (a : Access) : Prop :=
  ∃ (p : Pass) (q : Story) (i : Nat),
    s.pass.outbound[n]? = some (some p) ∧ p.reading = some i ∧ s.story p.key = some q ∧
    a =
      { purpose := if p.phase = .offering then .checkRead n else .slipRead n,
        block := q.chain.getD i 0, first := 0, count := min 32 (q.length - 32 * i),
        aside := false } ∧
    ∀ c, s.port.busy = some c → c.purpose = a.purpose → c.aside = true

/-- `t` is `s` after the slip writer has made its request, when none of its own waits: the port differs,
and nothing else. -/
structure SlipFollows (s t : State) : Prop where
  rest : t = { s with port := t.port }
  deskPort : t.port.desk = s.port.desk
  pagePort : t.port.page = s.port.page
  fitPort : t.port.fit = s.port.fit
  rowPort : t.port.row = s.port.row
  busy : ∀ a, s.port.busy = some a → t.port.busy = some a
  nothing : s.port.slip ≠ none ∨ s.slipWriterWants = none → t.port = s.port
  waits : ∀ a, s.port.slip = none → s.slipWriterWants = some a →
    s.port.busy ≠ none ∨ s.port.noneWaits = false → t.port = { s.port with slip := some a }
  granted : ∀ a, s.slipWriterWants = some a → s.port.busy = none → s.port.noneWaits = true →
    t.port.busy = some a

/-- What the slip writer wants in `s` is on the port or waits in `t`, unless a request of its own waited. -/
def slipAsked (s t : State) : Prop :=
  ∀ a, s.port.slip = none → s.slipWriterWants = some a → t.port.busy = some a ∨ t.port.slip = some a

/-! ## Passes -/

/-- Entry `n` holds pass `p` of story `k`, OFFERING or SENDING, and no lower entry does (R66). -/
def State.passes (k : Key) (n : Nat) (p : Pass) (s : State) : Prop :=
  s.pass.outbound[n]? = some (some p) ∧ p.key = k ∧ p.phase ≠ .ended ∧
  ∀ (m : Nat) (q : Pass), m < n → s.pass.outbound[m]? = some (some q) → q.key = k → q.phase = .ended

/-- The stories, those of key `k` changed. -/
def Store.with (k : Key) (f : Story → Story) (st : Store) : List Story :=
  st.stories.map fun r => if r.key = k then f r else r

/-- A new entry of the out queue: WAITING, no attempt made. -/
def newEntry (o : Owner) (f : OutFrame) : OutEntry :=
  { frame := f, owner := o, onLine := false, attempts := 0, losses := 0, refusals := 0,
    lastCause := none, withdrawing := false }

/-- The out queue after the answer sender, the flash sender or the clock has offered a frame: it goes in
while they hold fewer than three (R50). -/
def Traffic.shared (o : Owner) (f : OutFrame) (t : Traffic) : List OutEntry :=
  if t.heldShared < 3 then t.queue ++ [newEntry o f] else t.queue

/-- `t` is `s`, whose out queue the withdrawn entry `e` has just left, after its owner has been told: a frame
that waited for the room goes in (a frame of the pass, the PAGE DROP, the TIME MARK of a later time), and what
follows at once has followed (R55, R68, R74, R134, R156). -/
structure WithdrawnGone (e : OutEntry) (s t : State) : Prop where
  plain :
    (∀ n p, e.owner = .passEntry n → s.pass.outbound[n]? = some (some p) → p.ready = none) →
    (e.owner = .page → s.page.dropReady = none) → (e.owner = .clock → s.clock.nextMark = none) →
    SettleFollows s t
  pass : ∀ n p f, e.owner = .passEntry n → s.pass.outbound[n]? = some (some p) →
    p.ready = some f → s.traffic.held (.passEntry n) = 0 →
    SettleFollows
      { s with
          pass :=
            { s.pass with
                outbound := s.pass.outbound.set n
                  (some
                    { p with
                        reading := none, ready := none,
                        offered := p.offered || decide (f.kind = .offer) }) },
          traffic := { s.traffic with queue := s.traffic.queue ++ [newEntry (.passEntry n) f] } } t
  page : ∀ f, e.owner = .page → s.page.dropReady = some f → s.traffic.held .page = 0 →
    SettleFollows
      { s with
          page := { s.page with dropReady := none },
          traffic := { s.traffic with queue := s.traffic.queue ++ [newEntry .page f] } } t
  clock : ∀ m, e.owner = .clock → s.clock.nextMark = some m → s.traffic.heldShared < 3 →
    SettleFollows
      { s with
          clock := { s.clock with nextMark := none },
          traffic :=
            { s.traffic with
                queue := s.traffic.queue ++
                  [newEntry .clock
                    { kind := .timeMark, dest := { form := .role, number := 15 },
                      payload := threeBytes m }] } } t

/-- From `s` to `t` pass `p` of entry `n` has ended with outcome `o`, and its story is HELD again (R78):
the entry, the end order, the custody, the notice, its frame withdrawn, its reads withdrawn or set aside. -/
structure PassEnded (n : Nat) (p : Pass) (o : PassOutcome) (s t : State) : Prop where
  pass : t.pass =
    { s.pass with
        outbound := s.pass.outbound.set n
          (some
            { p with
                phase := .ended, outcome := some o, endOrder := s.pass.nextEnd, timer := false,
                reading := none, ready := none }),
        nextEnd := s.pass.nextEnd + 1 }
  stories : t.store.stories.map Story.unlocked =
    (s.store.with p.key fun r => { r with custody := .held }).map Story.unlocked
  storeRest : t.store = { s.store with stories := t.store.stories }
  notice : t.desk.latched .passEnded = true
  withdrawn : ∀ e ∈ t.traffic.queue, e.owner = .passEntry n → e.withdrawing = true
  others : ∀ e ∈ s.traffic.queue, e.owner ≠ .passEntry n → e ∈ t.traffic.queue
  busy : ∀ a, t.port.busy = some a → (a.purpose = .checkRead n ∨ a.purpose = .slipRead n) →
    a.aside = true
  slip : ∀ a, t.port.slip = some a → a.purpose ≠ .checkRead n ∧ a.purpose ≠ .slipRead n
  line : t.line = s.line
  clock : t.clock = s.clock

/-- From `s` to `t` inbound entry `n`, which holds pass `b` with `blocks` reserved, has been committed (R8,
R90, R149): a record of the key goes with its chain, the new record is HELD with the blocks its length needs
and an edition that is open, the blocks left over go back, the entry is free, and INBOUND DONE stands. -/
structure Committed (n : Nat) (b : Inbound) (blocks : List Nat) (s t : State) : Prop where
  stories : t.store.stories.map Story.unlocked =
    (s.store.stories.filter fun r => r.key ≠ b.offer.key).map Story.unlocked ++
      [{ key := b.offer.key,
         slug := b.offer.slug.map fun c =>
           if 0x20 ≤ c.toNat ∧ c.toNat ≤ 0x7E then c else 0x3F#8,
         edition :=
           match currentOf s.clock.editions with
           | some (e, _) =>
               if (1 ≤ b.offer.edition ∧
                    s.clock.editions[b.offer.edition - 1]? = some .closed) ∨
                  s.clock.editions.length < b.offer.edition then e
               else b.offer.edition
           | none => b.offer.edition,
         custody := .held, length := b.offer.length,
         chain := blocks.take ((b.offer.length + 31) / 32), damaged := false, lock := none,
         fit := none, receivedFrom := some { station := b.sender, slips := b.offer.slipTotal },
         inEdit := false }]
  storeRest :
    let old := ((s.story b.offer.key).map (·.chain)).getD []
    let left := blocks.drop ((b.offer.length + 31) / 32)
    t.store =
      { s.store with
          stories := t.store.stories, reservations := s.store.reservations.set n none,
          pool := left.reverse ++ (old ++ s.store.pool),
          marks := (s.store.marks.filter (· ∉ old)).filter (· ∉ left),
          substitutions := min 65535 (s.store.substitutions +
            b.offer.slug.countP fun c => !decide (0x20 ≤ c.toNat ∧ c.toNat ≤ 0x7E)) }
  pass : t.pass = { s.pass with inbound := s.pass.inbound.set n none }
  notice : t.desk.latched .inboundDone = true
  notices : ∀ m : Notice, s.desk.latched m = true → t.desk.latched m = true
  desk : onlyNotices s t
  slots : t.traffic.slots = s.traffic.slots
  counts : t.traffic.counts = s.traffic.counts
  line : t.line = s.line
  clock : t.clock = s.clock
  newWindows : s.story b.offer.key = none → sameWindows s t
  oldWindows : s.story b.offer.key ≠ none → toldTextChanged b.offer.key b.offer.length s t

/-! ## Pages (R112, R126 to R130) -/

/-- A placement with the result that the fit check sets from the record of its story (R112, R128). -/
def Placement.checked (f : FitRecord) (q : Placement) : Placement :=
  let columnLines := (f.lines + q.columns - 1) / q.columns
  let depth := (min 65535 (columnLines * (q.setting.size + q.setting.lead)) + 1) / 2
  { q with
      result := some
        { lines := f.lines, flags := f.flags, columnLines := columnLines, depth := depth,
          overset := depth - q.budget } }

/-- The placements of a plan, each with the result from its story's fit record. -/
def State.checked (l : List Placement) (s : State) : List Placement :=
  l.map fun q =>
    match (s.story q.key).bind (·.fit) with
    | some f => q.checked f
    | none => q

/-- The placements, in plan order, whose story has no fit record in exactly their setting. -/
def State.needing (l : List Placement) (s : State) : List Nat :=
  (List.range l.length).filter fun i =>
    (l[i]?).any fun q =>
      !(s.story q.key).any fun r => r.fit.any fun f => decide (f.setting = q.setting)

/-- Plan `p` of `slot`, the one plan of the send order, has met the fit check on the records that `s` holds,
with nothing left to fit, and `t` is what follows: it ends FAILED(DAMAGED), or OVERSET, or is SENDING with
its PAGE HEAD prepared (R128 to R131, R125). -/
structure PageDecided (slot : Nat) (p : Plan) (s t : State) : Prop where
  damaged : (∃ q ∈ p.placements, ∃ r, s.story q.key = some r ∧ r.damaged = true) →
    t.plan slot = some { p with state := .failed .damaged }
  overset : (∀ q ∈ p.placements, ∀ r, s.story q.key = some r → r.damaged = false) →
    p.sendOverset = false →
    (∃ q ∈ s.checked p.placements, ∃ f, q.result = some f ∧ 0 < f.overset) →
    t.plan slot = some { p with state := .overset, placements := s.checked p.placements }
  ended : t.plan slot = some { p with state := .failed .damaged } ∨
      t.plan slot = some { p with state := .overset, placements := s.checked p.placements } →
    t.page.sendOrder = [] ∧ t.desk.latched .pageFailed = true ∧
    t.page.transfer = s.page.transfer ∧ t.traffic = s.traffic ∧
    t.store.stories =
      s.store.stories.map fun r =>
        if r.key ∈ p.placements.map (·.key) then { r with lock := none } else r
  sends : (∀ q ∈ p.placements, ∀ r, s.story q.key = some r → r.damaged = false) →
    (p.sendOverset = true ∨
      ∀ q ∈ s.checked p.placements, ∀ f, q.result = some f → f.overset = 0) →
    let head : OutFrame :=
      { kind := .pageHead, dest := { form := .role, number := s.typesetRole },
        payload := oneByte p.page ++ oneByte p.edition ++ oneByte p.placements.length }
    let drop := s.page.transfer.drop
    t.plan slot = some { p with state := .sending, placements := s.checked p.placements } ∧
    t.page.sendOrder = [slot] ∧
    (drop = none →
      t.page.transfer = { Transfer.clear with plan := some slot, frame := .queued } ∧
      (s.traffic.held .page = 0 →
        t.traffic = { s.traffic with queue := s.traffic.queue ++ [newEntry .page head] })) ∧
    (drop ≠ none →
      t.page.transfer =
        { Transfer.clear with plan := some slot, frame := .preparing, drop := drop } ∧
      t.page.ready = some head ∧ t.traffic = s.traffic)

/-- The walk of R126 over the placements `need` of plan `p`, begun with `queue` as the fit queue and no
identical request in it: they join in order while it has room, the next one is the waiting page request, and
the others stay in the request list. -/
structure PageWalked (slot : Nat) (p : Plan) (need : List Nat) (queue : List FitRequest) (t : State) :
    Prop where
  plan : t.plan slot = some { p with state := .fitting }
  order : t.page.sendOrder = [slot]
  outstanding : t.page.outstanding = need.take (5 - queue.length)
  requests : t.page.requests = need.drop (5 - queue.length)
  joined : t.fit.queue =
    queue ++ ((need.filterMap fun i => p.placements[i]?).take (4 - queue.length)).map fun q =>
      { key := q.key, setting := q.setting, host := false, page := true }
  waits : t.fit.waiting =
    ((need.filterMap fun i => p.placements[i]?)[4 - queue.length]?).map fun q => (q.key, q.setting)
  runs : t.fit.run ≠ none

/-- Plan `p` of `slot`, the one plan of the send order, has ended FAILED(FIT UNSETTLED) (R127, R128). -/
def fitUnsettled (slot : Nat) (p : Plan) (t : State) : Prop :=
  (∃ l, t.plan slot = some { p with state := .failed .fitUnsettled, placements := l }) ∧
  t.page.sendOrder = [] ∧ t.page.requests = [] ∧ t.page.outstanding = [] ∧
  t.desk.latched .pageFailed = true

/-! ## The clock -/

/-- The edition states after the instant that marks time of day `t`, and the rollovers and transitions
applied so far (R142, R144): the rollover first, then each edition's DUE before its LATE before its
CLOSED, each only from a state before it. -/
def editionsAt (table : List EditionSpec) (dayStart t : Nat) (x : List EditionState × Nat) :
    List EditionState × Nat :=
  let p := (t + 86400 - 60 * dayStart) % 86400
  let from0 : List EditionState × Nat := if p = 0 then (x.1.map fun _ => .opened, x.2 + 1) else x
  let moves (e : EditionSpec) (st : EditionState) : EditionState × Nat :=
    [(EditionState.due, e.deadline - e.lead), (EditionState.late, e.deadline),
      (EditionState.closed, min (e.deadline + e.margin) 1439)].foldl
      (fun y m => if p = 60 * m.2 ∧ y.1.rank < m.1.rank then (m.1, y.2 + 1) else y) (st, 0)
  let l := List.zipWith moves table from0.1
  (l.map (·.1), from0.2 + (l.map (·.2)).sum)

/-- What a set to time `n` makes of the editions (R150 to R153): its kind, the states after it, and the
transitions applied, rollovers counted among them. A forward set passes every second after the time
up to `n`. -/
def State.setOutcome (n : Nat) (s : State) : SetKind × List EditionState × Nat :=
  let d := (n + 86400 - s.clock.time) % 86400
  if s.clock.isSet = false then
    let p := (n + 86400 - 60 * s.dayStart) % 86400
    let after := s.editionTable.map fun e =>
      if 60 * min (e.deadline + e.margin) 1439 ≤ p then EditionState.closed
      else if 60 * e.deadline ≤ p then .late
      else if 60 * (e.deadline - e.lead) ≤ p then .due
      else .opened
    (.first, after, ((s.clock.editions.zip after).filter fun x => x.1 ≠ x.2).length)
  else if d = 0 then (.noChange, s.clock.editions, 0)
  else if d ≤ 43199 then
    let x := (List.range d).foldl
      (fun x i => editionsAt s.editionTable s.dayStart ((s.clock.time + 1 + i) % 86400) x)
      (s.clock.editions, 0)
    (.forward, x.1, x.2)
  else (.backward, s.clock.editions, 0)

/-- The screen unit and the desk unit hold the current edition and its state (R145). -/
def State.toldCurrent (s : State) : Prop :=
  s.screen.status.current = some (currentOf s.clock.editions) ∧
  s.desk.inputs.current = some (currentOf s.clock.editions)

/-- A story but for its page lock and its edition. -/
def Story.undated (r : Story) : Story := { r with lock := none, edition := 0 }

/-- Edition `e` is not CLOSED in `s` and is CLOSED in `t`. -/
def closesBetween (s t : State) (e : Nat) : Prop :=
  1 ≤ e ∧ s.clock.editions[e - 1]? ≠ some .closed ∧ t.clock.editions[e - 1]? = some .closed

/-- Plan `p` of `slot` is under way. -/
def PlanUnderWay (slot : Nat) (p : Plan) (s : State) : Prop :=
  slot < 4 ∧ s.plan slot = some p ∧ (p.state = .queued ∨ p.state = .fitting ∨ p.state = .sending)

/-- From `s` to `t` the editions for which `closing` holds have closed, with one roll-forward, after which the
editions stand as `after`: their plans under way are DROPPED and their stories unlocked and rolled forward, and a
story locked by a plan of another edition keeps its edition (R137, R148). -/
structure LocksAtClose (closing : Nat → Prop) (after : List EditionState) (s t : State) : Prop where
  dropped : ∀ (slot : Nat) (p : Plan), PlanUnderWay slot p s → closing p.edition →
    t.plan slot = some { p with state := .dropped } ∧ slot ∉ t.page.sendOrder ∧
    t.desk.latched .pageDropped = true ∧
    ∀ (k : Key) (r : Story), k ∈ p.placements.map (·.key) → s.story k = some r →
      t.story k =
        some
          { r with
              lock := none,
              edition :=
                match currentOf after with
                | some (e, _) =>
                    if 1 ≤ r.edition ∧ after[r.edition - 1]? = some .closed then e else r.edition
                | none => r.edition }
  kept : ∀ (slot : Nat) (p : Plan) (k : Key) (r : Story), PlanUnderWay slot p s → ¬closing p.edition →
    k ∈ p.placements.map (·.key) → s.story k = some r → r.lock = some slot →
    (∀ m q, PlanUnderWay m q s → k ∈ q.placements.map (·.key) → m = slot) →
    ∃ l, t.story k = some { r with lock := l }

/-- From `s` to `t` the time has moved, and what R147 and R148 give the blocks has happened: plans that
are PLANNED for an edition that closes are DROPPED, editions and page locks of stories may change,
fits, page frames, TIME MARKs, notices and rows may differ, and nothing else. -/
structure ClockMoved (s t : State) : Prop where
  stories : t.store.stories.map Story.undated = s.store.stories.map Story.undated
  storeRest : t.store = { s.store with stories := t.store.stories }
  line : t.line = s.line
  pass : t.pass = s.pass
  counts : t.traffic.counts = s.traffic.counts
  queue :
    (t.traffic.queue.filter fun e => decide (e.owner ≠ .page ∧ e.owner ≠ .clock)) =
      s.traffic.queue.filter fun e => decide (e.owner ≠ .page ∧ e.owner ≠ .clock)
  faces : t.fit.faces = s.fit.faces
  editKey : t.fit.editKey = s.fit.editKey
  busy : ∀ a, s.port.busy = some a → ∃ x, t.port.busy = some { a with aside := x }
  desk : t.desk.station = s.desk.station ∧ t.desk.state = s.desk.state ∧
    t.desk.record = s.desk.record ∧ t.desk.tendTimer = s.desk.tendTimer ∧
    t.desk.missed = s.desk.missed ∧ t.desk.sent = s.desk.sent
  notices : ∀ n, s.desk.latched n = true → t.desk.latched n = true
  flash : t.screen.flash = s.screen.flash
  lanes : t.screen.lanes = s.screen.lanes
  windows : t.screen.windows.map Window.shown = s.screen.windows.map Window.shown
  told : s.toldCurrent → t.toldCurrent
  dropped : ∀ (slot : Nat) (p : Plan), slot < 4 → s.plan slot = some p → p.state = .planned →
    closesBetween s t p.edition →
    t.plan slot = some { p with state := .dropped } ∧ t.desk.latched .pageDropped = true

/-! ## Lines of a text -/

/-- The line-filling procedure after `codes`, the first of them at offset `o`: where it stands, and the lines
it has closed, in order (R107 to R110, R113). -/
def feedFrom (m : Measure) (o : Nat) (codes : List Byte) : Breaker × List ClosedLine :=
  (codes.zipIdx o).foldl
    (fun x c =>
      let y := x.1.feed m c.1 c.2
      (y.breaker, x.2 ++ y.lines)) (Breaker.start, [])

/-- The lines a text makes, in order. -/
def breakText (m : Measure) (codes : List Byte) : List ClosedLine :=
  let x := feedFrom m 0 codes
  x.2 ++ x.1.finish codes.length

/-- The starts of the screen lines that a text has begun, that of the open line among them once it holds a
character (R114). -/
def lineStarts (codes : List Byte) : List Nat :=
  let x := feedFrom screenMeasure 0 codes
  x.2.map (·.start) ++
    match x.1.line with
    | some l => (l.items.head?.map (·.offset)).toList
    | none => []

/-- The line walk of lane `n` for row `r`, from top line `top` on, when it has read `codes`, which are whole
blocks (R168). -/
def walkAt (n r top : Nat) (codes : List Byte) : Build :=
  let x := feedFrom screenMeasure 0 codes
  { lane := n, row := r,
    phase := .walk (codes.length / 32) x.1 x.2.length ((x.2.getLast?.map (·.start)).getD 0)
      ((x.2.map (·.start)).drop top) }

/-- The render of row `r` of lane `n`, whose line starts at `start`, before it reads block `block`, when it
has placed `codes` (R169). -/
def renderAt (n r start block : Nat) (codes : List Byte) : Build :=
  { lane := n, row := r, phase := .render start block (feedFrom screenMeasure start codes).1 }

end Sys2Proof.Machine
end

