-- ==== Sys2Proof/Certificates/Slice0/Obligations.lean ====
section
/-!
DEFINITION. The statements for the provers: what the rules of spec/ say the part does, about the model's
own step, rows and operations. Each docstring cites the rule it formalises or says that it is the
model's choice and names the log entry.
-/

open Sys2Proof Sys2Proof.Machine

/-- One step takes the front row with the rest of the queue (95: each row is whole and indivisible). That
an empty queue idles is the model's choice (log entry 2). -/
def Obligations.StepRunsFront : Prop :=
  (∀ (i : Instr) (rest : List Instr) (s : State), s.pending = i :: rest →
    step s = exec i { s with pending := rest }) ∧
  ∀ s : State, s.pending = [] → step s = .next s

/-- R23, R47, R64, R94, R117, R139, R158, R178, R197, with R162 for a blank window: what a power-on reset leaves,
from every state. That the waiting rows stay is the model's, whose own they are (log entry 23), and so is a lane's last
message, kept as an output (log entry 24). -/
def Obligations.PowerOnResetLeaves : Prop :=
  ∀ (straps : Nat) (s : State), ∃ t : State,
    exec (.powerOnReset straps) s = .next t ∧ t.pending = s.pending ∧
    (t.store.stories = [] ∧ t.store.reserved = 0 ∧ t.store.pool.length = 2048 ∧
      (∀ b, b < 2048 → t.store.pool[b]? = some b) ∧ t.store.marks = [] ∧ t.store.serial = 1 ∧
      t.store.substitutions = 0 ∧ t.port.busy = none ∧ t.port.noneWaits = true ∧
      t.desk.op = .idle) ∧
    (t.pass.outbound = [none, none, none, none] ∧ t.pass.inbound = [none, none] ∧
      t.pass.offers = [] ∧ t.traffic.queue = [] ∧ t.desk.record = none) ∧
    (t.fit.faces = List.replicate 4 { part0 := none, part1 := none, part2 := none } ∧
      t.fit.queue = [] ∧ t.fit.run = none ∧ t.fit.waiting = none ∧ t.fit.editKey = none ∧
      t.fit.last = none) ∧
    (t.page.plans = [none, none, none, none] ∧ t.page.sendOrder = [] ∧ t.page.requests = [] ∧
      t.page.outstanding = [] ∧ t.page.transfer.plan = none ∧ t.page.transfer.drop = none) ∧
    (t.line =
        { state := .dormant, recorded := none, quiet := 0, join := 0, recessive := 0,
          dominantRun := 0, receiving := false, slot := .neither } ∧
      t.traffic.slots = [] ∧
      t.traffic.counts =
        { good := 0, checkFailures := 0, unknownKinds := 0, refusedFull := 0, sent := 0,
          failed := 0, arbLosses := 0 }) ∧
    (t.clock.time = 0 ∧ t.clock.isSet = false ∧ t.clock.editions = [] ∧ t.clock.ignored = 0 ∧
      t.clock.nextMark = none) ∧
    (t.screen.timer = false ∧ t.screen.windows.length = 8 ∧ t.screen.lanes.length = 8 ∧
      (∀ w ∈ t.screen.windows,
        w =
          { key := none, mode := .read, top := 0, cursor := none,
            dirty := List.replicate 21 false, staging := .empty, lineMap := none,
            waiting := false }) ∧
      (∀ l ∈ t.screen.lanes, l.rows = 0 ∧ l.keeps = 0 ∧ l.last = none) ∧
      t.screen.build = none ∧ t.screen.lastServed = 7 ∧ t.screen.flash = none ∧
      t.screen.lastFlash = none ∧
      t.screen.status = { line := .dormant, offers := 0, desk := .start, current := none }) ∧
    (t.desk.state = .start ∧ t.desk.station = straps ∧ t.desk.command = none ∧
      t.desk.response = none ∧ t.desk.ready = true ∧ (∀ n : Notice, t.desk.latched n = false) ∧
      t.desk.attention = true ∧ t.desk.tendTimer = none ∧ t.desk.missed = 0 ∧
      t.desk.inputs =
        { line := .dormant, offers := 0, current := none, planned := List.replicate 8 0 } ∧
      t.desk.lamp = .off)

/-- Each invariant that every step keeps holds right after reset. -/
def Obligations.ResetLegal : Prop :=
  ∀ straps : Nat,
    let s := State.afterReset straps
    s.signalsAgree ∧ s.linkAgrees ∧ s.portServes ∧ s.portOwned ∧ s.memoryWf ∧ s.recordStands ∧
    s.lineLegal ∧
    s.sharesKept ∧ s.attemptsLeft ∧ s.slotsLegal ∧ s.countsSaturate ∧ s.tablesWhole ∧ s.clockLegal

/-- R203: decode of encode, over all thirty-two commands. -/
def Obligations.MessageRoundTrip : Prop :=
  ∀ (i : Instr) (c : CommandName) (f : List Byte), i.wellFormed = true →
    commandFields i = some (c, f) → readMessage (message c f) = some i

/-- R29, R31, R198: decode of encode for the body of a frame; R25 to R28, R30, R33 and R40 for its levels, in
64ths of T with the next lead looked for from T/2 on (log entry 11). -/
def Obligations.FrameRoundTrip : Prop :=
  (∀ f : Frame, f.cls < 4 → f.source < 32 → f.kind < 16 → f.dest.number < 32 →
    f.payload.length ≤ 40 →
    readBody (bodyBits f) = some (f, true) ∧
    ∀ (start : Nat) (receivers : List SlotDrive), 1 ≤ start →
      let last := start + 192 + 64 * (38 + 8 * f.payload.length)
      let wire : Wire := fun t =>
        frameWire start (bodyBits f) t ||
          receivers.any fun d => slotWire d (some (last + 64)) (some (last + 128)) t
      wire.seen.receive start = some (.bits (bodyBits f) last) ∧
      wire.seen.readSlots last = some (receivers.contains .taken, receivers.contains .refused)) ∧
  (∀ (w : Wire) (t : Nat),
    (w.seen (t + 1) ≠ w.seen t →
      ∀ i, i < 8 → w (t + 1 + i) = w.seen (t + 1) ∧ w.seen (t + 1 + i) = w.seen (t + 1)) ∧
    ∀ level, (∀ i, i < 8 → w (t + 1 + i) = level) → w.seen (t + 1) = level) ∧
  (∀ (a b : List Bool) (start timer : Nat), 1 ≤ start → start ≤ timer → a.length = b.length →
    let first := sendBits start (a.map fun x => (x, none))
    let second := sendBits timer (b.zipIdx.map fun x => (x.1, some (start + 64 * x.2)))
    ((bitsWire first).join (bitsWire second)).seen.readBits a.length start =
      .bits (List.zipWith (· && ·) a b) (start + 64 * (a.length - 1))) ∧
  (∀ (w : Wire) (n lead : Nat),
    let long := ∃ f, lead ≤ f ∧ f ≤ lead + 32 ∧ ∀ i, i ≤ 64 → w (f + i) = true
    (long → w.readBits (n + 2) lead = .abandoned .longDominant) ∧
    (¬long → (∀ i, 32 ≤ i → i < 128 → ¬(w (lead + i) = false ∧ w (lead + i + 1) = true)) →
      w.readBits (n + 2) lead = .abandoned .missingLead)) ∧
  ∀ (s : State) (start : Nat) (taken refused : Option Nat),
    (∀ other : Wire,
      s.faultFound start taken refused ((s.drives start taken refused).join other) = none) ∧
    ((∃ e ∈ s.traffic.queue, e.onLine = true) →
      s.faultFound start taken refused (fun _ => false) = some (start + 8)) ∧
    ∀ lead, (∀ e ∈ s.traffic.queue, e.onLine = false) →
      (s.line.slot = .taken ∧ taken = some lead) ∨
        (s.line.slot = .refused ∧ taken ≠ none ∧ refused = some lead) →
      s.faultFound start taken refused (fun _ => false) = some (lead + 32)

/-- R31: the check finds every single wrong bit of a body of the right length. -/
def Obligations.OneBitWrongFails : Prop :=
  ∀ (f : Frame) (j : Nat), f.cls < 4 → f.source < 32 → f.kind < 16 → f.dest.number < 32 →
    f.payload.length ≤ 40 → j < 39 + 8 * f.payload.length → (j < 17 ∨ 23 ≤ j) →
    ∃ g : Frame, readBody ((bodyBits f).modify j not) = some (g, false)

/-- R193, R196. -/
def Obligations.SignalsAgree : Prop :=
  ∀ s t : State, s.signalsAgree → step s = .next t → t.signalsAgree

/-- R180 to R182. -/
def Obligations.LinkAgrees : Prop :=
  ∀ s t : State, s.linkAgrees → step s = .next t → t.linkAgrees

/-- R11. -/
def Obligations.PortServes : Prop :=
  ∀ s t : State, step s = .next t →
    (s.portServes → t.portServes) ∧ (s.portOwned → t.portOwned)

/-- The canonical form of the text RAM; a blank cell is the model's choice (log entry 4). -/
def Obligations.MemoryKeepsForm : Prop :=
  ∀ s t : State, s.memoryWf → step s = .next t → t.memoryWf

/-- R42, R43, R49. -/
def Obligations.LineLegal : Prop :=
  ∀ s t : State, s.lineLegal → step s = .next t → t.lineLegal

/-- R54, with R185 and R187 for the start record. -/
def Obligations.AttemptsLeft : Prop :=
  ∀ s t : State, s.attemptsLeft → step s = .next t → t.attemptsLeft

/-- R50; R13, R57, R62, R155, R161, R189; R66 and R85 for the entries of the pass tables. -/
def Obligations.TrafficLegal : Prop :=
  ∀ s t : State, step s = .next t →
    (s.sharesKept → t.sharesKept) ∧
    (s.slotsLegal → s.countsSaturate → t.slotsLegal ∧ t.countsSaturate) ∧
    (s.tablesWhole → t.tablesWhole)

/-- R141 to R143. -/
def Obligations.ClockLegal : Prop :=
  ∀ s t : State, s.clockLegal → step s = .next t → t.clockLegal

/-- Section 4.7 of 00_scope.md and section 1.9: a command refused changes nothing. -/
def Obligations.RefusedChangesNothing : Prop :=
  ∀ (i : Instr) (c : CommandName) (f : List Byte) (s t : State) (r : Response),
    commandFields i = some (c, f) → c ≠ .answerOffer → c ≠ .tend →
    s.desk.ready = true → s.desk.response = none →
    exec i s = .next t → t.desk.response = some r → r.result ≠ .done →
    t = s.replied c r.result r.field r.data

/-- The queue is the model's own (95: a row is whole); only step takes from it. -/
def Obligations.QueueUntouched : Prop :=
  ∀ (i : Instr) (s t : State), exec i s = .next t → t.pending = s.pending

/-- R183. -/
def Obligations.TransferWhileBusyDiscarded : Prop :=
  (∀ bytes : List Byte, bytes.head? ≠ some 0x52#8 →
    rowOfTransfer false bytes = .discardedCommandTransfer) ∧
  ∀ (i : Instr) (s : State),
    (i = .discardedCommandTransfer ∨
      (s.desk.ready = false ∧
        ((∃ n, i = .unreadableCommand n) ∨ (commandFields i).isSome = true))) →
    ∃ t : State, exec i s = .next t ∧ t.desk.latched .linkOverrun = true ∧
      (∀ n : Notice, n ≠ .linkOverrun → t.desk.latched n = s.desk.latched n) ∧
      t = { s with
              desk :=
                { s.desk with
                    notices := t.desk.notices, attention := t.desk.attentionLevel,
                    lamp := t.desk.lampPattern, lit := t.desk.lit } }

/-- R184, R181 and the wires of R203. The name byte of the reply to a transfer without a readable name is a
free value (log entry 7). That bits which fill no byte are dropped is the model's reading (log entry 14). -/
def Obligations.CommandsScreened : Prop :=
  (∀ (ready : Bool) (bytes : List Byte) (tail : List Bool), tail.length < 8 →
    let bits := (bytes.flatMap fun b => (List.range 8).map fun i => b.getLsbD (7 - i)) ++ tail
    rowOfWires ready (bits.flatMap fun b => [(false, b), (true, b)]) =
      rowOfTransfer ready bytes) ∧
  (∀ (i : Instr) (c : CommandName) (f : List Byte) (s : State),
    i.wellFormed = true → commandFields i = some (c, f) → s.desk.ready = true →
    ((s.desk.state = .start ∧ c ≠ .settle ∧ c ≠ .report ∧ c ≠ .status) ∨
      (s.desk.state ≠ .start ∧ c = .settle)) →
    exec i s = .next (s.replied c .wrongState none .nothing)) ∧
  (∀ bytes : List Byte, bytes.head? ≠ some 0x52#8 → readMessage bytes = none →
    rowOfTransfer true bytes = .unreadableCommand (readName bytes)) ∧
  ∀ s : State, s.desk.ready = true →
    (∀ c : CommandName,
      exec (.unreadableCommand (some c)) s = .next (s.replied c .badField none .nothing)) ∧
    ∃ b : Byte, exec (.unreadableCommand none) s =
      .next
        { s with
            freeReads := s.freeReads + 1,
            desk :=
              { s.desk with
                  ready := false, command := some b, op := .idle,
                  response :=
                    some { name := b, result := .badField, field := none, data := .nothing } } }

/-- R182. The bytes of the last transfer, kept in the state as an output, are the model's choice (log entry 24). -/
def Obligations.ResponseTransferred : Prop :=
  ∀ (n : Nat) (s : State),
    (s.desk.response = none →
      exec (.responseTransfer n) s =
        .next { s with desk := { s.desk with sent := List.replicate n 0#8 } }) ∧
    ∀ r : Response, s.desk.response = some r →
      (r.bytes.length ≤ n →
        exec (.responseTransfer n) s =
          .next
            { s with
                desk :=
                  { s.desk with
                      sent := r.bytes ++ List.replicate (n - r.bytes.length) 0#8,
                      response := none, command := none, ready := true } }) ∧
      (n < r.bytes.length →
        exec (.responseTransfer n) s =
          .next { s with desk := { s.desk with sent := r.bytes.take n } })

/-- R19, R63, R93, R115, R138, R157, and R203 for the bytes of a response. The numbering of fields is a free
value and the place of the index the model's reading (log entry 8), and so is the layout of the data (log
entry 9). -/
def Obligations.TablesReported : Prop :=
  (∀ r : Response,
    let code :=
      match r.result with
      | .done => 0x00
      | .wrongState => 0x01
      | .noStory => 0x02
      | .noRoom => 0x03
      | .full => 0x04
      | .busy => 0x05
      | .locked => 0x06
      | .damaged => 0x07
      | .badField => 0x08
      | .badText => 0x09
      | .tooLong => 0x0A
      | .closed => 0x0B
    let data := dataBytes r.data
    (r.field = none →
      r.bytes = [r.name, code, 0x00#8, 0x00#8] ++ twoBytes data.length ++ data) ∧
    ∀ (f : FieldName) (i : Nat), r.field = some (f, i) →
      r.bytes =
        [r.name, code, Config.fieldCode (fieldNumber f), BitVec.ofNat 8 i] ++
          twoBytes data.length ++ data) ∧
  (∀ f g : FieldName, fieldNumber f = fieldNumber g → f = g) ∧
  (dataBytes .nothing = [] ∧ (∀ k, dataBytes (.opened k) = keyBytes k) ∧
    (∀ n, dataBytes (.placed n) = twoBytes n) ∧
    (∀ c, dataBytes (.text c) = twoBytes c.length ++ c) ∧
    (∀ n, dataBytes (.passEntry n) = oneByte n) ∧
    (∀ b, dataBytes (.declineSent b) = [if b = true then 1#8 else 0#8]) ∧
    (∀ lead indent joined, dataBytes (.fitTaken lead indent joined) =
      oneByte lead ++ oneByte indent ++ [if joined = true then 1#8 else 0#8]) ∧
    (∀ f a b c d, dataBytes (.depth f a b c d) =
      fitRecordBytes f ++ twoBytes a ++ twoBytes b ++ twoBytes c ++ twoBytes d) ∧
    (∀ l, dataBytes (.planned l) =
      oneByte l.length ++ l.flatMap fun x => oneByte x.1 ++ oneByte x.2) ∧
    (∀ n, dataBytes (.position n) = oneByte n) ∧
    (∀ kind applied time c, dataBytes (.clockSet kind applied time c) =
      oneByte kind.code ++ oneByte applied ++ threeBytes time ++
        match c with
        | none => [0#8]
        | some (e, _) => 1#8 :: oneByte e) ∧
    (∀ st n, dataBytes (.tended st n) = oneByte st.code ++ oneByte n) ∧
    ∀ notices st n left, dataBytes (.report notices st n left) =
      threeBytes notices.toNat ++ oneByte st.code ++ oneByte n ++
        match left with
        | none => [0#8]
        | some x => 1#8 :: twoBytes x) ∧
  (∀ (r : Story) (x : StoreTotals), (∀ c, r.custody ≠ .doubt c) → r.lock = none → r.fit = none →
    r.receivedFrom = none →
    dataBytes (.storyState (some r) x) =
      keyBytes r.key ++ (r.slug ++ List.replicate 12 0#8).take 12 ++ oneByte r.edition ++
        oneByte r.custody.code ++ twoBytes r.length ++ twoBytes r.chain.length ++
        [if r.damaged = true then 1#8 else 0#8, 0#8, 0#8, 0#8,
          if r.inEdit = true then 1#8 else 0#8] ++
        oneByte x.records ++ oneByte x.reserved ++ oneByte x.freeEntries ++
        twoBytes x.freeBlocks ++ twoBytes x.substitutions) ∧
  (∀ (st : LineState) (n : Nat) (c : LineCounts) (queue : List OutEntry) (slots : List RxSlot),
    dataBytes (.lineCounts st n c queue slots) =
      oneByte st.code ++ oneByte n ++ twoBytes c.good ++ twoBytes c.checkFailures ++
        twoBytes c.unknownKinds ++ twoBytes c.refusedFull ++ twoBytes c.sent ++
        twoBytes c.failed ++ twoBytes c.arbLosses ++ oneByte queue.length ++
        queue.flatMap entryBytes ++ oneByte slots.length ++
        slots.flatMap fun x => oneByte x.kind.code ++ oneByte x.source) ∧
  (∀ (time : Nat) (isSet : Bool) (dayStart dayTime source : Nat) (own : Bool)
      (editions : List (EditionSpec × EditionState)) (c : Current) (ignored : Nat) (queued : Bool),
    dataBytes (.clockStatus time isSet dayStart dayTime source own editions c ignored queued) =
      threeBytes time ++ [if isSet = true then 1#8 else 0#8] ++ twoBytes dayStart ++
        threeBytes dayTime ++ oneByte source ++ [if own = true then 1#8 else 0#8] ++
        oneByte editions.length ++
        (editions.flatMap fun e =>
          let d := e.1.deadline
          twoBytes d ++ oneByte e.1.lead ++ oneByte e.1.margin ++ twoBytes (d - e.1.lead) ++
            twoBytes d ++ twoBytes (min (d + e.1.margin) 1439) ++ oneByte e.2.code) ++
        (match c with
          | none => [0#8]
          | some (n, _) => 1#8 :: oneByte n) ++
        twoBytes ignored ++ [if queued = true then 1#8 else 0#8]) ∧
  ∀ (s : State) (d : StartRecord), s.hearsHost → s.desk.record = some d →
    let totals : StoreTotals :=
      { records := s.store.stories.length, reserved := s.store.reserved,
        freeEntries := 64 - (s.store.stories.length + s.store.reserved),
        freeBlocks := s.store.pool.length, substitutions := s.store.substitutions }
    exec (.storyState none) s = .next (s.replied .storyState .done none (.storyState none totals)) ∧
    (∀ (k : Key) (r : Story), s.story k = some r →
      exec (.storyState (some k)) s =
        .next (s.replied .storyState .done none (.storyState (some r) totals))) ∧
    (∀ k : Key, s.story k = none →
      exec (.storyState (some k)) s = .next (s.replied .storyState .noStory none .nothing)) ∧
    exec .lineCounts s =
      .next (s.replied .lineCounts .done none
        (.lineCounts s.line.state d.retry s.traffic.counts s.traffic.queue s.traffic.slots)) ∧
    exec .passTable s =
      .next (s.replied .passTable .done none
        (.passTable s.pass.outbound s.pass.inbound s.pass.offers d.ask d.answerTime d.gapTime)) ∧
    (∀ face : Option Nat, (∀ f, face = some f → f ≤ 3) →
      exec (.fitStatus face) s =
        .next (s.replied .fitStatus .done none
          (.fitStatus s.fit.faces face s.fit.queue s.fit.run s.fit.waiting s.fit.last))) ∧
    (∀ f : Nat, 3 < f →
      exec (.fitStatus (some f)) s = .next (s.replied .fitStatus .badField none .nothing)) ∧
    exec .pageTable s =
      .next (s.replied .pageTable .done none
        (.pageTable s.page.plans s.page.outstanding s.page.requests s.fit.waiting.isSome
          s.page.sendOrder s.page.transfer)) ∧
    exec .clockStatus s =
      .next (s.replied .clockStatus .done none
        (.clockStatus s.clock.time s.clock.isSet d.dayStart
          ((s.clock.time + 86400 - 60 * d.dayStart) % 86400) d.clockSource
          (decide (d.clockSource = s.desk.station)) (d.editions.zip s.clock.editions) s.current
          s.clock.ignored (s.traffic.holdsKind .timeMark)))

/-- R14. The serial given is the subject of OpenSerialFree (R2). -/
def Obligations.OpenStoryOpens : Prop :=
  ∀ (slug : List Byte) (edition : Nat) (s : State) (d : StartRecord), s.hearsHost →
    s.desk.record = some d →
    let sound : Prop :=
      (1 ≤ slug.length ∧ slug.length ≤ 12 ∧ ∀ c ∈ slug, 0x20 ≤ c.toNat ∧ c.toNat ≤ 0x7E) ∧
      1 ≤ edition ∧ edition ≤ 8 ∧ edition ≤ d.editions.length
    let closed : Prop := s.clock.editions[edition - 1]? = some .closed
    let full : Prop := 64 ≤ s.store.stories.length + s.store.reserved
    let k : Key := { origin := s.desk.station, serial := s.openSerial }
    (¬sound → exec (.openStory slug edition) s =
      .next (s.replied .openStory .badField none .nothing)) ∧
    (sound → closed → exec (.openStory slug edition) s =
      .next (s.replied .openStory .closed none .nothing)) ∧
    (sound → ¬closed → full → exec (.openStory slug edition) s =
      .next (s.replied .openStory .full none .nothing)) ∧
    (sound → ¬closed → ¬full → exec (.openStory slug edition) s =
      .next
        { s.replied .openStory .done none (.opened k) with
            store :=
              { s.store with
                  stories := s.store.stories ++
                    [{ key := k, slug := slug, edition := edition, custody := .held, length := 0,
                       chain := [], damaged := false, lock := none, fit := none,
                       receivedFrom := none, inEdit := false }],
                  serial := if s.openSerial < 4095 then s.openSerial + 1 else 1 } })

/-- R2: the candidates are passed over while their keys are in use, and one is found within 65. -/
def Obligations.OpenSerialFree : Prop :=
  ∀ s : State, 1 ≤ s.store.serial → s.store.serial ≤ 4095 →
    s.store.stories.length + (s.pass.inbound.filter Option.isSome).length ≤ 64 →
    let inUse (n : Nat) : Prop :=
      (∃ r ∈ s.store.stories, r.key = { origin := s.desk.station, serial := n }) ∨
      ∃ b, some b ∈ s.pass.inbound ∧ b.offer.key = { origin := s.desk.station, serial := n }
    let candidate (n : Nat) : Nat := (s.store.serial - 1 + n) % 4095 + 1
    ∃ n, n ≤ 64 ∧ s.openSerial = candidate n ∧ ¬inUse s.openSerial ∧ ∀ m, m < n → inUse (candidate m)

/-- R15, the taking of R16, and the in-edit notification of R22 and R176. That a text over 32 characters is
a message that cannot be read is the model's reading (log entry 14), and that the desk link's request comes
after those of the fit engine and the row builder the model's choice (log entry 12), and so is the damaged
field, which a growth block that carries a mark leaves as it was (log entry 18). A PLACE with no block to read
or to write is in PlaceCompletes. -/
def Obligations.PlaceBegins : Prop :=
  ∀ (k : Key) (start stop : Nat) (text : List Byte) (s : State), s.hearsHost →
    let no (r : Result) : Prop :=
      exec (.place k start stop text) s = .next (s.replied .place r none .nothing)
    (32 < text.length → no .badField) ∧
    (text.length ≤ 32 → s.story k = none → no .noStory) ∧
    ∀ r : Story, text.length ≤ 32 → s.story k = some r →
      let held := r.custody = .held
      let range := start ≤ stop ∧ stop ≤ r.length
      let legal := ∀ c ∈ text, c = 0x0A#8 ∨ (0x20 ≤ c.toNat ∧ c.toNat ≤ 0x7F)
      let new := r.length - (stop - start) + text.length
      let grown := (new + 31) / 32 - (r.length + 31) / 32
      let first := start / 32
      let chain := r.chain ++ s.store.pool.take grown
      (¬held → no .wrongState) ∧
      (held → r.lock ≠ none → no .locked) ∧
      (held → r.lock = none → ¬range → no .badField) ∧
      (held → r.lock = none → range → ¬legal → no .badText) ∧
      (held → r.lock = none → range → legal → 16384 < new → no .tooLong) ∧
      (held → r.lock = none → range → legal → new ≤ 16384 → s.store.pool.length < grown →
        no .noRoom) ∧
      (held → r.lock = none → range → legal → new ≤ 16384 → grown ≤ s.store.pool.length →
        (first < (r.length + 31) / 32 ∨ first < (new + 31) / 32) → s.desk.response = none →
        ∃ t : State, exec (.place k start stop text) s = .next t ∧
          t.store.stories.map Story.unlocked =
            s.store.stories.map (fun q =>
              if q.key = k then
                { q.unlocked with inEdit := true, chain := q.chain ++ s.store.pool.take grown }
              else q.unlocked) ∧
          t.store =
            { s.store with stories := t.store.stories, pool := s.store.pool.drop grown } ∧
          t.fit.editKey = some k ∧ toldInEdit k s t ∧
          t.desk.op =
            .rewriting
              { key := k, start := start, stop := stop, text := text, oldLength := r.length,
                newLength := new, held := [], next := first } ∧
          t.desk.ready = false ∧ t.desk.command = some (nameByte .place) ∧
          t.desk.response = none ∧
          (let a : Access :=
            if first < (r.length + 31) / 32 then
              { purpose := .rewriteRead first, block := chain.getD first 0, first := 0,
                count := min 32 (r.length - 32 * first), aside := false }
            else
              { purpose := .rewriteWrite first, block := chain.getD first 0, first := 0,
                count := min 32 (new - 32 * first), aside := false }
          t.port.busy = some a ∨ t.port.desk = some a) ∧
          t.line = s.line ∧ t.pass = s.pass ∧ t.clock = s.clock ∧
          t.traffic.slots = s.traffic.slots)

/-- R16: what the rewrite writes, and that it has read what it needs. -/
def Obligations.RewriteBlockRight : Prop :=
  ∀ (r : Rewrite) (old : List Byte),
    let new := old.take r.start ++ r.text ++ old.drop r.stop
    r.start ≤ r.stop → r.stop ≤ old.length → r.oldLength = old.length → r.newLength = new.length →
    r.start / 32 ≤ r.next → 32 * r.next < new.length → r.nextRead = none →
    (∀ h ∈ r.held, h.2 = (old.drop (32 * h.1)).take 32) →
    (∀ i, r.start / 32 ≤ i → i ≤ r.next → 32 * i < old.length → ∃ h ∈ r.held, h.1 = i) ∧
    r.newBlock r.next = (new.drop (32 * r.next)).take 32

/-- R11, R13, R16, R17. The characters a read delivers are the subject of ParityKept. That the port grants
before the desk link makes its next request is the model's reading (log entry 12), and the chain that a
second access of READ TEXT reads the model's choice (log entry 27). -/
def Obligations.DeskAccessServed : Prop :=
  (∀ (a : Access) (p : Port),
    let free := p.busy = none ∧ ∀ q, p.waiting q = none
    (free → p.request a = { p with busy := some a }) ∧
    (¬free → (p.request a).busy = p.busy ∧
      ∀ q, (p.request a).waiting q =
        if q = a.purpose.requester then some a else p.waiting q)) ∧
  (∀ p : Port,
    let rank (q : Requester) : Nat :=
      match q with
      | .slip => 1
      | .desk => 2
      | .page => 3
      | .fit => 4
      | .row => 5
    ((∀ q, p.waiting q = none) → p.complete = { p with busy := none }) ∧
    ∀ (q : Requester) (a : Access), p.waiting q = some a →
      (∀ x, rank x < rank q → p.waiting x = none) →
      p.complete.busy = some a ∧
      ∀ x, p.complete.waiting x = if x = q then none else p.waiting x) ∧
  ∀ (s : State) (a : Access) (upsets : List Upset), s.port.busy = some a →
    let x := s.endRead a upsets
    let rest (t : State) : Prop :=
      t.line = s.line ∧ t.traffic = s.traffic ∧ t.pass = s.pass ∧ t.fit = s.fit ∧
      t.page = s.page ∧ t.clock = s.clock ∧ t.screen = s.screen
    let goesOn (r : Rewrite) (t : State) : Prop :=
      let chain := ((t.story r.key).map (·.chain)).getD []
      t.desk.op = .rewriting r ∧ t.desk.response = s.desk.response ∧ rest t ∧
      ((∃ i, r.nextRead = some i ∧
          t.port = s.port.complete.request
            { purpose := .rewriteRead i, block := chain.getD i 0, first := 0,
              count := min 32 (r.oldLength - 32 * i), aside := false }) ∨
        (r.nextRead = none ∧
          t.port = s.port.complete.request
            { purpose := .rewriteWrite r.next, block := chain.getD r.next 0, first := 0,
              count := min 32 (r.newLength - 32 * r.next), aside := false }))
    (∀ (r : Rewrite) (i : Nat), s.desk.op = .rewriting r → a.purpose = .rewriteRead i →
      let r' : Rewrite := { r with held := r.held ++ [(i, x.2.codes)] }
      (r'.nextRead = none → 32 * r'.next < r'.newLength) →
      ∃ t : State, exec (.rewriteAccessCompletion upsets) s = .next t ∧ t.store = x.1.store ∧
        goesOn r' t) ∧
    (∀ (r : Rewrite) (j : Nat), s.desk.op = .rewriting r → a.purpose = .rewriteWrite j →
      let r' : Rewrite := { r with next := j + 1 }
      let codes := (r.newBlock j).map fun c => if c = 0x1A#8 then 0x3F#8 else c
      (r'.nextRead = none → 32 * r'.next < r'.newLength) →
      ∃ t : State, exec (.rewriteAccessCompletion upsets) s = .next t ∧
        t.store =
          { s.store with
              text := writeCodes a.block a.first codes s.store.text,
              marks := s.store.marks.filter (· ≠ a.block),
              substitutions :=
                min 65535 (s.store.substitutions + (r.newBlock j).count 0x1A#8) } ∧
        goesOn r' t) ∧
    ∀ r : ReadOp, s.desk.op = .reading r → a.purpose = .readText →
      let got := r.got ++ x.2.codes
      let p := r.offset + got.length
      ∃ t : State, exec (.readTextAccessCompletion upsets) s = .next t ∧ t.store = x.1.store ∧
        rest t ∧
        (if got.length < r.count then
          t.desk.op = .reading { r with got := got } ∧ t.desk.response = s.desk.response ∧
          t.port = s.port.complete.request
            { purpose := .readText,
              block := (((t.story r.key).map (·.chain)).getD []).getD (p / 32) 0,
              first := p % 32, count := min (r.count - got.length) (32 - p % 32), aside := false }
        else
          t.desk.op = .idle ∧ t.port = s.port.complete ∧
          t.desk.response =
            some { name := s.desk.command.getD 0#8, result := .done, field := none,
                   data := .text got })

/-- R16, the completion; R10 for the damaged field; R22 and R176 for the text-changed notification. The
store that a last read leaves is the subject of ParityKept. -/
def Obligations.PlaceCompletes : Prop :=
  let ends (k : Key) (new : Nat) (q : Story) (u : Store) (c : Option Byte) (s t : State) : Prop :=
    let used := (new + 31) / 32
    let extra := q.chain.drop used
    let done (p : Story) : Story :=
      { p.unlocked with
          chain := p.chain.take used, length := new,
          damaged := (p.chain.take used).any fun b => decide (b ∈ u.marks),
          fit := none, receivedFrom := none, inEdit := false }
    t.store.stories.map Story.unlocked =
      u.stories.map (fun p => if p.key = k then done p else p.unlocked) ∧
    t.store =
      { u with
          stories := t.store.stories, pool := extra.reverse ++ u.pool,
          marks := u.marks.filter (· ∉ extra) } ∧
    t.fit.editKey ≠ some k ∧ toldTextChanged k new s t ∧ t.desk.op = .idle ∧
    t.desk.response =
      some { name := c.getD 0#8, result := .done, field := none, data := .placed new } ∧
    t.line = s.line ∧ t.pass = s.pass ∧ t.clock = s.clock ∧ t.traffic.slots = s.traffic.slots
  (∀ (s : State) (a : Access) (upsets : List Upset) (r : Rewrite) (q : Story),
    s.port.busy = some a → s.desk.op = .rewriting r → s.story r.key = some q →
    (∀ j, a.purpose = .rewriteWrite j → { r with next := j + 1 }.nextRead = none →
      r.newLength ≤ 32 * (j + 1) →
      let codes := (r.newBlock j).map fun c => if c = 0x1A#8 then 0x3F#8 else c
      ∃ t : State, exec (.rewriteAccessCompletion upsets) s = .next t ∧
        ends r.key r.newLength q
          { s.store with
              text := writeCodes a.block a.first codes s.store.text,
              marks := s.store.marks.filter (· ≠ a.block),
              substitutions :=
                min 65535 (s.store.substitutions + (r.newBlock j).count 0x1A#8) }
          s.desk.command s t) ∧
    (∀ i, a.purpose = .rewriteRead i →
      let x := s.endRead a upsets
      { r with held := r.held ++ [(i, x.2.codes)] }.nextRead = none →
      r.newLength ≤ 32 * r.next →
      ∃ t : State, exec (.rewriteAccessCompletion upsets) s = .next t ∧
        ends r.key r.newLength q x.1.store s.desk.command s t)) ∧
  ∀ (k : Key) (start : Nat) (r : Story) (s : State), s.hearsHost → s.story k = some r →
    r.custody = .held → r.lock = none → start = r.length → r.length % 32 = 0 →
    r.length ≤ 16384 →
    ∃ t : State, exec (.place k start start []) s = .next t ∧ t.desk.ready = false ∧
      ends k r.length r s.store (some (nameByte .place)) s t

/-- R9, over every read of the store port, with R11 for the port that serves on and R195 for the response that waits
for a read. That the bits which have changed by themselves are operands of a read's completion, written into the
stored text before it is read, is the model's choice (log entry 5). -/
def Obligations.ParityKept : Prop :=
  (∀ (block first : Nat) (codes : List Byte) (m : Memory), m.wf = true →
    readCells block first codes.length (writeCodes block first codes m) = codes.map encodeCell ∧
    ∀ x, (x < 32 * block + first ∨ 32 * block + first + codes.length ≤ x) →
      Memory.read (writeCodes block first codes m) x = m.read x) ∧
  (∀ c : Byte, cellCode (encodeCell c) = c ∧ goodParity (encodeCell c) = true) ∧
  (∀ v : TextCell,
    goodParity v = true ↔ ((List.range 9).filter fun i => v.getLsbD i).length % 2 = 1) ∧
  ∀ (a : Access) (upsets : List Upset) (s : State),
    let text := applyUpsets a.block upsets s.store.text
    let cells := readCells a.block a.first a.count text
    let x := s.endRead a upsets
    let d : Desk :=
      if s.desk.op = .restarting then
        { s.desk with
            op := .idle,
            response :=
              some { name := s.desk.command.getD 0#8, result := .done, field := none,
                     data := .nothing } }
      else s.desk
    let fill : Delivery := { codes := List.replicate a.count 0x1A#8, damaged := true }
    (x.1.port = s.port.complete ∧ x.1.line = s.line ∧ x.1.traffic = s.traffic ∧
      x.1.pass = s.pass ∧ x.1.fit = s.fit ∧ x.1.page = s.page ∧ x.1.clock = s.clock ∧
      x.1.screen = s.screen) ∧
    (a.block ∈ s.store.marks →
      x.2 = fill ∧ x.1.store = { s.store with text := text } ∧ x.1.desk = d) ∧
    (a.block ∉ s.store.marks → (∀ v ∈ cells, goodParity v = true) →
      x.2 = { codes := cells.map cellCode, damaged := false } ∧
      x.1.store = { s.store with text := text } ∧ x.1.desk = d) ∧
    (a.block ∉ s.store.marks → (∃ v ∈ cells, goodParity v = false) →
      x.2 = fill ∧ x.1.desk.latched .storeDamage = true ∧
      (∀ n : Notice, n ≠ .storeDamage → x.1.desk.latched n = s.desk.latched n) ∧
      onlyNotices { s with desk := d } x.1 ∧
      x.1.store =
        { s.store with
            text := text, marks := a.block :: s.store.marks,
            stories := s.store.stories.map fun r =>
              if a.block ∈ r.chain then { r with damaged := true } else r })

/-- R17, the checks and the first request. -/
def Obligations.ReadTextBegins : Prop :=
  ∀ (k : Key) (offset count : Nat) (s : State), s.hearsHost →
    (s.story k = none →
      exec (.readText k offset count) s = .next (s.replied .readText .noStory none .nothing)) ∧
    ∀ r : Story, s.story k = some r →
      (¬(1 ≤ count ∧ count ≤ 32 ∧ offset < r.length) →
        exec (.readText k offset count) s = .next (s.replied .readText .badField none .nothing)) ∧
      (1 ≤ count → count ≤ 32 → offset < r.length →
        let n := min count (r.length - offset)
        exec (.readText k offset count) s =
          .next
            { s with
                port := s.port.request
                  { purpose := .readText, block := r.chain.getD (offset / 32) 0,
                    first := offset % 32, count := min n (32 - offset % 32), aside := false },
                desk :=
                  { s.desk with
                      ready := false, command := some (nameByte .readText),
                      op := .reading { key := k, offset := offset, count := n, got := [] } } })

/-- R18, R20, with R6 for the pool and R176 for the windows. -/
def Obligations.StoryLeaves : Prop :=
  ∀ (k : Key) (s : State), s.hearsHost →
    let freed (c : CommandName) (r : Story) (t : State) : Prop :=
      t.store.stories.map Story.unlocked =
        (s.store.stories.filter fun q => q.key ≠ k).map Story.unlocked ∧
      t.store =
        { s.store with
            stories := t.store.stories, pool := r.chain.reverse ++ s.store.pool,
            marks := s.store.marks.filter (· ∉ r.chain) } ∧
      t.line = s.line ∧ t.pass = s.pass ∧ t.clock = s.clock ∧ t.traffic.slots = s.traffic.slots ∧
      (∀ (n : Nat) (w : Window), s.screen.windows[n]? = some w → n < 8 →
        ∃ v : Window, t.screen.windows[n]? = some v ∧
          v.shown = if w.key = some k then (none, .read, none, false) else w.shown) ∧
      answeredDone c .nothing t
    let custody (c : Custody) : List Story :=
      s.store.stories.map fun q => if q.key = k then { q with custody := c } else q
    (s.story k = none →
      exec (.dropStory k) s = .next (s.replied .dropStory .noStory none .nothing) ∧
      ∀ keep, exec (.resolve k keep) s = .next (s.replied .resolve .noStory none .nothing)) ∧
    ∀ r : Story, s.story k = some r →
      (r.custody = .outbound →
        exec (.dropStory k) s = .next (s.replied .dropStory .wrongState none .nothing)) ∧
      (r.custody ≠ .outbound → r.lock ≠ none →
        exec (.dropStory k) s = .next (s.replied .dropStory .locked none .nothing)) ∧
      (r.custody ≠ .outbound → r.lock = none →
        ∃ t : State, exec (.dropStory k) s = .next t ∧ freed .dropStory r t) ∧
      ((∀ c, r.custody ≠ .doubt c) → ∀ keep,
        exec (.resolve k keep) s = .next (s.replied .resolve .wrongState none .nothing)) ∧
      ∀ carbon, r.custody = .doubt carbon →
        exec (.resolve k true) s =
          .next
            { s.replied .resolve .done none .nothing with
                store := { s.store with stories := custody .held } } ∧
        (carbon = true →
          exec (.resolve k false) s =
            .next
              { s.replied .resolve .done none .nothing with
                  store := { s.store with stories := custody .carbon } }) ∧
        (carbon = false →
          ∃ t : State, exec (.resolve k false) s = .next t ∧ freed .resolve r t)

/-- R67, with the store's begin pass request of R21, R68 for the first read or the OFFER of an empty story, R11
for the port and R176 for the windows. That the slip writer asks in the same change, after the row builder's
abandoned build, rests on log entries 12 and 17, and the number that orders the ended entries on log entry 24. -/
def Obligations.PassBegins : Prop :=
  (∀ s : State,
    (∀ n, s.passEntryChoice = some n →
      (s.pass.outbound[n]? = some none ∧ ∀ m, m < n → s.pass.outbound[m]? ≠ some none) ∨
      ((∀ m : Nat, s.pass.outbound[m]? ≠ some none) ∧
        ∃ p, s.pass.outbound[n]? = some (some p) ∧ p.phase = .ended ∧
          ∀ (m : Nat) (q : Pass), s.pass.outbound[m]? = some (some q) → q.phase = .ended →
            p.endOrder ≤ q.endOrder)) ∧
    (s.passEntryChoice = none ↔ ∀ o ∈ s.pass.outbound, ∃ p, o = some p ∧ p.phase ≠ .ended)) ∧
  ∀ (k : Key) (dest : Address) (carbon : Bool) (s : State), s.hearsHost →
    let no (r : Result) : Prop :=
      exec (.pass k dest carbon) s = .next (s.replied .pass r none .nothing)
    let reaches : Prop :=
      (dest.form = .station → 1 ≤ dest.number ∧ dest.number ≤ 30 ∧ dest.number ≠ s.desk.station) ∧
      (dest.form = .role → 1 ≤ dest.number ∧ dest.number ≤ 15)
    (s.story k = none → no .noStory) ∧
    ∀ r : Story, s.story k = some r →
      (r.custody ≠ .held → no .wrongState) ∧
      (r.custody = .held → r.lock ≠ none → no .locked) ∧
      (r.custody = .held → r.lock = none → r.damaged = true → no .damaged) ∧
      (r.custody = .held → r.lock = none → r.damaged = false → ¬reaches → no .badField) ∧
      (r.custody = .held → r.lock = none → r.damaged = false → reaches →
        s.passEntryChoice = none → no .full) ∧
      ∀ n, r.custody = .held → r.lock = none → r.damaged = false → reaches →
        s.passEntryChoice = some n → s.pass.outbound.length = 4 →
        let entry (reading : Option Nat) (offered : Bool) : Pass :=
          { key := k, dest := dest, keepCarbon := carbon, phase := .offering,
            storyCheck := 0xFFFF#16, slipTotal := max 1 ((r.length + 31) / 32), taker := none,
            nextSlip := 0, declines := 0, timer := false, outcome := none, endOrder := 0,
            reading := reading, ready := none, offered := offered }
        let begins (p : Pass) (queue : List OutEntry) (t : State) : Prop :=
          exec (.pass k dest carbon) s = .next t ∧
          t.pass = { s.pass with outbound := s.pass.outbound.set n (some p) } ∧
          t.store =
            { s.store with
                stories := s.store.with k fun q =>
                  { q with custody := .outbound, receivedFrom := none } } ∧
          answeredDone .pass (.passEntry n) t ∧ toldEditBarred k s t ∧
          t.line = s.line ∧ t.traffic = { s.traffic with queue := queue } ∧ t.fit = s.fit ∧
          t.page = s.page ∧ t.clock = s.clock
        (0 < r.length →
          ∃ t : State, begins (entry (some 0) false) s.traffic.queue t ∧
            (s.portOwned → ∀ a, s.port.slip = some a → t.port.slip = some a) ∧
            (s.port.slip = none → s.slipWriterWants = none →
              (∀ c, s.port.busy = some c → c.purpose = .checkRead n → c.aside = true) →
              let read : Access :=
                { purpose := .checkRead n, block := r.chain.getD 0 0, first := 0,
                  count := min 32 r.length, aside := false }
              t.port.busy = some read ∨ t.port.slip = some read)) ∧
        (r.length = 0 → s.traffic.held (.passEntry n) = 0 →
          ∃ t : State, begins (entry none true)
            (s.traffic.queue ++
              [newEntry (.passEntry n)
                { kind := .offer, dest := dest,
                  payload := keyBytes k ++ slugBytes r.slug ++ oneByte r.edition ++
                    [0x00#8, 0x00#8, 0x00#8, 0x01#8, 0xFF#8, 0xFF#8] }]) t)

/-- R72, R73, R77, R78. The number that orders the ended entries is the model's (log entry 24). -/
def Obligations.PassEndsHeld : Prop :=
  (∀ (k : Key) (s : State), s.hearsHost →
    ((∀ (n : Nat) (p : Pass), s.pass.outbound[n]? = some (some p) → p.key = k →
        p.phase = .ended) →
      exec (.cancelPass k) s = .next (s.replied .cancelPass .wrongState none .nothing)) ∧
    ∀ (n : Nat) (p : Pass), s.passes k n p →
      (p.phase = .sending → p.nextSlip = p.slipTotal - 1 →
        exec (.cancelPass k) s = .next (s.replied .cancelPass .busy none .nothing)) ∧
      (¬(p.phase = .sending ∧ p.nextSlip = p.slipTotal - 1) →
        ∃ t : State, exec (.cancelPass k) s = .next t ∧ PassEnded n p .cancelled s t ∧
          answeredDone .cancelPass .nothing t ∧ t.traffic.slots = s.traffic.slots ∧
          (p.phase = .offering → s.traffic.heldShared < 3 →
            newEntry .answer
                { kind := .withdraw, dest := p.dest, payload := keyBytes k } ∈ t.traffic.queue))) ∧
  (∀ (n : Nat) (p : Pass) (s : State), s.pass.outbound[n]? = some (some p) →
    p.phase = .offering → p.timer = true →
    ∃ t : State, exec (.answerTimerExpiry n) s = .next t ∧ PassEnded n p .noAnswer s t ∧
      t.traffic.slots = s.traffic.slots) ∧
  ∀ (x : RxSlot) (rest : List RxSlot) (n : Nat) (p : Pass) (reason : DeclineReason) (s : State),
    s.traffic.slots = x :: rest → x.kind = .decline → s.passes (keyAt x.payload 0) n p →
    p.phase = .offering → p.dest = { form := .station, number := x.source } →
    reason.code = byteAt x.payload 3 →
    ∃ t : State, exec .declineDispatch s = .next t ∧ t.traffic.slots = rest ∧
      PassEnded n { p with declines := min 255 (p.declines + 1) } (.declined reason) s t

/-- R79, with R80, R82 and R7 for what tests 6 and 7 lead to. The number of an inbound pass is the model's choice
(log entry 24). -/
def Obligations.OfferTested : Prop :=
  ∀ (x : RxSlot) (rest : List RxSlot) (d : StartRecord) (s : State),
    s.traffic.slots = x :: rest → x.kind = .offer → s.desk.record = some d →
    let o := offerFields x.payload
    let k := o.key
    let after (queue : List OutEntry) : State :=
      { s with traffic := { s.traffic with slots := rest, queue := queue } }
    let leads (u : State) : Prop := ∃ t : State, exec .offerDispatch s = .next t ∧ SettleFollows u t
    let declined (reason : Nat) : Prop :=
      leads (after (s.traffic.shared .answer
        { kind := .decline, dest := { form := .station, number := x.source },
          payload := keyBytes k ++ [BitVec.ofNat 8 reason] }))
    let sound : Prop :=
      1 ≤ k.origin ∧ k.origin ≤ 30 ∧ 1 ≤ k.serial ∧ k.serial ≤ 4095 ∧ 1 ≤ o.edition ∧
      o.edition ≤ 8 ∧ o.length ≤ 16384 ∧ o.slipTotal = max 1 ((o.length + 31) / 32)
    let here : Prop := ∃ r, s.story k = some r ∧ r.custody ≠ .carbon
    let locked : Prop := ∃ r, s.story k = some r ∧ r.custody = .carbon ∧ r.lock ≠ none
    let other : Option Nat :=
      ((s.inboundOf k).map fun y => y.2.sender).or ((s.queuedOffer k).map (·.source))
    (¬sound → leads (after s.traffic.queue)) ∧
    (sound → s.desk.state = .unattended → declined 1) ∧
    (sound → s.desk.state ≠ .unattended →
      (here → declined 2) ∧ (¬here → locked → declined 3) ∧
      (¬here → ¬locked →
        (other = some x.source → leads (after s.traffic.queue)) ∧
        (∀ n, other = some n → n ≠ x.source → declined 4) ∧
        (other = none → d.ask = true → 4 ≤ s.pass.offers.length → declined 4) ∧
        (other = none → d.ask = true → s.pass.offers.length < 4 →
          ∃ t : State, exec .offerDispatch s = .next t ∧ t.traffic.slots = rest ∧
            t.pass = { s.pass with offers := s.pass.offers ++ [{ offer := o, source := x.source }] } ∧
            t.desk.latched .offerWaiting = true ∧
            t.screen.status = { s.screen.status with offers := s.pass.offers.length + 1 } ∧
            t.desk.inputs = { s.desk.inputs with offers := s.pass.offers.length + 1 } ∧
            t.line = s.line ∧ t.clock = s.clock ∧ t.store.pool = s.store.pool) ∧
        (other = none → d.ask = false →
          ((∀ i ∈ s.pass.inbound, i ≠ none) → declined 4) ∧
          ∀ n, s.pass.inbound[n]? = some none → (∀ m, m < n → s.pass.inbound[m]? ≠ some none) →
            (¬(s.store.stories.length + s.store.reserved < 64 ∧
                o.slipTotal ≤ s.store.pool.length) → declined 5) ∧
            (s.store.stories.length + s.store.reserved < 64 →
              o.slipTotal ≤ s.store.pool.length →
              (3 ≤ s.traffic.heldShared → leads (after s.traffic.queue)) ∧
              (s.traffic.heldShared < 3 →
                leads
                  { after (s.traffic.queue ++
                      [newEntry (.take n)
                        { kind := .take, dest := { form := .station, number := x.source },
                          payload := keyBytes k }]) with
                      store :=
                        { s.store with
                            pool := s.store.pool.drop o.slipTotal,
                            reservations := s.store.reservations.set n
                              (some (s.store.pool.take o.slipTotal)) },
                      pass :=
                        { s.pass with
                            inbound := s.pass.inbound.set n
                              (some
                                { offer := o, sender := x.source, byHost := false,
                                  confirmed := false, expected := 0, running := 0xFFFF#16,
                                  complete := false, timer := false, pass := s.pass.nextPass }),
                            nextPass := s.pass.nextPass + 1 } })))))

/-- R70, R71, R72 (role offers), R74 for the first slip and R11 for its read (log entry 12). -/
def Obligations.AnswersReceived : Prop :=
  (∀ (x : RxSlot) (rest : List RxSlot) (s : State),
    s.traffic.slots = x :: rest → x.kind = .take →
    let k := keyAt x.payload 0
    let after (queue : List OutEntry) : State :=
      { s with traffic := { s.traffic with slots := rest, queue := queue } }
    let leads (u : State) : Prop :=
      ∃ t : State, exec .takeDispatch s = .next t ∧ SettleFollows u t ∧ slipAsked u t
    let refused : Prop :=
      leads (after (s.traffic.shared .answer
        { kind := .withdraw, dest := { form := .station, number := x.source },
          payload := keyBytes k }))
    ((∀ (n : Nat) (p : Pass), s.pass.outbound[n]? = some (some p) → p.key = k → p.phase = .ended) →
      refused) ∧
    ∀ (n : Nat) (p : Pass), s.passes k n p →
      let accepted : Prop :=
        p.phase = .offering ∧ p.offered = true ∧
        (p.dest.form = .station → p.dest.number = x.source)
      let again : Prop := p.phase = .sending ∧ p.taker = some x.source
      (accepted → (∃ r, s.story k = some r ∧ 0 < r.length) →
        leads
          { after (s.traffic.withdraw (.passEntry n)).queue with
              pass :=
                { s.pass with
                    outbound := s.pass.outbound.set n
                      (some
                        { p with
                            taker := some x.source, phase := .sending, timer := false,
                            nextSlip := 0, reading := some 0 }) } }) ∧
      (again → leads (after s.traffic.queue)) ∧
      (¬accepted → ¬again → refused)) ∧
  ∀ (x : RxSlot) (rest : List RxSlot) (n : Nat) (p : Pass) (reason : DeclineReason) (s : State),
    s.traffic.slots = x :: rest → x.kind = .decline → s.passes (keyAt x.payload 0) n p →
    p.phase = .offering → p.dest.form = .role → reason.code = byteAt x.payload 3 →
    ∃ t : State, exec .declineDispatch s = .next t ∧
      SettleFollows
        { s with
            traffic := { s.traffic with slots := rest },
            pass :=
              { s.pass with
                  outbound := s.pass.outbound.set n
                    (some { p with declines := min 255 (p.declines + 1) }) } } t

/-- R83. The number of an inbound pass is the model's (log entry 24). -/
def Obligations.OfferAnswered : Prop :=
  ∀ (k : Key) (s : State), s.hearsHost →
    (s.queuedOffer k = none → ∀ take,
      exec (.answerOffer k take) s = .next (s.replied .answerOffer .noStory none .nothing)) ∧
    ∀ q : QueuedOffer, s.queuedOffer k = some q →
      let left := s.pass.offers.filter fun o => o.offer.key ≠ k
      let answered (take : Bool) (queue : List OutEntry) (p : PassEngine) (st : Store) (r : Result)
          (data : ResponseData) : Prop :=
        ∃ t : State, exec (.answerOffer k take) s = .next t ∧
          t.traffic = { s.traffic with queue := queue } ∧
          t.pass = { p with offers := left } ∧ t.store = st ∧
          t.screen.status = { s.screen.status with offers := left.length } ∧
          t.desk.inputs = { s.desk.inputs with offers := left.length } ∧
          t.desk.response =
            some { name := nameByte .answerOffer, result := r, field := none, data := data } ∧
          t.line = s.line ∧ t.fit = s.fit ∧ t.page = s.page ∧ t.clock = s.clock
      let declined (take : Bool) (reason : Nat) (r : Result) (data : ResponseData) : Prop :=
        answered take
          (s.traffic.shared .answer
            { kind := .decline, dest := { form := .station, number := q.source },
              payload := keyBytes k ++ [BitVec.ofNat 8 reason] })
          s.pass s.store r data
      let here : Prop := ∃ r, s.story k = some r ∧ r.custody ≠ .carbon
      let locked : Prop := ∃ r, s.story k = some r ∧ r.custody = .carbon ∧ r.lock ≠ none
      declined false 6 .done (.declineSent (decide (s.traffic.heldShared < 3))) ∧
      (here → declined true 2 .wrongState .nothing) ∧
      (¬here → locked → declined true 3 .locked .nothing) ∧
      (¬here → ¬locked → (∀ i ∈ s.pass.inbound, i ≠ none) → declined true 4 .busy .nothing) ∧
      ∀ n, ¬here → ¬locked → s.pass.inbound[n]? = some none →
        (∀ m, m < n → s.pass.inbound[m]? ≠ some none) →
        let room : Prop :=
          s.store.stories.length + s.store.reserved < 64 ∧ q.offer.slipTotal ≤ s.store.pool.length
        (¬room → declined true 5 .noRoom .nothing) ∧
        (room → 3 ≤ s.traffic.heldShared →
          exec (.answerOffer k true) s = .next (s.replied .answerOffer .full none .nothing)) ∧
        (room → s.traffic.heldShared < 3 →
          answered true
            (s.traffic.queue ++
              [newEntry (.take n)
                { kind := .take, dest := { form := .station, number := q.source },
                  payload := keyBytes k }])
            { s.pass with
                inbound := s.pass.inbound.set n
                  (some
                    { offer := q.offer, sender := q.source, byHost := true, confirmed := false,
                      expected := 0, running := 0xFFFF#16, complete := false, timer := false,
                      pass := s.pass.nextPass }),
                nextPass := s.pass.nextPass + 1 }
            { s.store with
                pool := s.store.pool.drop q.offer.slipTotal,
                reservations := s.store.reservations.set n
                  (some (s.store.pool.take q.offer.slipTotal)) }
            .done .nothing)

/-- R84, R85 (freeing), R86, R87, R7 (release). -/
def Obligations.InboundFreed : Prop :=
  (∀ (n : Nat) (b : Inbound) (s : State) (blocks : List Nat),
    s.pass.inbound[n]? = some (some b) → s.store.reservations[n]? = some (some blocks) →
    let freed (notice : Notice) (t : State) : Prop :=
      t.pass = { s.pass with inbound := s.pass.inbound.set n none } ∧
      t.store.pool = blocks ++ s.store.pool ∧
      t.store.reservations = s.store.reservations.set n none ∧
      t.store.text = s.store.text ∧
      t.store.stories.map Story.unlocked = s.store.stories.map Story.unlocked ∧
      (∀ e ∈ t.traffic.queue, e.owner = .take n → e.withdrawing = true) ∧
      t.desk.latched notice = true ∧ t.line = s.line ∧ t.clock = s.clock
    (b.complete = false → b.timer = true →
      ∃ t : State, exec (.gapTimerExpiry n) s = .next t ∧ freed .inboundLost t) ∧
    ∀ (x : RxSlot) (rest : List RxSlot),
      s.traffic.slots = x :: rest → x.kind = .withdraw → x.inbound = none →
      s.inboundOf (keyAt x.payload 0) = some (n, b) → b.sender = x.source →
      s.queuedOffer (keyAt x.payload 0) = none →
      ∃ t : State, exec .withdrawDispatch s = .next t ∧ t.traffic.slots = rest ∧
        (if b.complete then t.pass = s.pass
         else freed (if b.byHost ∧ b.expected = 0 then .offerLapsed else .inboundLost) t)) ∧
  (∀ (x : RxSlot) (rest : List RxSlot) (q : QueuedOffer) (s : State),
    s.traffic.slots = x :: rest → x.kind = .withdraw → x.inbound = none →
    s.inboundOf (keyAt x.payload 0) = none → s.queuedOffer (keyAt x.payload 0) = some q →
    ∃ t : State, exec .withdrawDispatch s = .next t ∧ t.traffic.slots = rest ∧
      (if q.source = x.source then
        t.pass =
          { s.pass with
              offers := s.pass.offers.filter fun o => o.offer.key ≠ keyAt x.payload 0 } ∧
        t.desk.latched .offerLapsed = true
      else t.pass = s.pass)) ∧
  ∀ (k : Key) (q : QueuedOffer) (s : State), s.queuedOffer k = some q →
    let left := s.pass.offers.filter fun o => o.offer.key ≠ k
    ∃ t : State, exec (.offerQueueTimerExpiry k) s = .next t ∧
      t.pass = { s.pass with offers := left } ∧ t.desk.latched .offerLapsed = true ∧
      t.screen.status = { s.screen.status with offers := left.length } ∧
      t.desk.inputs = { s.desk.inputs with offers := left.length } ∧
      t.traffic =
        { s.traffic with
            queue := s.traffic.shared .answer
              { kind := .decline, dest := { form := .station, number := q.source },
                payload := keyBytes k ++ [0x07#8] } } ∧
      t.store = s.store ∧ t.line = s.line ∧ t.fit = s.fit ∧ t.page = s.page ∧ t.clock = s.clock

/-- R11 (the slip writer's choice), R61, R8, R13, R90, R149, with R176 for the windows. When the slip writer
makes its request rests on log entry 12; the substitution in a slug and its moment on log entry 19. -/
def Obligations.SlipsStored : Prop :=
  (∀ s : State,
    (∀ a, s.slipWriteAsked a → s.slipWriterWants = some a) ∧
    (∀ (n : Nat) (a : Access), n < 4 → (∀ c, ¬s.slipWriteAsked c) → s.outboundReadAsked n a →
      (∀ m c, m < n → ¬s.outboundReadAsked m c) → s.slipWriterWants = some a) ∧
    ((∀ c, ¬s.slipWriteAsked c) → (∀ n c, n < 4 → ¬s.outboundReadAsked n c) →
      s.slipWriterWants = none)) ∧
  (∀ (x : RxSlot) (rest : List RxSlot) (r : InboundRef) (s : State),
    s.traffic.slots = x :: rest → x.kind = .slip → x.handed = false → x.inbound = some r →
    let i := twoAt x.payload 3
    let freed : State := { s with traffic := { s.traffic with slots := rest } }
    ((∀ b : Inbound, s.pass.inbound[r.entry]? = some (some b) → b.pass ≠ r.pass) →
      exec .slipDispatch s = .next freed) ∧
    ∀ (b : Inbound) (blocks : List Nat), s.pass.inbound[r.entry]? = some (some b) →
      b.pass = r.pass → s.store.reservations[r.entry]? = some (some blocks) →
      (5 < x.payload.length →
        let write : Access :=
          { purpose := .slipWrite r.entry r.pass i (x.payload.drop 5), block := blocks.getD i 0,
            first := 0, count := x.payload.length - 5, aside := false }
        ∃ t : State, exec .slipDispatch s = .next t ∧
          SlipFollows
            { s with traffic := { s.traffic with slots := { x with handed := true } :: rest } } t ∧
          (s.port.slip = none → (∀ c, s.port.busy = some c → c.purpose ≠ write.purpose) →
            (s.port.busy ≠ none → t.port = { s.port with slip := some write }) ∧
            (s.port.busy = none → s.port.noneWaits = true → t.port.busy = some write))) ∧
      (x.payload.length ≤ 5 →
        (¬(b.complete = true ∧ i + 1 = b.offer.slipTotal) →
          ∃ t : State, exec .slipDispatch s = .next t ∧ SettleFollows freed t) ∧
        (b.complete = true → i + 1 = b.offer.slipTotal →
          ∃ t : State, exec .slipDispatch s = .next t ∧ Committed r.entry b blocks freed t))) ∧
  ∀ (a : Access) (x : RxSlot) (rest : List RxSlot) (r : InboundRef) (s : State),
    let i := twoAt x.payload 3
    let codes := x.payload.drop 5
    s.port.busy = some a → a.purpose = .slipWrite r.entry r.pass i codes → a.first = 0 →
    s.desk.op ≠ .restarting → s.traffic.slots = x :: rest → x.handed = true → x.inbound = some r →
    let legal (c : Byte) : Bool := decide (c = 0x0A#8 ∨ (0x20 ≤ c.toNat ∧ c.toNat ≤ 0x7F))
    let written : State :=
      { s with
          store :=
            { s.store with
                text := writeCodes a.block 0 (codes.map fun c => if legal c then c else 0x3F#8)
                  s.store.text,
                marks := s.store.marks.filter (· ≠ a.block),
                substitutions :=
                  min 65535 (s.store.substitutions + codes.countP fun c => !legal c) },
          port := s.port.complete, traffic := { s.traffic with slots := rest } }
    (a.aside = true →
      ∃ u t : State, exec .slipWriteCompletion s = .next t ∧ SlipFollows written u ∧
        RowsFollow u t) ∧
    ∀ (b : Inbound) (blocks : List Nat), a.aside = false →
      s.pass.inbound[r.entry]? = some (some b) → b.pass = r.pass →
      s.store.reservations[r.entry]? = some (some blocks) → a.block = blocks.getD i 0 →
      (¬(b.complete = true ∧ i + 1 = b.offer.slipTotal) →
        ∃ u t : State, exec .slipWriteCompletion s = .next t ∧ SlipFollows written u ∧
          RowsFollow u t) ∧
      (b.complete = true → i + 1 = b.offer.slipTotal →
        ∃ t : State, exec .slipWriteCompletion s = .next t ∧ Committed r.entry b blocks written t)

/-- R68, R74, R32. The characters a read delivers are the subject of ParityKept, the slip writer's choice that
of SlipsStored; that it asks after the grant of the completion rests on log entry 12, and the number that orders
the ended entries on log entry 24. -/
def Obligations.OutboundReadServed : Prop :=
  ∀ (a : Access) (upsets : List Upset) (n : Nat) (p : Pass) (r : Story) (s : State),
    s.port.busy = some a → a.aside = false → s.pass.outbound[n]? = some (some p) →
    s.story p.key = some r →
    let x := s.endRead a upsets
    let entry (q : Pass) : PassEngine :=
      { s.pass with outbound := s.pass.outbound.set n (some q) }
    let inserts (q : Pass) (f : OutFrame) : State :=
      { x.1 with
          pass := entry q,
          traffic :=
            { s.traffic with queue := s.traffic.queue ++ [newEntry (.passEntry n) f] } }
    let check := crcCodes p.storyCheck x.2.codes
    (∀ i, a.purpose = .checkRead n → p.reading = some i →
      (x.2.damaged = true →
        ∃ t : State, exec (.offerCheckReadCompletion upsets) s = .next t ∧
          PassEnded n p (.failed .damaged) x.1 t) ∧
      (x.2.damaged = false → 32 * (i + 1) < r.length →
        ∃ t : State, exec (.offerCheckReadCompletion upsets) s = .next t ∧
          SlipFollows
            { x.1 with pass := entry { p with storyCheck := check, reading := some (i + 1) } } t) ∧
      (x.2.damaged = false → r.length ≤ 32 * (i + 1) →
        s.traffic.held (.passEntry n) = 0 →
        ∃ t : State, exec (.offerCheckReadCompletion upsets) s = .next t ∧
          SlipFollows
            (inserts
              { p with storyCheck := check, reading := none, ready := none, offered := true }
              { kind := .offer, dest := p.dest,
                payload := keyBytes p.key ++ slugBytes r.slug ++ oneByte r.edition ++
                  twoBytes r.length ++ twoBytes p.slipTotal ++ twoBytes check.toNat }) t)) ∧
    (∀ taker, a.purpose = .slipRead n → p.taker = some taker →
      (x.2.damaged = true →
        ∃ t : State, exec (.slipReadCompletion upsets) s = .next t ∧
          PassEnded n p (.failed .damaged) x.1 t) ∧
      (x.2.damaged = false → s.traffic.held (.passEntry n) = 0 →
        ∃ t : State, exec (.slipReadCompletion upsets) s = .next t ∧
          SlipFollows
            (inserts { p with reading := none, ready := none }
              { kind := .slip, dest := { form := .station, number := taker },
                payload := keyBytes p.key ++ twoBytes p.nextSlip ++ x.2.codes }) t))

/-- R107 to R111, R113, R114. -/
def Obligations.LinesLegal : Prop :=
  (∀ (m : Measure) (codes : List Byte), m.firstCap ≤ m.capacity →
    (∀ l ∈ breakText m codes, m.total l.items ≤ m.capacity ∨ l.items.length = 1) ∧
    (∀ (j : Nat) (l : ClosedLine), (breakText m codes)[j]? = some l →
      (j = 0 ∨ ∃ x : ClosedLine, (breakText m codes)[j - 1]? = some x ∧ x.mark ≠ none) →
      m.total l.items ≤ m.firstCap ∨ l.items.length = 1) ∧
    ((breakText m codes).flatMap (·.items)).filter (fun i => decide (i.code ≠ 0x20#8)) =
      ((codes.zipIdx.filter fun c => decide (c.1 ≠ 0x20#8 ∧ c.1 ≠ 0x0A#8)).map fun c =>
        { code := c.1, offset := c.2 }) ∧
    ((∀ c : Byte, m.width c ≤ m.firstCap) →
      (breakText m codes).filterMap (·.mark) =
        ((codes.zipIdx.filter fun c => decide (c.1 = 0x0A#8)).map (·.2)))) ∧
  ∀ (r : FitReading) (codes : List Byte), r.breaker = Breaker.start → r.lines = 0 →
    (breakText r.measure codes).length < 4095 →
    let x := FitReading.feed 0 codes r
    x.lines + (x.breaker.finish codes.length).length = (breakText r.measure codes).length

/-- R100 to R104, R107. -/
def Obligations.FitRequested : Prop :=
  ∀ (k : Key) (w : Setting) (s : State), s.hearsHost → s.fitStep = none →
    let c : Setting := { w with lead := min 8 w.lead, indent := min 36 w.indent }
    let sound : Prop :=
      w.face ≤ 3 ∧ 60 ≤ w.measure ∧ w.measure ≤ 400 ∧ 10 ≤ w.size ∧ w.size ≤ 144
    let same (q : FitRequest) : Prop := q.key = k ∧ q.setting = c
    let room : Prop := s.fit.queue.length < 4 ∧ s.fit.waiting = none
    let cap := c.measure * 36 / c.size
    (s.story k = none → exec (.fit k w) s = .next (s.replied .fit .noStory none .nothing)) ∧
    ∀ r : Story, s.story k = some r →
      (¬sound → exec (.fit k w) s = .next (s.replied .fit .badField none .nothing)) ∧
      (sound → (∀ q ∈ s.fit.queue, ¬same q) → ¬room →
        exec (.fit k w) s = .next (s.replied .fit .busy none .nothing)) ∧
      (sound → (∃ q ∈ s.fit.queue, same q) → s.fit.run ≠ none →
        exec (.fit k w) s =
          .next
            { s.replied .fit .done none (.fitTaken c.lead c.indent true) with
                fit :=
                  { s.fit with
                      queue := s.fit.queue.map fun q =>
                        if q.key = k ∧ q.setting = c then { q with host := true } else q } }) ∧
      (sound → (∀ q ∈ s.fit.queue, ¬same q) → room → s.fit.run ≠ none →
        exec (.fit k w) s =
          .next
            { s.replied .fit .done none (.fitTaken c.lead c.indent false) with
                fit :=
                  { s.fit with
                      queue := s.fit.queue ++
                        [{ key := k, setting := c, host := true, page := false }] } }) ∧
      (sound → s.fit.queue = [] → s.fit.waiting = none → s.fit.run = none →
        s.fit.editKey ≠ some k → 0 < r.length →
        exec (.fit k w) s =
          .next
            { s.replied .fit .done none (.fitTaken c.lead c.indent false) with
                fit :=
                  { s.fit with
                      queue := [{ key := k, setting := c, host := true, page := false }],
                      run :=
                        some (.reading
                          { table := (s.fit.faces.getD c.face Face.absent).table, capacity := cap,
                            firstCap := cap - min c.indent (cap / 2), length := r.length,
                            block := 0, breaker := Breaker.start, lines := 0,
                            overwide := false }) },
                port := s.port.request
                  { purpose := .fitRead, block := r.chain.getD 0 0, first := 0,
                    count := min 32 r.length, aside := false } })

/-- R116, with the figures of R112. -/
def Obligations.FitDepthAnswered : Prop :=
  ∀ (k : Key) (n b : Nat) (s : State), s.hearsHost →
    (s.story k = none →
      exec (.fitDepth k n b) s = .next (s.replied .fitDepth .noStory none .nothing)) ∧
    ∀ r : Story, s.story k = some r →
      (¬(1 ≤ n ∧ n ≤ 6 ∧ b ≤ 2000) →
        exec (.fitDepth k n b) s = .next (s.replied .fitDepth .badField none .nothing)) ∧
      (1 ≤ n → n ≤ 6 → b ≤ 2000 → r.fit = none →
        exec (.fitDepth k n b) s = .next (s.replied .fitDepth .wrongState none .nothing)) ∧
      ∀ f : FitRecord, 1 ≤ n → n ≤ 6 → b ≤ 2000 → r.fit = some f →
        let columns := (f.lines + n - 1) / n
        let half := min 65535 (columns * (f.setting.size + f.setting.lead))
        exec (.fitDepth k n b) s =
          .next (s.replied .fitDepth .done none
            (.depth f columns half ((half + 1) / 2) ((half + 1) / 2 - b)))

/-- R97, R98, R106. That a run which waits for the store's answer is only marked, so that it ends STALE when the
answer has come, and not at once, is the model's reading of R98 with R106 (log entry 21). -/
def Obligations.WidthsLearned : Prop :=
  ∀ (x : RxSlot) (rest : List RxSlot) (s : State),
    s.traffic.slots = x :: rest → x.kind = .widths →
    let f := byteAt x.payload 0
    let p := byteAt x.payload 1
    let widths := (List.range 32).map fun i => max 4 (min 36 (byteAt x.payload (2 + i)))
    let freed : State := { s with traffic := { s.traffic with slots := rest } }
    let write (a : Face) : Face :=
      { part0 := if p = 0 then some widths else a.part0,
        part1 := if p = 1 then some widths else a.part1,
        part2 := if p = 2 then some widths else a.part2 }
    let faces := s.fit.faces.modify f write
    (¬(f ≤ 3 ∧ p ≤ 2) →
      ∃ t : State, exec .widthsDispatch s = .next t ∧ SettleFollows freed t) ∧
    (f ≤ 3 → p ≤ 2 →
      ∃ t : State, exec .widthsDispatch s = .next t ∧ t.traffic.slots = rest ∧
        t.fit.faces = faces ∧
        t.store.stories.map Story.unlocked =
          (s.store.stories.map fun r =>
            if r.fit.any fun g => decide (g.setting.face = f) then { r with fit := none } else r).map
              Story.unlocked ∧
        t.store = { s.store with stories := t.store.stories } ∧ t.pass = s.pass ∧
        t.line = s.line ∧ t.clock = s.clock ∧
        ((faces.getD f Face.absent).known = true → t.desk.latched .faceLearned = true) ∧
        (s.page.sendOrder = [] → s.fit.waiting = none →
          (∀ (r : FitReading) (q : FitRequest), s.fit.run = some (.reading r) →
            s.fit.queue = [q] → q.setting.face = f →
            t.fit =
              { s.fit with
                  faces := faces, queue := [], run := none,
                  last :=
                    if q.host then some { key := q.key, setting := q.setting, outcome := .stale }
                    else s.fit.last } ∧
            (q.host = true → t.desk.latched .fitDone = true)) ∧
          ∀ (g : FitRecord) (b : Nat) (since text : Bool) (q : FitRequest) (l : List FitRequest),
            s.fit.run = some (.storing g b since text) → s.fit.queue = q :: l → q.setting.face = f →
            t.fit = { s.fit with faces := faces, run := some (.storing g b true text) }))

/-- R104, R106, R111, and R127 to R129 at the page engine. That a record of a text changed since is not kept
is the model's reading (log entry 26), and so are that the port grants before the next read is asked for (log
entry 12) and that a record stored before WIDTHS is removed with STALE (log entry 21); the fields of a transfer
record just begun, and frame in hand while its PAGE HEAD waits, are its choice (log entries 34 and 37). -/
def Obligations.FitRunServed : Prop :=
  (∀ (a : Access) (upsets : List Upset) (r : FitReading) (q : FitRequest) (l : List FitRequest)
      (s : State), s.port.busy = some a → a.purpose = .fitRead → a.aside = false →
    s.fit.run = some (.reading r) → s.fit.queue = q :: l → s.desk.op ≠ .restarting →
    let x := s.endRead a upsets
    let y := FitReading.feed (32 * r.block) x.2.codes r
    let total := y.lines + (y.breaker.finish r.length).length
    let record (lines : Nat) : FitRecord :=
      { setting := q.setting, lines := min 4095 lines,
        flags :=
          { estimated := r.table.isNone, overwide := y.overwide,
            saturated := decide (4095 ≤ lines) } }
    ∃ t : State, exec (.fitReadCompletion upsets) s = .next t ∧
      t.store = x.1.store ∧ t.line = s.line ∧ t.traffic = s.traffic ∧ t.pass = s.pass ∧
      t.page = s.page ∧ t.clock = s.clock ∧ t.screen = s.screen ∧ t.desk = x.1.desk ∧
      (if 4095 ≤ y.lines then
        t.port = s.port.complete ∧
        t.fit = { s.fit with run := some (.storing (record y.lines) (r.block + 1) false false) }
      else if 32 * (r.block + 1) < r.length then
        t.fit = { s.fit with run := some (.reading { y with block := r.block + 1 }) } ∧
        t.port = s.port.complete.request
          { purpose := .fitRead,
            block := (((t.story q.key).map (·.chain)).getD []).getD (r.block + 1) 0, first := 0,
            count := min 32 (r.length - 32 * (r.block + 1)), aside := false }
      else
        t.port = s.port.complete ∧
        t.fit = { s.fit with run := some (.storing (record total) (r.block + 1) false false) })) ∧
  (∀ (g : FitRecord) (b : Nat) (since text : Bool) (q : FitRequest) (slot : Nat) (p : Plan) (i : Nat)
      (x : Placement) (r : Story) (s : State),
    s.fit.run = some (.storing g b since text) → s.fit.queue = [q] → s.fit.waiting = none →
    q.page = true → s.page.sendOrder = [slot] → s.plan slot = some p → p.state = .fitting →
    (p.placements.map (·.key)).Nodup → (∀ y ∈ p.placements, s.story y.key ≠ none) →
    s.page.requests = [] → s.page.outstanding = [i] → p.placements[i]? = some x →
    x.key = q.key → x.setting = q.setting → g.setting = q.setting → s.story q.key = some r →
    let stale := r.inEdit = true ∨ text = true ∨ since = true
    let counted (need : List Nat) : Plan :=
      { p with
          placements := p.placements.mapIdx fun j y =>
            if j ∈ need then { y with stale := y.stale + 1 } else y }
    let u : State :=
      { s with
          store :=
            { s.store with stories := s.store.with q.key fun y => { y with fit := some g } } }
    let need := u.needing p.placements
    ∃ t : State, exec .storeFitRecord s = .next t ∧
      (q.host = true → t.desk.latched .fitDone = true) ∧
      (stale → x.stale < 3 → PageWalked slot (counted [i]) [i] [] t) ∧
      (stale → 3 ≤ x.stale → fitUnsettled slot p t) ∧
      (¬stale → need = [] → PageDecided slot p u t) ∧
      (¬stale → need ≠ [] → (∀ j ∈ need, ∀ y, p.placements[j]? = some y → y.stale < 3) →
        PageWalked slot (counted need) need [] t) ∧
      (¬stale → (∃ j ∈ need, ∃ y, p.placements[j]? = some y ∧ 3 ≤ y.stale) →
        fitUnsettled slot p t)) ∧
  ∀ (g : FitRecord) (b : Nat) (since text : Bool) (q : FitRequest) (s : State),
    s.fit.run = some (.storing g b since text) → s.fit.queue = [q] → s.fit.waiting = none →
    s.page.sendOrder = [] →
    ∃ (t : State) (o : FitOutcome), exec .storeFitRecord s = .next t ∧
      t.fit =
        { s.fit with
            queue := [], run := none,
            last :=
              if q.host then some { key := q.key, setting := q.setting, outcome := o }
              else s.fit.last } ∧
      (q.host = true → t.desk.latched .fitDone = true) ∧
      t.port = s.port ∧ t.line = s.line ∧ t.traffic = s.traffic ∧ t.pass = s.pass ∧
      t.page = s.page ∧ t.clock = s.clock ∧ t.screen = s.screen ∧
      (s.story q.key = none → o = .noStory ∧ t.store = s.store) ∧
      ∀ r : Story, s.story q.key = some r →
        if r.inEdit = true ∨ text = true then o = .stale ∧ t.store = s.store
        else if since then
          o = .stale ∧
          t.store = { s.store with stories := s.store.with q.key fun p => { p with fit := none } }
        else
          o = .done ∧
          t.store = { s.store with stories := s.store.with q.key fun p => { p with fit := some g } }

/-- R121, R122, and R120 for what the desk unit is told. That every range is looked at before a repeated
key, so which field is the first found wrong, is the model's reading (log entry 20). -/
def Obligations.PlanSlotWritten : Prop :=
  ∀ (slot page edition : Nat) (send : Bool) (l : List PlacementSpec) (d : StartRecord) (s : State),
    s.hearsHost → s.desk.record = some d →
    let plan : Instr := .planPage slot page edition send l
    let busy : Prop := ∃ p, s.plan slot = some p ∧
      (p.state = .queued ∨ p.state = .fitting ∨ p.state = .sending)
    let left : List Nat :=
      match s.plan slot with
      | some p =>
          if p.state = .planned then s.desk.inputs.planned.modify (p.edition - 1) (· - 1)
          else s.desk.inputs.planned
      | none => s.desk.inputs.planned
    let written (t : State) (p : Option Plan) (planned : List Nat) : Prop :=
      t.desk.inputs = { s.desk.inputs with planned := planned } ∧
      t.desk.notices = s.desk.notices ∧ t.desk.state = s.desk.state ∧
      t.desk.record = s.desk.record ∧ t.desk.station = s.desk.station ∧
      t.desk.tendTimer = s.desk.tendTimer ∧ t.desk.missed = s.desk.missed ∧
      t.desk.sent = s.desk.sent ∧ t.desk.op = .idle ∧
      t = { s with page := { s.page with plans := s.page.plans.set slot p }, desk := t.desk }
    let wrong := planFault d.editions.length page edition l
    let sound : Prop :=
      1 ≤ page ∧ page ≤ 96 ∧ 1 ≤ edition ∧ edition ≤ 8 ∧ edition ≤ d.editions.length ∧
      1 ≤ l.length ∧ l.length ≤ 12 ∧ (l.map (·.key)).Nodup ∧
      ∀ p ∈ l, 1 ≤ p.key.origin ∧ p.key.origin ≤ 30 ∧ 1 ≤ p.key.serial ∧ p.key.serial ≤ 4095 ∧
        1 ≤ p.columns ∧ p.columns ≤ 6 ∧ p.setting.face ≤ 3 ∧ 60 ≤ p.setting.measure ∧
        p.setting.measure ≤ 400 ∧ 10 ≤ p.setting.size ∧ p.setting.size ≤ 144 ∧ p.budget ≤ 2000
    (3 < slot →
      exec (.clearPlan slot) s = .next (s.replied .clearPlan .badField none .nothing) ∧
      exec plan s = .next (s.replied .planPage .badField none .nothing)) ∧
    (slot ≤ 3 → busy →
      exec (.clearPlan slot) s = .next (s.replied .clearPlan .busy none .nothing) ∧
      exec plan s = .next (s.replied .planPage .busy none .nothing)) ∧
    (slot ≤ 3 → ¬busy →
      ∃ t : State, exec (.clearPlan slot) s = .next t ∧ written t none left ∧
        answeredDone .clearPlan .nothing t) ∧
    (wrong = none ↔ sound) ∧
    (∀ f, slot ≤ 3 → ¬busy → wrong = some f →
      exec plan s = .next (s.replied .planPage .badField (some f) .nothing)) ∧
    (slot ≤ 3 → ¬busy → wrong = none →
      ∃ t : State, exec plan s = .next t ∧
        written t
          (some
            { page := page, edition := edition, sendOverset := send,
              placements := l.map fun p =>
                { key := p.key, columns := p.columns,
                  setting :=
                    { p.setting with
                        lead := min 8 p.setting.lead, indent := min 36 p.setting.indent },
                  budget := p.budget, stale := 0, result := none },
              state := .planned, late := false })
          (left.modify (edition - 1) (· + 1)) ∧
        answeredDone .planPage
          (.planned (l.map fun p => (min 8 p.setting.lead, min 36 p.setting.indent))) t)

/-- R123, R124, R126, R128, R129, with R120, the take lock request of R21 and the edit-barred notification of
R176. The fields of a transfer record just begun, and frame in hand while its PAGE HEAD waits for a pending drop,
are the model's choice (log entries 34 and 37). -/
def Obligations.PageSentOff : Prop :=
  ∀ (slot : Nat) (s : State), s.hearsHost →
    let no (r : Result) (f : Option (FieldName × Nat)) : Prop :=
      exec (.sendPage slot) s = .next (s.replied .sendPage r f .nothing)
    (3 < slot → no .badField none) ∧
    (slot ≤ 3 → (∀ p, s.plan slot = some p → p.state ≠ .planned) → no .wrongState none) ∧
    ∀ p : Plan, slot ≤ 3 → s.plan slot = some p → p.state = .planned →
      let closed : Prop := 1 ≤ p.edition ∧ s.clock.editions[p.edition - 1]? = some .closed
      let fails (check : Nat) (k : Key) (r : Result) : Prop :=
        (check = 2 ∧ s.story k = none ∧ r = .noStory) ∨
        (check = 2 ∧ r = .wrongState ∧
          ∃ q, s.story k = some q ∧ q.custody ≠ .held ∧ q.custody ≠ .carbon) ∨
        (check = 3 ∧ r = .damaged ∧ ∃ q, s.story k = some q ∧ q.damaged = true) ∨
        (check = 4 ∧ r = .locked ∧ ∃ q, s.story k = some q ∧ q.lock ≠ none) ∨
        (check = 5 ∧ r = .busy ∧ ∃ b, some b ∈ s.pass.inbound ∧ b.offer.key = k)
      (closed → no .closed none) ∧
      (∀ (check i : Nat) (q : Placement) (r : Result), ¬closed →
        (∀ c q r, c < check → q ∈ p.placements → ¬fails c q.key r) →
        (∀ m q r, m < i → p.placements[m]? = some q → ¬fails check q.key r) →
        p.placements[i]? = some q → fails check q.key r → no r (some (.placement, i))) ∧
      (¬closed → (∀ c q r, q ∈ p.placements → ¬fails c q.key r) →
        ∃ t : State, exec (.sendPage slot) s = .next t ∧
          answeredDone .sendPage (.position s.page.sendOrder.length) t ∧
          t.store.stories.map Story.unlocked = s.store.stories.map Story.unlocked ∧
          t.store = { s.store with stories := t.store.stories } ∧ t.pass = s.pass ∧
          t.line = s.line ∧ t.clock = s.clock ∧ t.traffic.slots = s.traffic.slots ∧
          (s.page.sendOrder ≠ [] → slot ∉ s.page.sendOrder → s.fitStep = none →
            t.store.stories =
              (s.store.stories.map fun r =>
                if r.key ∈ p.placements.map (·.key) then { r with lock := some slot } else r) ∧
            t.page =
              { s.page with
                  plans := s.page.plans.set slot (some { p with state := .queued }),
                  sendOrder := s.page.sendOrder ++ [slot] } ∧
            t.desk.inputs =
              { s.desk.inputs with
                  planned := s.desk.inputs.planned.modify (p.edition - 1) (· - 1) } ∧
            t.traffic = s.traffic ∧ t.fit = s.fit) ∧
          (s.page.sendOrder = [] → s.fitStep = none → (p.placements.map (·.key)).Nodup →
            let need := s.needing p.placements
            (need = [] → PageDecided slot p s t) ∧
            (need ≠ [] → s.fit.waiting = none → s.fit.queue.length ≤ 4 →
              (∀ q ∈ s.fit.queue, ∀ x ∈ p.placements, q.key = x.key → q.setting ≠ x.setting) →
              PageWalked slot p need s.fit.queue t ∧ t.traffic = s.traffic ∧
              t.page.transfer = s.page.transfer) ∧
            (t.page.sendOrder = [slot] →
              t.store.stories =
                s.store.stories.map fun r =>
                  if r.key ∈ p.placements.map (·.key) then { r with lock := some slot }
                  else r)) ∧
          ∀ (n : Nat) (w : Window), n < 8 → s.screen.windows[n]? = some w →
            let barred := ∃ q ∈ p.placements, w.key = some q.key ∧
              ∃ r, s.story q.key = some r ∧ r.custody = .held
            ∃ v : Window, t.screen.windows[n]? = some v ∧ (¬barred → v.shown = w.shown) ∧
              (barred → v.shown = { w with mode := .read }.shown) ∧
              (barred → n < s.screenCount → w.mode = .edit → w.dirty.length = 21 →
                v =
                  { w with
                      mode := .read, dirty := false :: List.replicate 20 true,
                      staging := .ready (t.statusRow .read) }))

/-- R136, R125, R134, R103. That the slip writer asks at the end of the row rests on log entry 12, the fields of
the cleared transfer record on log entry 34. -/
def Obligations.PageCancelled : Prop :=
  ∀ (slot : Nat) (s : State), s.hearsHost →
    let no (r : Result) : Prop :=
      exec (.cancelPage slot) s = .next (s.replied .cancelPage r none .nothing)
    let underWay (p : Plan) : Prop :=
      p.state = .queued ∨ p.state = .fitting ∨ p.state = .sending
    (3 < slot → no .badField) ∧
    (slot ≤ 3 → (∀ p, s.plan slot = some p → ¬underWay p) → no .wrongState) ∧
    ∀ p : Plan, slot ≤ 3 → s.plan slot = some p → underWay p →
      let keys := p.placements.map (·.key)
      ∃ t : State, exec (.cancelPage slot) s = .next t ∧ answeredDone .cancelPage .nothing t ∧
        t.plan slot = some { p with state := .cancelled } ∧
        (∀ n ∈ t.page.sendOrder, n ≠ slot) ∧
        t.store.stories.map Story.unlocked = s.store.stories.map Story.unlocked ∧
        t.store = { s.store with stories := t.store.stories } ∧ t.pass = s.pass ∧
        t.line = s.line ∧ t.clock = s.clock ∧ t.traffic.slots = s.traffic.slots ∧
        (∀ (head : Nat) (rest : List Nat), s.page.sendOrder = head :: rest → head ≠ slot →
          p.state = .queued → s.fitStep = none →
          t.store.stories =
            (s.store.stories.map fun r => if r.key ∈ keys then { r with lock := none } else r) ∧
          t.page =
            { s.page with
                plans := s.page.plans.set slot (some { p with state := .cancelled }),
                sendOrder := s.page.sendOrder.filter (· ≠ slot) } ∧
          t.traffic = s.traffic ∧ t.fit = s.fit ∧
          t.desk = (s.replied .cancelPage .done none .nothing).desk ∧
          ∃ u : State, SlipFollows { s with store := t.store, page := t.page } u ∧
            RowsFollow u { t with desk := s.desk }) ∧
        (s.page.sendOrder = [slot] → (∀ q ∈ s.fit.queue, s.story q.key ≠ none) →
          t.desk.notices = s.desk.notices) ∧
        (s.page.sendOrder = [slot] → p.state = .fitting →
          t.fit.waiting = none ∧ (∀ q ∈ t.fit.queue, q.page = false) ∧ t.page.requests = [] ∧
          t.page.outstanding = [] ∧ t.traffic = s.traffic) ∧
        (s.page.sendOrder = [slot] → p.state = .sending → s.page.transfer.step ≠ .head →
          (∀ e ∈ s.traffic.queue, e.owner = .page → e.onLine = false ∧ e.withdrawing = false) →
          t.traffic.queue =
            (s.traffic.queue.filter fun e => e.owner ≠ .page) ++
              [newEntry .page
                { kind := .pageDrop, dest := { form := .role, number := s.typesetRole },
                  payload := oneByte p.page ++ [0x01#8] }] ∧
          t.page.transfer = { Transfer.clear with drop := some .cancelled })

/-- R130 to R132, R134; R199 for the payload of a PLACEMENT. The characters a read delivers are the subject
of ParityKept. The chunk index after the last chunk is the model's (log entry 33), and so is the dominant run measure at 0
after a slot end (log entry 11). -/
def Obligations.PageReadServed : Prop :=
  (∀ (i : Nat) (e : OutEntry) (slot : Nat) (p : Plan) (s : State),
    s.traffic.queue[i]? = some e → e.onLine = true → e.owner = .page → e.withdrawing = false →
    (∀ (j : Nat) (x : OutEntry), j ≠ i → s.traffic.queue[j]? = some x →
      x.onLine = false ∧ x.owner ≠ .page) →
    s.page.transfer.plan = some slot → s.plan slot = some p → p.state = .sending →
    s.page.sendOrder.head? = some slot →
    let role : Address := { form := .role, number := s.typesetRole }
    let tr := s.page.transfer
    let gone := s.traffic.queue.eraseIdx i
    let leads (u : Transfer) (l : List OutEntry) (t : State) : Prop :=
      exec (.slotEnd true false) s = .next t ∧ t.page = { s.page with transfer := u } ∧
      t.traffic =
        { s.traffic with
            queue := gone ++ l,
            counts :=
              { s.traffic.counts with sent := min 65535 (s.traffic.counts.sent + 1) } } ∧
      SettleFollows
        { s with
            line := { s.line with quiet := 0, dominantRun := 0 },
            page := { s.page with transfer := u },
            traffic := t.traffic } t
    let sends (u : Transfer) (kind : FrameKind) (payload : List Byte) : Prop :=
      ∃ t, leads { u with frame := .queued }
        [newEntry .page { kind := kind, dest := role, payload := payload }] t
    let reads (u : Transfer) (r : Story) (n : Nat) : Prop :=
      ∃ t, leads { u with frame := .preparing } [] t ∧
        ∃ a : Access,
          a =
            { purpose := .pageRead, block := r.chain.getD n 0, first := 0,
              count := min 32 (r.length - 32 * n), aside := false } ∧
          (t.port.busy = some a ∨ t.port.page = some a)
    let placement (u : Transfer) (n : Nat) : Prop :=
      ∀ (q : Placement) (f : PlacementResult), p.placements[n]? = some q → q.result = some f →
        sends { u with step := .placement, placement := n } .placement
          (oneByte n ++ keyBytes q.key ++ oneByte q.columns ++ twoBytes q.setting.measure ++
            oneByte q.setting.size ++ oneByte q.setting.lead ++ oneByte q.setting.face ++
            oneByte q.setting.indent ++ twoBytes f.lines ++
            oneByte (f.flags.estimated.toNat + 2 * f.flags.overwide.toNat +
              4 * f.flags.saturated.toNat + if 0 < f.overset then 8 else 0))
    let after (u : Transfer) : Prop :=
      (tr.placement + 1 < p.placements.length → placement u (tr.placement + 1)) ∧
      (p.placements.length ≤ tr.placement + 1 →
        sends { u with step := .finish } .pageEnd (oneByte p.page ++ twoBytes u.sent))
    (e.frame.kind = .pageHead → placement tr 0) ∧
    ∀ (q : Placement) (r : Story), p.placements[tr.placement]? = some q →
      s.story q.key = some r →
      (e.frame.kind = .placement →
        let u : Transfer := { tr with left := (r.length + 31) / 32, chunk := 0 }
        (0 < r.length → reads { u with step := .text } r 0) ∧ (r.length = 0 → after u)) ∧
      (e.frame.kind = .setText → tr.step = .text →
        let u : Transfer :=
          { tr with sent := tr.sent + 1, left := tr.left - 1, chunk := tr.chunk + 1 }
        (1 < tr.left → reads u r (tr.chunk + 1)) ∧ (tr.left ≤ 1 → after u))) ∧
  ∀ (a : Access) (upsets : List Upset) (slot : Nat) (p : Plan) (s : State),
    s.port.busy = some a → a.purpose = .pageRead → a.aside = false →
    s.page.transfer.plan = some slot → s.page.transfer.step = .text → s.plan slot = some p →
    p.state = .sending → s.traffic.held .page = 0 → s.desk.op ≠ .restarting →
    let x := s.endRead a upsets
    let role : Address := { form := .role, number := s.typesetRole }
    let tr := s.page.transfer
    (x.2.damaged = false →
      exec (.pageReadCompletion upsets) s =
        .next
          { x.1 with
              page := { s.page with transfer := { tr with frame := .queued } },
              traffic :=
                { s.traffic with
                    queue := s.traffic.queue ++
                      [newEntry .page
                        { kind := .setText, dest := role,
                          payload := oneByte tr.placement ++ twoBytes tr.chunk ++ x.2.codes }] } }) ∧
    (x.2.damaged = true →
      ∃ t : State, exec (.pageReadCompletion upsets) s = .next t ∧
        t.plan slot = some { p with state := .failed .damaged } ∧
        (∀ n ∈ t.page.sendOrder, n ≠ slot) ∧ t.page.transfer.drop = some .damaged ∧
        t.desk.latched .pageFailed = true ∧
        newEntry .page
          { kind := .pageDrop, dest := role, payload := oneByte p.page ++ [0x03#8] } ∈
          t.traffic.queue ∧
        t.pass = s.pass ∧ t.line = s.line ∧ t.clock = s.clock ∧
        t.traffic.slots = s.traffic.slots)

/-- R150 to R154, R137, R148, R156. That a TIME MARK built at the withdrawal report carries the time of the set is
the model's choice (log entry 25). -/
def Obligations.ClockSet : Prop :=
  ∀ (n : Nat) (s : State), s.hearsHost → s.clockLegal →
    (86400 ≤ n → exec (.setClock n) s = .next (s.replied .setClock .badField none .nothing)) ∧
    (n < 86400 →
      let o := s.setOutcome n
      let own := s.clockSource = s.desk.station
      let mark := newEntry .clock
        { kind := .timeMark, dest := { form := .role, number := 15 }, payload := threeBytes n }
      ∃ t : State, exec (.setClock n) s = .next t ∧ ClockMoved s t ∧
        answeredDone .setClock (.clockSet o.1 o.2.2 n (currentOf o.2.1)) t ∧
        t.traffic.slots = s.traffic.slots ∧
        t.clock =
          { s.clock with
              time := n, isSet := true, editions := o.2.1, nextMark := t.clock.nextMark } ∧
        (o.1 = .first → t.desk.latched .editionStep = true) ∧
        (∀ (k : Key) (r : Story) (e : Nat) (st : EditionState), o.1 = .first →
          currentOf o.2.1 = some (e, st) → s.story k = some r → r.lock = none →
          t.story k =
            some
              { r with
                  edition :=
                    if 1 ≤ r.edition ∧ o.2.1[r.edition - 1]? = some .closed then e
                    else r.edition }) ∧
        (o.1 = .first →
          LocksAtClose (fun e => 1 ≤ e ∧ o.2.1[e - 1]? = some .closed) o.2.1 s t) ∧
        (own → (∀ e ∈ s.traffic.queue, e.owner ≠ .clock) → s.traffic.heldShared < 3 →
          mark ∈ t.traffic.queue) ∧
        (own → (∃ e ∈ s.traffic.queue, e.owner = .clock ∧ e.onLine = true) →
          t.clock.nextMark = some n) ∧
        (¬own → t.clock.nextMark = s.clock.nextMark ∧
          t.traffic.queue.filter (fun e => e.owner = .clock) =
            s.traffic.queue.filter (fun e => e.owner = .clock)))

/-- R155. -/
def Obligations.MarkApplied : Prop :=
  ∀ (x : RxSlot) (rest : List RxSlot) (s : State), s.traffic.slots = x :: rest →
    x.kind = .timeMark → s.clockLegal →
    let n := threeAt x.payload 0
    let accepted := 1 ≤ s.clockSource ∧ s.clockSource ≤ 30 ∧ s.clockSource = x.source ∧ n < 86400
    (accepted →
      ∃ t : State, exec .timeMarkDispatch s = .next t ∧ ClockMoved s t ∧ t.traffic.slots = rest ∧
        t.clock =
          { s.clock with time := n, isSet := true, editions := (s.setOutcome n).2.1 } ∧
        t.traffic.queue.filter (fun e => e.owner = .clock) =
          s.traffic.queue.filter (fun e => e.owner = .clock)) ∧
    (¬accepted →
      ∃ t : State, exec .timeMarkDispatch s = .next t ∧
        SettleFollows
          { s with
              clock := { s.clock with ignored := min 65535 (s.clock.ignored + 1) },
              traffic := { s.traffic with slots := rest } } t)

/-- R141, R144, R146 to R148, R137, R156. -/
def Obligations.SecondTicks : Prop :=
  ∀ s : State, s.clockLegal →
    (s.clock.isSet = false → ∃ t : State, exec .secondEvent s = .next t ∧ SettleFollows s t) ∧
    (s.clock.isSet = true →
      let time := (s.clock.time + 1) % 86400
      let rolls := time = 60 * s.dayStart
      let after := editionsAt s.editionTable s.dayStart time (s.clock.editions, 0)
      let closing (i : Nat) : Prop := after.1[i]? = some .closed ∧
        (rolls ∨ s.clock.editions[i]? ≠ some .closed)
      let closes := ∃ i : Nat, closing i
      let marks := time % 60 = 0 ∧ s.clockSource = s.desk.station
      ∃ t : State, exec .secondEvent s = .next t ∧ ClockMoved s t ∧
        t.traffic.slots = s.traffic.slots ∧
        t.clock =
          { s.clock with time := time, editions := after.1, nextMark := t.clock.nextMark } ∧
        (time % 60 = 0 → ∀ n, n < s.screenCount → t.statusFresh n) ∧
        (after.2 ≠ 0 → t.desk.latched .editionStep = true) ∧
        (∀ (k : Key) (r : Story), s.story k = some r → r.lock = none →
          (¬closes → t.story k = some r) ∧
          (∀ (e : Nat) (st : EditionState), closes → currentOf after.1 = some (e, st) →
            t.story k =
              some
                { r with
                    edition :=
                      if 1 ≤ r.edition ∧ after.1[r.edition - 1]? = some .closed then e
                      else r.edition })) ∧
        ((∀ i j, closing i → closing j → i = j) →
          LocksAtClose (fun e => 1 ≤ e ∧ closing (e - 1)) after.1 s t) ∧
        (marks → (∀ e ∈ s.traffic.queue, e.owner ≠ .clock) → s.traffic.heldShared < 3 →
          newEntry .clock
            { kind := .timeMark, dest := { form := .role, number := 15 },
              payload := threeBytes time } ∈ t.traffic.queue) ∧
        (¬marks → t.clock.nextMark = s.clock.nextMark ∧
          t.traffic.queue.filter (fun e => e.owner = .clock) =
            s.traffic.queue.filter (fun e => e.owner = .clock)))

/-- R163 to R165, with R166, R167 and R170. -/
def Obligations.WindowsCommanded : Prop :=
  ∀ (screen : Nat) (s : State), s.hearsHost →
    let blank := ∀ w, s.screen.windows[screen]? = some w → w.key = none
    let dirtyText (w : Window) : Prop := ∀ r, 1 ≤ r → r ≤ 20 → w.dirty[r]? = some true
    let changed (c : CommandName) (f : Window → Window) (t : State) : Prop :=
      OnlyScreen s t ∧ t.screen.flash = s.screen.flash ∧
      t.desk = (s.replied c .done none .nothing).desk ∧
      t.screen.windows.map Window.shown = (s.screen.windows.modify screen f).map Window.shown
    (∀ (k : Option Key) (edit : Bool) (top : Nat),
      let no (r : Result) : Prop :=
        exec (.view screen k edit top) s = .next (s.replied .view r none .nothing)
      let bad := s.screenCount ≤ screen ∨ 4095 < top
      let known := ∀ key, k = some key → s.story key ≠ none
      let editable := ∃ key r, k = some key ∧ s.story key = some r ∧ r.custody = .held ∧ r.lock = none
      let mode : Mode := if k ≠ none ∧ edit = true then .edit else .read
      (bad → no .badField) ∧
      (¬bad → ¬known → no .noStory) ∧
      (¬bad → known → edit = true → ¬editable → no .wrongState) ∧
      (¬bad → known → (edit = true → editable) →
        ∃ t : State, exec (.view screen k edit top) s = .next t ∧ answeredDone .view .nothing t ∧
          changed .view (fun w => { w with key := k, mode := mode, cursor := none, waiting := false }) t ∧
          (∀ w, s.screen.windows[screen]? = some w → w.dirty.length = 21 →
            t.screen.windows[screen]? =
              some
                { key := k, mode := mode, top := if k = none then 0 else top, cursor := none,
                  dirty := false :: List.replicate 20 true, staging := .ready (s.statusRow mode),
                  lineMap := none, waiting := false }))) ∧
    (∀ top : Nat,
      let no (r : Result) : Prop :=
        exec (.scroll screen top) s = .next (s.replied .scroll r none .nothing)
      let bad := s.screenCount ≤ screen ∨ 4095 < top
      (bad → no .badField) ∧
      (¬bad → blank → no .wrongState) ∧
      (¬bad → ¬blank →
        ∃ t : State, exec (.scroll screen top) s = .next t ∧ answeredDone .scroll .nothing t ∧
          changed .scroll id t ∧
          (∀ w k r, s.screen.windows[screen]? = some w → w.dirty.length = 21 → w.key = some k →
            s.story k = some r → 0 < r.length →
            ∃ x, t.screen.windows[screen]? = some x ∧ x.top = top ∧ x.lineMap = none ∧
              dirtyText x))) ∧
    (∀ offset : Option Nat,
      let no (r : Result) : Prop :=
        exec (.cursor screen offset) s = .next (s.replied .cursor r none .nothing)
      (s.screenCount ≤ screen → no .badField) ∧
      (screen < s.screenCount → blank → no .wrongState) ∧
      (∀ w k r, screen < s.screenCount → s.screen.windows[screen]? = some w → w.key = some k →
        s.story k = some r →
        ((∃ o, offset = some o ∧ r.length < o) → no .badField) ∧
        ((∀ o, offset = some o → o ≤ r.length) →
          ∃ (t : State) (x : Window), exec (.cursor screen offset) s = .next t ∧
            answeredDone .cursor .nothing t ∧
            changed .cursor (fun w => { w with cursor := offset }) t ∧
            t.screen.windows[screen]? = some x ∧
            (w.lineMap ≠ none → x.lineMap = w.lineMap ∧ x.top = w.top) ∧
            (w.lineMap ≠ none → w.dirty.length = 21 →
              (∀ n, 1 ≤ n → n ≤ 20 → x.dirty[n]? = some true ∨
                x.staging =
                  .ready
                    { number := n, mode := w.mode, cursor := 0,
                      codes := List.replicate 64 0x20#8 }) ∧
              ∀ q, x.staging = .ready q → 1 ≤ q.number → q.codes = List.replicate 64 0x20#8) ∧
            (w.lineMap = none → 0 < r.length → w.dirty.length = 21 →
              x.top = w.top ∧ dirtyText x))))

/-- R173 to R175, with R172. That the expiry of a hold timer that does not run changes nothing is the
model's choice (log entry 1). -/
def Obligations.FlashShown : Prop :=
  let applied (text : List Byte) (source : Nat) (s t : State) : Prop :=
    let repeats := ∃ f, s.screen.flash = some f ∧ f.text = text ∧ f.source = source
    (repeats → t.screen.flash = s.screen.flash ∧ t.desk.notices = s.desk.notices) ∧
    (¬repeats →
      t.screen.flash =
        some
          { text := text, source := source,
            arrival := if s.clock.isSet = true then some s.clock.time else none } ∧
      t.desk.latched .flashIn = true ∧
      ∀ n : Notice, s.desk.latched n = true → t.desk.latched n = true)
  let fresh (s t : State) : Prop := ∀ n, n < s.screenCount → t.statusFresh n
  (∀ (text : List Byte) (dest : Address) (s : State), s.hearsHost →
    let no (r : Result) : Prop :=
      exec (.sendFlash text dest) s = .next (s.replied .sendFlash r none .nothing)
    let good := 1 ≤ text.length ∧ text.length ≤ 32 ∧
      (dest.form = .station → 1 ≤ dest.number ∧ dest.number ≤ 30 ∧ dest.number ≠ s.desk.station) ∧
      (dest.form = .role → 1 ≤ dest.number ∧ dest.number ≤ 15)
    let clean := ∀ c ∈ text, 0x20 ≤ c.toNat ∧ c.toNat ≤ 0x7E
    let waits := ∃ e ∈ s.traffic.queue, e.frame.kind = .flash
    (¬good → no .badField) ∧
    (good → ¬clean → no .badText) ∧
    (good → clean → waits → no .busy) ∧
    (good → clean → ¬waits → 3 ≤ s.traffic.heldShared → no .full) ∧
    (good → clean → ¬waits → s.traffic.heldShared < 3 →
      ∃ t : State, exec (.sendFlash text dest) s = .next t ∧ answeredDone .sendFlash .nothing t ∧
        OnlyScreen
          { s with
              traffic :=
                { s.traffic with
                    queue := s.traffic.queue ++
                      [newEntry .flash { kind := .flash, dest := dest, payload := text }] } } t ∧
        sameWindows s t ∧ applied text s.desk.station s t ∧
        (t.screen.flash ≠ s.screen.flash → fresh s t) ∧
        onlyNotices (s.replied .sendFlash .done none .nothing) t)) ∧
  (∀ (x : RxSlot) (rest : List RxSlot) (s : State), s.traffic.slots = x :: rest → x.kind = .flash →
    let text := x.payload.map fun c => if 0x20 ≤ c.toNat ∧ c.toNat ≤ 0x7E then c else 0x3F#8
    ∃ u t : State, exec .flashDispatch s = .next t ∧
      OnlyScreen { s with traffic := { s.traffic with slots := rest } } u ∧ onlyNotices s u ∧
      sameWindows s u ∧ applied text x.source s u ∧ SettleFollows u t ∧
      (t.screen.flash ≠ s.screen.flash → fresh s t)) ∧
  (∀ s : State, s.screen.flash = none → exec .holdTimerExpiry s = .next s) ∧
  (∀ s : State, s.screen.flash ≠ none →
    ∃ t : State, exec .holdTimerExpiry s = .next t ∧ OnlyScreen s t ∧ t.desk = s.desk ∧
      sameWindows s t ∧ t.screen.flash = none ∧ fresh s t)

/-- R160, R161, R168, R169, R200, with R113 and R114. What a read delivers is the subject of ParityKept. That
a row slot of a stopped timer changes nothing is the model's choice (log entry 1), that the port grants
before the next read is asked for its reading (log entry 12), and the start of an empty last line its choice
(log entry 15). -/
def Obligations.RowsBuiltAndSent : Prop :=
  (∀ s : State, s.screen.timer = false → exec .rowSlot s = .next s) ∧
  (∀ s : State, s.screen.timer = true →
    ∃ t : State, exec .rowSlot s = .next t ∧ t.desk = s.desk ∧ sameWindows s t ∧
      t.screen.flash = s.screen.flash ∧
      OnlyScreen { s with screen := { s.screen with lanes := t.screen.lanes } } t ∧
      t.screen.lanes.length = s.screen.lanes.length ∧
      (∀ (n : Nat) (l : Lane), s.screen.lanes[n]? = some l →
        (s.screenCount ≤ n → t.screen.lanes[n]? = some l) ∧
        ∀ w, n < s.screenCount → s.screen.windows[n]? = some w →
          (∀ r, w.staging = .ready r →
            t.screen.lanes[n]? =
              some { l with rows := min 65535 (l.rows + 1), last := some (.row r) } ∧
            ((∀ d ∈ w.dirty, d = false) →
              (t.screen.windows[n]?).map (·.staging) = some .empty)) ∧
          ((∀ r, w.staging ≠ .ready r) →
            t.screen.lanes[n]? =
              some { l with keeps := min 65535 (l.keeps + 1), last := some .keep }) ∧
          (∀ r, w.staging = .building r →
            (t.screen.windows[n]?).map (·.staging) = some (.building r)))) ∧
  (∀ l : Lane,
    (l.last = none → ∀ bit, l.levelAt bit = true) ∧
    ∀ m, l.last = some m →
      (m = .keep → m.chars = [0x02#8]) ∧
      (∀ r : Row, m = .row r →
        m.chars =
          [0x01#8, BitVec.ofNat 8 r.number, if r.mode = .edit then 0x01#8 else 0x00#8,
            BitVec.ofNat 8 r.cursor] ++ r.codes) ∧
      (∀ (i j : Nat) (c : Byte), m.chars[i]? = some c → j < 10 →
        l.levelAt (10 * i + j) =
          if j = 0 then false else if j = 9 then true else c.getLsbD (j - 1)) ∧
      ∀ bit, 10 * m.chars.length ≤ bit → l.levelAt bit = true) ∧
  (∀ (a : Access) (upsets : List Upset) (n r : Nat) (w : Window) (k : Key) (q : Story) (s : State),
    s.port.busy = some a → a.aside = false → s.desk.op ≠ .restarting →
    s.screen.windows[n]? = some w → w.key = some k → s.story k = some q →
    let x := s.endRead a upsets
    let building (b : Build) (p : Purpose) (block : Nat) : State :=
      { x.1 with
          screen := { x.1.screen with build := some b },
          port :=
            x.1.port.request
              { purpose := p, block := q.chain.getD block 0, first := 0,
                count := min 32 (q.length - 32 * block), aside := false } }
    (∀ (before : List Byte) (block : Nat), a.purpose = .walkRead → before.length = 32 * block →
      s.screen.build = some (walkAt n r w.top before) → 32 * block < q.length →
      a.count = min 32 (q.length - 32 * block) → ((lineStarts before).drop w.top).length < 20 →
      let text := before ++ x.2.codes
      let begun := (lineStarts text).drop w.top
      let starts := (breakText screenMeasure text).map (·.start)
      let mapped (top : Nat) (map : List Nat) : Prop :=
        ∃ (t : State) (y : Window), exec (.lineWalkReadCompletion upsets) s = .next t ∧
          OnlyScreen x.1 t ∧ t.desk = x.1.desk ∧ sameWindows s t ∧
          t.screen.flash = s.screen.flash ∧ t.screen.windows[n]? = some y ∧
          y.top = top ∧ y.lineMap = some map
      (20 ≤ begun.length → mapped w.top (begun.take 20)) ∧
      (begun.length < 20 → 32 * (block + 1) < q.length →
        exec (.lineWalkReadCompletion upsets) s =
          .next (building (walkAt n r w.top text) .walkRead (block + 1))) ∧
      (begun.length < 20 → q.length ≤ 32 * (block + 1) →
        (w.top < starts.length → mapped w.top ((starts.drop w.top).take 20)) ∧
        (starts.length ≤ w.top → mapped (starts.length - 1) starts.getLast?.toList))) ∧
    ∀ (start block : Nat) (before : List Byte), a.purpose = .renderRead → start / 32 ≤ block →
      before.length = 32 * block - start →
      s.screen.build = some (renderAt n r start block before) →
      (feedFrom screenMeasure start before).2 = [] →
      let text := before ++ x.2.codes.drop (start - 32 * block)
      let y := feedFrom screenMeasure start text
      let staged (l : Option ClosedLine) : Prop :=
        let items := (l.map ClosedLine.columns).getD []
        ∃ t : State, exec (.renderReadCompletion upsets) s = .next t ∧ OnlyScreen x.1 t ∧
          t.desk = x.1.desk ∧ sameWindows s t ∧ t.screen.flash = s.screen.flash ∧
          t.screen.windows[n]? =
            some
              { w with
                  dirty := w.dirty.set r false,
                  staging := .ready
                    { number := r, mode := w.mode, cursor := cursorColumn w.cursor items,
                      codes := rowCodes items } }
      (y.2 ≠ [] → staged y.2.head?) ∧
      (y.2 = [] → 32 * (block + 1) < q.length →
        exec (.renderReadCompletion upsets) s =
          .next (building (renderAt n r start (block + 1) text) .renderRead (block + 1))) ∧
      (y.2 = [] → q.length ≤ 32 * (block + 1) → staged (y.1.finish q.length).head?))

/-- R186, R187, with R43, R158, R160 and R193. Which field is named where the editions do not number the
edition count, and the order of the deadline tests, are the model's choice (log entry 28), and so is the loss
of the six upper bits of the mask (log entry 29). -/
def Obligations.Settled : Prop :=
  ∀ (r : StartSpec) (s : State), s.desk.ready = true → s.desk.state = .start →
    let no (f : FieldName) (n : Nat) : Prop :=
      exec (.settle r) s = .next (s.replied .settle .badField (some (f, n)) .nothing)
    let station := 1 ≤ s.desk.station ∧ s.desk.station ≤ 30
    let rate := r.rate ≤ 3
    let roles := r.roles.length ≤ 4 ∧ (∀ x ∈ r.roles, 1 ≤ x ∧ x ≤ 14) ∧ r.roles.Nodup
    let typeset := 1 ≤ r.typesetRole ∧ r.typesetRole ≤ 14
    let policy := r.policy ≤ 1
    let source := r.clockSource ≤ 30
    let day := r.dayStart ≤ 1439
    let count := 1 ≤ r.editionCount ∧ r.editionCount ≤ 8 ∧ r.editions.length = r.editionCount
    let deadline (i : Nat) : Prop := ∀ e, r.editions[i]? = some e →
      e.deadline ≤ 1439 ∧ ∀ b, 1 ≤ i → r.editions[i - 1]? = some b → b.deadline < e.deadline
    let screens := 1 ≤ r.screenCount ∧ r.screenCount ≤ 8
    let upTo3 := station ∧ rate ∧ roles
    let upTo8 := upTo3 ∧ typeset ∧ policy ∧ source ∧ day
    (¬station → no .stationNumber 0) ∧
    (station → ¬rate → no .rate 0) ∧
    (station → rate → ¬roles → no .roles 0) ∧
    (upTo3 → ¬typeset → no .typesetRole 0) ∧
    (upTo3 → typeset → ¬policy → no .policy 0) ∧
    (upTo3 → typeset → policy → ¬source → no .clockSource 0) ∧
    (upTo3 → typeset → policy → source → ¬day → no .dayStart 0) ∧
    (upTo8 → ¬count → no .editionCount 0) ∧
    (∀ i, upTo8 → count → (∀ j, j < i → deadline j) → ¬deadline i → no .deadline (i + 1)) ∧
    (upTo8 → count → (∀ i, deadline i) → ¬screens → no .screenCount 0) ∧
    (upTo8 → count → (∀ i, deadline i) → screens → s.line.state = .dormant →
      let stored : StartRecord :=
        { rate := r.rate, roles := r.roles, retry := min 7 r.retry, typesetRole := r.typesetRole,
          ask := decide (r.policy = 1), answerTime := max 100 (min 5000 r.answerTime),
          gapTime := max 50 (min 2000 r.gapTime), clockSource := r.clockSource,
          dayStart := r.dayStart,
          editions := r.editions.map fun e =>
            { deadline := e.deadline, lead := min 60 e.lead, margin := min 60 e.margin },
          screens := r.screenCount, rowSlot := max 2 (min 40 r.rowSlot),
          flashHold := max 10 (min 120 r.flashHold),
          tendWindow := max 250 (min 8000 r.tendWindow), mask := r.mask.setWidth 18 }
      ∃ t : State, exec (.settle r) s = .next t ∧ answeredDone .settle (.settled stored) t ∧
        t.desk.record = some stored ∧ t.desk.state = .onLine ∧ t.desk.tendTimer = some 10000 ∧
        t.desk.notices = s.desk.notices ∧ t.desk.missed = s.desk.missed ∧
        t.desk.station = s.desk.station ∧
        (t.desk.attention = false ↔ s.desk.notices &&& stored.mask ≠ 0#18) ∧
        t.desk.inputs =
          { s.desk.inputs with line := .joining, current := some (some (1, .opened)) } ∧
        OnlyScreen
          { s with
              line := { s.line with state := .joining, quiet := 0, join := 0, recessive := 0 },
              clock :=
                { s.clock with editions := List.replicate r.editionCount EditionState.opened },
              screen :=
                { s.screen with
                    timer := true,
                    status :=
                      { s.screen.status with
                          line := .joining, desk := .onLine,
                          current := some (some (1, .opened)) } } } t ∧
        t.screen.flash = s.screen.flash ∧
        ∀ n, n < r.screenCount →
          t.screen.windows[n]? =
            some
              { key := none, mode := .read, top := 0, cursor := none,
                dirty := false :: List.replicate 20 true, staging := .ready (t.statusRow .read),
                lineMap := none, waiting := false })

/-- R188, R189, R185, R196. That the expiry of a stopped tend timer changes nothing is the model's choice
(log entry 1). -/
def Obligations.Tended : Prop :=
  let told (st : DeskState) (s : State) : State :=
    { s with screen := { s.screen with status := { s.screen.status with desk := st } } }
  (∀ (byte : Byte) (r : StartRecord) (s : State), s.hearsHost → s.desk.record = some r →
    let even := ((List.range 8).filter fun i => byte.getLsbD i).length % 2 = 0
    (even →
      ∃ t : State, exec (.tend byte) s = .next t ∧
        answeredDone .tend (.tended .onLine s.desk.missed) t ∧
        t.desk.tendTimer = some r.tendWindow ∧ t.desk.missed = 0 ∧ t.desk.state = .onLine ∧
        t.desk.notices = s.desk.notices ∧ t.desk.record = some r ∧
        t.desk.station = s.desk.station ∧ t.desk.inputs = s.desk.inputs ∧
        OnlyScreen (if s.desk.state = .unattended then told .onLine s else s) t ∧
        sameWindows s t ∧ t.screen.flash = s.screen.flash) ∧
    (¬even →
      ∃ d : Desk, exec (.tend byte) s = .next { s with desk := d } ∧
        d.ready = false ∧ d.command = some (nameByte .tend) ∧
        d.response =
          some
            { name := nameByte .tend, result := .badField, field := some (.tendByte, 0),
              data := .nothing } ∧
        d.latched .tendBad = true ∧
        (∀ n : Notice, n ≠ .tendBad → d.latched n = s.desk.latched n) ∧
        d.tendTimer = s.desk.tendTimer ∧ d.missed = s.desk.missed ∧ d.state = s.desk.state ∧
        d.record = some r ∧ d.station = s.desk.station ∧ d.inputs = s.desk.inputs)) ∧
  (∀ s : State, s.desk.tendTimer = none → exec .tendTimerExpiry s = .next s) ∧
  (∀ (r : StartRecord) (w : Nat) (s : State), s.desk.tendTimer = some w → s.desk.record = some r →
    let counted : Desk :=
      { s.desk with tendTimer := some r.tendWindow, missed := min 255 (s.desk.missed + 1) }
    (s.desk.state ≠ .onLine → exec .tendTimerExpiry s = .next { s with desk := counted }) ∧
    (s.desk.state = .onLine →
      ∃ t : State, exec .tendTimerExpiry s = .next t ∧
        t.desk =
          { counted with
              state := .unattended, notices := t.desk.notices, attention := t.desk.attention,
              lamp := t.desk.lamp, lit := t.desk.lit } ∧
        t.desk.latched .tendMissed = true ∧
        (∀ n : Notice, n ≠ .tendMissed → t.desk.latched n = s.desk.latched n) ∧
        OnlyScreen (told .unattended s) t ∧ sameWindows s t ∧
        t.screen.flash = s.screen.flash ∧ ∀ n, n < s.screenCount → t.statusFresh n)) ∧
  ∀ s : State,
    (s.desk.lamp = .fast ∨ s.desk.lamp = .slow →
      exec .lampPhaseToggle s = .next { s with desk := { s.desk with lit := !s.desk.lit } }) ∧
    (s.desk.lamp ≠ .fast → s.desk.lamp ≠ .slow → exec .lampPhaseToggle s = .next s)

/-- R192, R194, R177. That the time left is some value of 0 to the window is the model's choice (log entry
6). -/
def Obligations.TimesReported : Prop :=
  let leftOf (timer left : Option Nat) : Prop :=
    (timer = none → left = none) ∧ ∀ w, timer = some w → ∃ m, m ≤ w ∧ left = some m
  (∀ s : State, s.desk.ready = true →
    (∃ (d : Desk) (left : Option Nat) (n : Nat),
      exec .report s = .next { s with desk := d, freeReads := n } ∧ leftOf s.desk.tendTimer left ∧
      d.ready = false ∧ d.command = some (nameByte .report) ∧
      d.response =
        some
          { name := nameByte .report, result := .done, field := none,
            data := .report s.desk.notices s.desk.state s.desk.missed left } ∧
      d.notices = 0#18 ∧ d.attention = true ∧ d.state = s.desk.state ∧
      d.missed = s.desk.missed ∧ d.tendTimer = s.desk.tendTimer ∧ d.record = s.desk.record ∧
      d.station = s.desk.station ∧ d.inputs = s.desk.inputs) ∧
    ∃ (left : Option Nat) (n : Nat),
      let d := s.desk
      let planned : Nat :=
        match d.inputs.current with
        | some (some (e, _)) => d.inputs.planned.getD (e - 1) 0
        | _ => 0
      exec .status s =
        .next
          { s.replied .status .done none
              (.status d.state d.station (decide (1 ≤ d.station ∧ d.station ≤ 30)) d.record
                d.notices d.attention d.lamp d.missed left d.inputs.line d.inputs.current
                d.inputs.offers planned) with
            freeReads := n } ∧ leftOf d.tendTimer left) ∧
  ∀ (r : StartRecord) (s : State), s.hearsHost → s.desk.record = some r →
    ∃ (flash : Option (Flash × Nat)) (n : Nat),
      exec .screenStatus s =
        .next
          { s.replied .screenStatus .done none
              (.screenStatus r.screens r.rowSlot r.flashHold (s.screen.windows.take r.screens)
                (s.screen.lanes.take r.screens) s.screen.build flash
                (s.traffic.queue.any fun e => e.frame.kind = .flash) s.screen.lastFlash) with
            freeReads := n } ∧
      flash.map (·.1) = s.screen.flash ∧ ∀ f m, flash = some (f, m) → m ≤ 1000 * r.flashHold

/-- R24, R47, R65, R95, R118, R140, R159, R179, R195, and R11 for an access set aside. The characters and marks
of a read are the subject of ParityKept. That the slip writer asks after the grant rests on log entry 12, the
count of characters replaced after RESTART, the number that orders the ended entries and the recorded state, none
outside STUCK, on log entry 24, the fields of the cleared transfer record on log
entry 34. The dominant run measure, as the rows tell it (log entry 11), is kept in JOINING (R41), and R47 does
not have RESTART clear it. -/
def Obligations.Restarted : Prop :=
  (∀ (a : Access) (upsets : List Upset) (s : State), s.port.busy = some a → a.aside = true →
    let x := s.endRead a upsets
    let answers (t : State) : Prop :=
      s.desk.op = .restarting → s.desk.ready = false → s.desk.command = some (nameByte .restart) →
      answeredDone .restart .nothing t ∧ t.desk.op = .idle
    (∀ row : Instr,
      (a.purpose = .pageRead ∧ row = .pageReadCompletion upsets) ∨
        (a.purpose = .fitRead ∧ row = .fitReadCompletion upsets) ∨
        (a.purpose = .walkRead ∧ row = .lineWalkReadCompletion upsets) ∨
        (a.purpose = .renderRead ∧ row = .renderReadCompletion upsets) →
      exec row s = .next x.1 ∧ answers x.1) ∧
    (∀ (n : Nat) (row : Instr),
      (a.purpose = .checkRead n ∧ row = .offerCheckReadCompletion upsets) ∨
        (a.purpose = .slipRead n ∧ row = .slipReadCompletion upsets) →
      ∃ t : State, exec row s = .next t ∧ SlipFollows x.1 t ∧ answers t) ∧
    ∀ (n p i : Nat) (codes : List Byte), a.purpose = .slipWrite n p i codes → a.first = 0 →
      (∀ y ∈ s.traffic.slots, y.inbound ≠ some { entry := n, pass := p }) →
      let legal (c : Byte) : Bool := decide (c = 0x0A#8 ∨ (0x20 ≤ c.toNat ∧ c.toNat ≤ 0x7F))
      ∃ u t : State, exec .slipWriteCompletion s = .next t ∧ RowsFollow u t ∧
        SlipFollows
          { s with
              store :=
                { s.store with
                    text := writeCodes a.block 0 (codes.map fun c => if legal c then c else 0x3F#8)
                      s.store.text,
                    marks := s.store.marks.filter (· ≠ a.block),
                    substitutions :=
                      min 65535 (s.store.substitutions + codes.countP fun c => !legal c) },
              port := s.port.complete, desk := u.desk } u ∧
        (s.desk.op ≠ .restarting → u.desk = s.desk) ∧
        (s.desk.op = .restarting →
          u.desk =
            { s.desk with
                op := .idle,
                response :=
                  some { name := s.desk.command.getD 0#8, result := .done, field := none,
                         data := .nothing } }) ∧
        answers t) ∧
  ∀ s : State, s.hearsHost →
    let bare (r : Story) : Story := { r with fit := none }
    let after (r : Story) : Story :=
      { r with
          custody := if r.custody = .outbound then .held else r.custody, lock := none,
          receivedFrom := none }
    let underWay (p : Plan) : Prop :=
      p.state = .queued ∨ p.state = .fitting ∨ p.state = .sending
    let held (k : Key) : Prop := ∃ r, s.story k = some r ∧ r.custody = .held
    ∃ t : State, exec .restart s = .next t ∧
      (t.store.stories.map bare = s.store.stories.map fun r => bare (after r)) ∧
      ((∀ record n b c, s.fit.run ≠ some (.storing record n b c)) →
        t.store.stories = s.store.stories.map after) ∧
      (∀ a b, s.store.reservations = [a, b] →
        t.store.reservations = [none, none] ∧
        t.store.pool = b.getD [] ++ (a.getD [] ++ s.store.pool)) ∧
      t.store.text = s.store.text ∧ t.store.serial = s.store.serial ∧ t.store.substitutions = 0 ∧
      t.port =
        { busy := s.port.busy.map fun a => { a with aside := true }, slip := none, desk := none,
          page := none, fit := none, row := none } ∧
      t.line =
        { state := .joining, recorded := none, quiet := 0, join := 0, recessive := 0,
          dominantRun := s.line.dominantRun, receiving := false, slot := .neither } ∧
      t.traffic =
        { queue := [], slots := [],
          counts :=
            { good := 0, checkFailures := 0, unknownKinds := 0, refusedFull := 0, sent := 0,
              failed := 0, arbLosses := 0 } } ∧
      (∀ (n : Nat) (p : Pass), s.pass.outbound[n]? = some (some p) →
        (p.phase = .ended → t.pass.outbound[n]? = some (some p)) ∧
        (p.phase ≠ .ended → ∃ e, s.pass.nextEnd ≤ e ∧ e < t.pass.nextEnd ∧
          t.pass.outbound[n]? =
            some
              (some
                { p with
                    phase := .ended, outcome := some .abandoned, endOrder := e, timer := false,
                    reading := none, ready := none }) ∧
          ∀ (m : Nat) (q x : Pass), m < n → s.pass.outbound[m]? = some (some q) →
            q.phase ≠ .ended → t.pass.outbound[m]? = some (some x) → x.endOrder < e)) ∧
      t.pass.inbound = [none, none] ∧ t.pass.offers = [] ∧
      t.fit =
        { s.fit with queue := [], run := none, waiting := none, last := none } ∧
      t.page =
        { plans := s.page.plans.map fun o => o.map fun p =>
            if p.state = .queued ∨ p.state = .fitting ∨ p.state = .sending then
              { p with
                  state := .planned,
                  placements := p.placements.map fun q => { q with stale := 0, result := none } }
            else p,
          sendOrder := [], requests := [], outstanding := [],
          transfer :=
            { plan := none, step := .head, placement := 0, chunk := 0, left := 0, sent := 0,
              frame := .none, drop := none },
          ready := none, dropReady := none } ∧
      t.clock = { s.clock with nextMark := none } ∧
      (∀ (n : Nat) (w : Window), n < s.screenCount → s.screen.windows[n]? = some w →
        ∃ mode, (mode = .edit ↔ w.mode = .edit ∧ ∃ k, w.key = some k ∧ held k) ∧
          t.screen.windows[n]? =
            some
              { key := w.key, mode := mode, top := w.top, cursor := w.cursor,
                dirty := false :: List.replicate 20 true, staging := .ready (t.statusRow mode),
                lineMap := none, waiting := false }) ∧
      t.screen.lanes = (s.screen.lanes.map fun l => { l with rows := 0, keeps := 0 }) ∧
      t.screen.timer = s.screen.timer ∧ t.screen.build = none ∧ t.screen.lastServed = 7 ∧
      t.screen.flash = s.screen.flash ∧ t.screen.lastFlash = none ∧
      t.screen.status =
        { line := .joining, offers := 0, desk := .onLine,
          current := some (currentOf s.clock.editions) } ∧
      t.desk.state = .onLine ∧ t.desk.notices = 0#18 ∧ t.desk.attention = true ∧
      t.desk.missed = 0 ∧ t.desk.tendTimer = some 10000 ∧ t.desk.record = s.desk.record ∧
      t.desk.station = s.desk.station ∧ t.desk.inputs.offers = 0 ∧
      ((∀ p, some p ∈ s.page.plans → ¬underWay p) →
        t.desk.inputs.planned = s.desk.inputs.planned) ∧
      (s.port.busy = none → answeredDone .restart .nothing t) ∧
      (s.port.busy ≠ none →
        t.desk.ready = false ∧ t.desk.command = some (nameByte .restart) ∧
        t.desk.op = .restarting ∧ t.desk.response = s.desk.response)

/-- R26, R28, R33, R37, R38, R41, R51, R52, R55. That an event which cannot arise changes nothing is the model's
choice (log entry 1), and so is the quiet count as an operand in whole bit periods, kept between rows, and
the dominant run measure, which is 0 once a row shows the line recessive (log entry 11). That a waiting TIME MARK
goes in with the time at which it was built is its reading (log entry 25). -/
def Obligations.AttemptsBegin : Prop :=
  (∀ (quiet : Nat) (s : State),
    let free := s.line.state = .active ∧ s.line.receiving = false ∧
      ∀ e ∈ s.traffic.queue, e.onLine = false
    let count := max s.line.quiet quiet
    let waits : State :=
      { s with
          line :=
            { s.line with
                quiet := count, dominantRun := 0,
                slot := if 2 ≤ count then .neither else s.line.slot } }
    (¬free → exec (.startMarkBegin quiet) s = .next s) ∧
    (free → s.traffic.queue = [] → exec (.startMarkBegin quiet) s = .next waits) ∧
    ∀ (i : Nat) (e : OutEntry), free → s.traffic.queue[i]? = some e →
      (∀ (j : Nat) (x : OutEntry), s.traffic.queue[j]? = some x →
        e.frame.kind.cls < x.frame.kind.cls ∨ (e.frame.kind.cls = x.frame.kind.cls ∧ i ≤ j)) →
      let begun : State :=
        { s with
            line :=
              { s.line with
                  quiet := 0, join := 0, recessive := 0, dominantRun := 0, slot := .neither },
            traffic :=
              { s.traffic with queue := s.traffic.queue.set i { e with onLine := true } } }
      (3 + 2 * e.frame.kind.cls + 2 * e.attempts ≤ count →
        exec (.startMarkBegin quiet) s = .next begun ∧
        ∀ start, begun.drives start none none =
          frameWire start (bodyBits (e.frame.onLine s.desk.station))) ∧
      (count < 3 + 2 * e.frame.kind.cls + 2 * e.attempts →
        exec (.startMarkBegin quiet) s = .next waits)) ∧
  (∀ (bit : Nat) (s : State),
    ((∀ e ∈ s.traffic.queue, e.onLine = false) → exec (.arbitrationLost bit) s = .next s) ∧
    ∀ (i : Nat) (e : OutEntry), s.traffic.queue[i]? = some e → e.onLine = true →
      (∀ (j : Nat) (x : OutEntry), j < i → s.traffic.queue[j]? = some x → x.onLine = false) →
      let lost := 1 ≤ bit ∧ bit ≤ 7 ∧
        (bodyBits (e.frame.onLine s.desk.station))[bit - 1]? = some true
      (¬lost → exec (.arbitrationLost bit) s = .next s) ∧
      (lost → e.withdrawing = false →
        exec (.arbitrationLost bit) s =
          .next
            { s with
                line := { s.line with receiving := true },
                traffic :=
                  { s.traffic with
                      queue := s.traffic.queue.set i
                        { e with onLine := false, losses := min 15 (e.losses + 1) },
                      counts :=
                        { s.traffic.counts with
                            arbLosses := min 65535 (s.traffic.counts.arbLosses + 1) } } }) ∧
      (lost → e.withdrawing = true →
        ∃ t : State, exec (.arbitrationLost bit) s = .next t ∧
          WithdrawnGone e
            { s with
                line := { s.line with receiving := true },
                traffic :=
                  { s.traffic with
                      queue := s.traffic.queue.eraseIdx i,
                      counts :=
                        { s.traffic.counts with
                            arbLosses := min 65535 (s.traffic.counts.arbLosses + 1) } } } t)) ∧
  ∀ (dominant lead : Nat) (s : State),
    let outside := s.line.receiving = false ∧ ∀ e ∈ s.traffic.queue, e.onLine = false
    let listens := s.line.state = .joining ∨ s.line.state = .active ∨ s.line.state = .listenOnly
    let mark := 12 ≤ dominant ∧ dominant ≤ 20 ∧ lead ≤ 16
    (listens → outside → mark →
      exec (.startMarkRecognised dominant lead) s =
        .next
          { s with
              line :=
                { s.line with
                    quiet := 0, join := 0, recessive := 0, receiving := true, slot := .neither,
                    dominantRun := 0 } }) ∧
    (¬(listens ∧ outside ∧ mark) →
      exec (.startMarkRecognised dominant lead) s = .next s) ∧
    (listens → outside → 64 < dominant →
      exec (.dominantLevelNotStartMark dominant) s = exec (.stuckLine dominant) s) ∧
    (s.line.state ≠ .dormant → outside → 1 ≤ dominant → ¬(listens ∧ 64 < dominant) →
      exec (.dominantLevelNotStartMark dominant) s =
        .next
          { s with
              line :=
                { s.line with
                    quiet := 0, join := 0, recessive := 0, dominantRun := 0, slot := .neither } }) ∧
    (¬(s.line.state ≠ .dormant ∧ outside ∧ 1 ≤ dominant) →
      exec (.dominantLevelNotStartMark dominant) s = .next s)

/-- R33, R39, R53 to R55, R69, R75, R76, R80, R132 to R134, R156, R174. That an event which cannot arise
changes nothing, and that SLOT_END ends the slots, is the model's choice (log entry 1); the counts are kept
between rows, and a slot end shows the line recessive, by log entry 11; the time of a waiting TIME MARK is that of
log entry 25, and the number that orders the ended entries that of log entry 24. -/
def Obligations.AttemptsEnd : Prop :=
  (∀ s : State, (∀ e ∈ s.traffic.queue, e.onLine = false) →
    (∀ taken refused, exec (.slotEnd taken refused) s =
      .next { s with line := { s.line with slot := .neither, dominantRun := 0 } }) ∧
    ∀ bit, exec (.bitError bit) s = .next s) ∧
  ∀ (i : Nat) (e : OutEntry) (s : State), s.traffic.queue[i]? = some e → e.onLine = true →
    (∀ (j : Nat) (x : OutEntry), j < i → s.traffic.queue[j]? = some x → x.onLine = false) →
    let ownOne (bit : Nat) : Prop :=
      8 ≤ bit ∧ (bodyBits (e.frame.onLine s.desk.station))[bit - 1]? = some true
    (∀ bit, ¬ownOne bit → exec (.bitError bit) s = .next s) ∧
    ∀ (row : Instr) (line : Line) (o : Option Cause),
      ((∃ taken refused, row = .slotEnd taken refused ∧
          line = { s.line with quiet := 0, dominantRun := 0 } ∧
          ((taken = true ∧ refused = false ∧ o = none) ∨
            (taken = false ∧ refused = true ∧ o = some .refused) ∨
            (taken = true ∧ refused = true ∧ o = some .partly) ∨
            (taken = false ∧ refused = false ∧ o = some .noTaker))) ∨
        (∃ bit, row = .bitError bit ∧ ownOne bit ∧
          line = { s.line with quiet := 0, join := 0, recessive := 0 } ∧ o = some .bitError)) →
      let done : OutEntry :=
        { e with
            onLine := false, attempts := e.attempts + 1,
            refusals :=
              if o = some .refused ∨ o = some .partly then e.refusals + 1 else e.refusals }
      let c := s.traffic.counts
      let sent : LineCounts := { c with sent := min 65535 (c.sent + 1) }
      let failed : LineCounts := { c with failed := min 65535 (c.failed + 1) }
      let now (queue : List OutEntry) (counts : LineCounts) : State :=
        { s with line := line, traffic := { s.traffic with queue := queue, counts := counts } }
      let gone := now (s.traffic.queue.eraseIdx i) (if o = none then sent else failed)
      let offers (n : Nat) (p : Pass) : Prop :=
        e.owner = .passEntry n ∧ e.frame.kind = .offer ∧ p.phase = .offering
      let slips (n : Nat) (p : Pass) : Prop :=
        e.owner = .passEntry n ∧ e.frame.kind = .slip ∧ p.phase = .sending
      let entry (n : Nat) (p : Pass) : Prop :=
        s.pass.outbound[n]? = some (some p) ∧ p.ready = none
      let final (p : Pass) : Prop := p.nextSlip = p.slipTotal - 1
      let leads (u : State) : Prop := ∃ t, exec row s = .next t ∧ SettleFollows u t
      let clears (u : State) : Prop :=
        ∃ t, exec row s = .next t ∧ SettleFollows u t ∧ t.page.transfer.drop = none ∧
          t.page.ready = none
      let withEntry (n : Nat) (p : Pass) (u : State) : State :=
        { u with pass := { u.pass with outbound := u.pass.outbound.set n (some p) } }
      let left (queue : List OutEntry) (t : State) : Prop :=
        ∃ l, t.traffic.queue = queue ++ l ∧ ∀ y ∈ l, y.owner = .page
      let ends := o = none ∨ ∃ x, o = some x ∧ s.retryLimit ≤ e.attempts
      (e.withdrawing = true →
        ∃ t : State, exec row s = .next t ∧
          WithdrawnGone e (now (s.traffic.queue.eraseIdx i) (if o = none then sent else c)) t) ∧
      (e.withdrawing = false →
        (∀ x, o = some x → e.attempts < s.retryLimit →
          (x ≠ .partly ∨ ∀ n p, s.pass.outbound[n]? = some (some p) → ¬offers n p) →
          leads (now (s.traffic.queue.set i { done with lastCause := some x }) c)) ∧
        (∀ n p, o = some .partly → e.attempts < s.retryLimit → offers n p →
          s.pass.outbound[n]? = some (some p) →
          (∀ (j : Nat) (y : OutEntry), j ≠ i → s.traffic.queue[j]? = some y →
            y.owner ≠ .passEntry n) →
          leads (withEntry n { p with timer := true } (now (s.traffic.queue.eraseIdx i) c))) ∧
        (ends →
          (e.owner = .answer ∨ e.owner = .clock → leads gone) ∧
          (e.owner = .flash →
            leads
              { gone with
                  screen :=
                    { s.screen with
                        lastFlash :=
                          match o with
                          | none => some .delivered
                          | some x => some (.failed x) } }) ∧
          (∀ n b, e.owner = .take n → s.pass.inbound[n]? = some (some b) →
            (o = none →
              leads
                { gone with
                    pass :=
                      { s.pass with
                          inbound := s.pass.inbound.set n
                            (some { b with confirmed := true, timer := !b.complete }) } }) ∧
            (o ≠ none →
              ∃ t, exec row s = .next t ∧ left (gone.traffic.withdraw (.take n)).queue t ∧
                t.pass.inbound[n]? = some none ∧ t.desk.latched .inboundLost = true ∧ t.traffic.counts = failed)) ∧
          (∀ n p, offers n p → entry n p →
            (o = none ∨ o = some .partly → leads (withEntry n { p with timer := true } gone)) ∧
            (∀ x, o = some x → x ≠ .partly →
              ∃ t, exec row s = .next t ∧ PassEnded n p (.failed (.line x)) gone t ∧
                t.traffic.counts = failed)) ∧
          (∀ n p r, slips n p → entry n p → s.story p.key = some r →
            (o = none → ¬final p → 0 < r.length →
              leads
                (withEntry n
                  { p with nextSlip := p.nextSlip + 1, reading := some (p.nextSlip + 1) } gone)) ∧
            (o ≠ none → ¬final p →
              ∃ x t, o = some x ∧ exec row s = .next t ∧
                PassEnded n p (.failed (.line x)) gone t ∧ t.traffic.counts = failed) ∧
            (final p →
              ∃ t q, exec row s = .next t ∧ left (gone.traffic.withdraw (.passEntry n)).queue t ∧
                t.desk.latched .passEnded = true ∧
                t.pass.outbound[n]? = some (some q) ∧ q.key = p.key ∧ q.phase = .ended ∧
                q.endOrder = s.pass.nextEnd ∧ t.traffic.counts = gone.traffic.counts ∧
                (o = none → q.outcome = some .delivered ∧
                  t.store.stories.map Story.unlocked =
                    (if p.keepCarbon then
                      (s.store.with p.key fun y => { y with custody := .carbon })
                    else s.store.stories.filter fun y => y.key ≠ p.key).map Story.unlocked) ∧
                (o ≠ none → q.outcome = some .unconfirmed ∧
                  t.store.stories.map Story.unlocked =
                    (s.store.with p.key fun y =>
                      { y with custody := .doubt p.keepCarbon }).map Story.unlocked))) ∧
          (∀ slot p, e.owner = .page → e.frame.kind ≠ .pageDrop →
            s.page.transfer.plan = some slot → s.plan slot = some p →
            (∀ x, o = some x →
              ∃ t, exec row s = .next t ∧ left gone.traffic.queue t ∧
                t.plan slot = some { p with state := .failed (.line x) } ∧
                t.desk.latched .pageFailed = true ∧ t.traffic.counts = failed) ∧
            (o = none → e.frame.kind = .pageEnd →
              ∃ t late, exec row s = .next t ∧ left gone.traffic.queue t ∧
                (late = true ↔
                  1 ≤ p.edition ∧ s.clock.editions[p.edition - 1]? = some .late) ∧
                t.plan slot = some { p with state := .sent, late := late } ∧
                t.desk.latched .pageSent = true ∧ t.traffic.counts = sent)) ∧
          (e.owner = .page → e.frame.kind = .pageDrop → s.page.ready = none →
            clears
              { gone with
                  page :=
                    { s.page with transfer := { s.page.transfer with drop := none } } }) ∧
          (∀ f, e.owner = .page → e.frame.kind = .pageDrop → s.page.ready = some f →
            (∀ (j : Nat) (y : OutEntry), j ≠ i → s.traffic.queue[j]? = some y → y.owner ≠ .page) →
            clears
              { gone with
                  page :=
                    { s.page with
                        ready := none,
                        transfer :=
                          { s.page.transfer with drop := none, frame := .queued } },
                  traffic :=
                    { gone.traffic with
                        queue := gone.traffic.queue ++ [newEntry .page f] } })))

/-- R30, R31, R33 to R36, R57 to R59, R62, R88. That a row which cannot arise changes nothing, and that a
missing lead after the frame end is a row of FRAME_ABANDONED, is the model's choice (log entry 1), and so is
the dominant run measure at 0 once a row shows the line recessive (log entry 11). -/
def Obligations.FramesReceived : Prop :=
  ∀ s : State,
    let listens := s.line.state = .joining ∨ s.line.state = .active ∨ s.line.state = .listenOnly
    let receives := listens ∧ s.line.receiving = true
    let c := s.traffic.counts
    let line (d : SlotDrive) : Line :=
      { s.line with receiving := false, slot := d, dominantRun := 0 }
    let bad (l : Line) : State :=
      { s with
          line := l,
          traffic :=
            { s.traffic with
                counts := { c with checkFailures := min 65535 (c.checkFailures + 1) } } }
    (¬receives → (∀ body, exec (.frameEnd body) s = .next s) ∧
      (∀ cause, cause ≠ .missingLead → exec (.frameAbandoned cause) s = .next s) ∧
      exec (.frameAbandoned .missingLead) s =
        .next { s with line := { s.line with slot := .neither, dominantRun := 0 } }) ∧
    (receives →
      exec (.frameAbandoned .missingLead) s = .next (bad (line .neither)) ∧
      (∀ cause, cause ≠ .missingLead →
        exec (.frameAbandoned cause) s =
          .next (bad { s.line with receiving := false, slot := .neither })) ∧
      ∀ (body : List Bool) (f : Frame), (readBody body = some (f, false) →
        exec (.frameEnd body) s = .next (bad (line .neither))) ∧
      (readBody body = some (f, true) →
        let good : LineCounts := { c with good := min 65535 (c.good + 1) }
        let full : LineCounts := { good with refusedFull := min 65535 (c.refusedFull + 1) }
        let now (d : SlotDrive) (slots : List RxSlot) (counts : LineCounts) : State :=
          { s with
              line := line d, traffic := { s.traffic with slots := slots, counts := counts } }
        let heard := f.source ≠ s.desk.station ∧ 1 ≤ f.source ∧ f.source ≤ 30 ∧
          ((f.dest.form = .station ∧ f.dest.number = s.desk.station) ∨
            (f.dest.form = .role ∧ (f.dest.number = 15 ∨ f.dest.number ∈ s.listenRoles)))
        let placed (k : FrameKind) (r : Option InboundRef) : List RxSlot :=
          s.traffic.slots ++
            [{ kind := k, source := f.source, dest := f.dest, payload := f.payload, inbound := r,
               handed := false }]
        let free := s.traffic.slots.length < 4
        let leads (u : State) : Prop := exec (.frameEnd body) s = .next u
        (f.source = s.desk.station →
          ∃ t, leads t ∧ t = { now .neither s.traffic.slots good with desk := t.desk } ∧
            onlyNotices s t ∧ t.desk.latched .sameNumber = true ∧
            ∀ n : Notice, n ≠ .sameNumber → t.desk.latched n = s.desk.latched n) ∧
        (f.source ≠ s.desk.station → ¬heard → leads (now .neither s.traffic.slots good)) ∧
        (heard →
          (f.receiving = none →
            leads (now .neither s.traffic.slots
              { good with unknownKinds := min 65535 (c.unknownKinds + 1) })) ∧
          (∀ k, f.receiving = some k → k ≠ .slip →
            (free → leads (now .taken (placed k none) good)) ∧
            (¬free → leads (now .refused s.traffic.slots full))) ∧
          (f.receiving = some .slip →
            let key := keyAt f.payload 0
            let i := twoAt f.payload 3
            let codes := f.payload.drop 5
            let entry (n : Nat) (b : Inbound) : Prop :=
              s.pass.inbound[n]? = some (some b) ∧ b.offer.key = key ∧ b.sender = f.source ∧
              ∀ (m : Nat) (x : Inbound), m < n → s.pass.inbound[m]? = some (some x) →
                x.offer.key ≠ key
            let follows (u : State) : Prop := ∃ t, leads t ∧ SettleFollows u t
            let changed (n : Nat) (b old : Inbound) (u : State) : State :=
              { u with
                  pass := { s.pass with inbound := s.pass.inbound.set n (some b) },
                  traffic :=
                    { u.traffic with
                        queue :=
                          if old.confirmed then s.traffic.queue
                          else (s.traffic.withdraw (.take n)).queue } }
            (∀ n b, entry n b → b.complete = false → i = b.expected →
              let right := codes.length =
                if i + 1 = b.offer.slipTotal then b.offer.length - 32 * (b.offer.slipTotal - 1)
                else 32
              let running := crcCodes b.running codes
              let next : Inbound :=
                { b with
                    confirmed := true, timer := true, expected := i + 1, running := running }
              let stored := now .taken (placed .slip (some { entry := n, pass := b.pass })) good
              (right → ¬free → follows (now .refused s.traffic.slots full)) ∧
              (right → free → i + 1 ≠ b.offer.slipTotal → follows (changed n next b stored)) ∧
              (right → free → i + 1 = b.offer.slipTotal → running = b.offer.storyCheck →
                follows (changed n { next with complete := true, timer := false } b stored)) ∧
              ((¬right ∨ (free ∧ i + 1 = b.offer.slipTotal ∧ running ≠ b.offer.storyCheck)) →
                ∃ t, leads t ∧ t.line = line .refused ∧ t.pass.inbound[n]? = some none ∧
                  t.desk.latched .inboundLost = true ∧ t.traffic.counts = good)) ∧
            (∀ n b, entry n b → i < b.expected →
              follows
                (if b.complete then now .taken s.traffic.slots good
                 else changed n { b with confirmed := true, timer := true } b
                  (now .taken s.traffic.slots good))) ∧
            (∀ n b, entry n b → b.expected ≤ i → (b.complete = true ∨ b.expected < i) →
              follows (now .refused s.traffic.slots good)) ∧
            ((∀ b, some b ∈ s.pass.inbound → b.offer.key ≠ key) →
              let again := ∃ r x, s.story key = some r ∧ r.custody = .held ∧
                r.receivedFrom = some x ∧ x.station = f.source ∧ i + 1 = x.slips
              (again → follows (now .taken s.traffic.slots good)) ∧
              (¬again → follows (now .refused s.traffic.slots good)))))))

/-- R33, R40, R41, R44, R46, R48. That an event which cannot arise changes nothing, and that DRIVE_FAULT is
taken while a slot decision stands, is the model's choice (log entry 1); so are the counts kept between rows
and the dominant run measure as the rows tell it (log entry 11), the recorded state, none once it has been returned
to (log entry 24), and that LINE RETRY leaves a reception and a slot to be asserted (log entry 39). -/
def Obligations.LineFaults : Prop :=
  let told (st : LineState) (s t : State) : Prop :=
    t.screen.status = { s.screen.status with line := st } ∧
    t.desk.inputs = { s.desk.inputs with line := st }
  let deskKept (s t : State) : Prop :=
    t.desk =
      { s.desk with notices := t.desk.notices, attention := t.desk.attention, lamp := t.desk.lamp,
                    lit := t.desk.lit, inputs := t.desk.inputs }
  let moves (row : Instr) (l : Line) (counts : LineCounts) (s t : State) : Prop :=
    exec row s = .next t ∧
    OnlyScreen
      { s with
          line := l, traffic := { s.traffic with counts := counts },
          screen := { s.screen with status := t.screen.status } } t ∧
    sameWindows s t ∧ t.screen.flash = s.screen.flash ∧ told l.state s t
  let released (l : Line) : Line :=
    { l with quiet := 0, join := 0, recessive := 0, dominantRun := 0, slot := .neither }
  (∀ s : State,
    let listens := s.line.state = .joining ∨ s.line.state = .active ∨ s.line.state = .listenOnly
    let sending := ∃ e ∈ s.traffic.queue, e.onLine = true
    let quiet := s.traffic.counts
    (¬(listens ∧ (sending ∨ s.line.slot ≠ .neither)) → exec .driveFault s = .next s) ∧
    (listens → s.line.slot ≠ .neither → ¬sending → s.line.state ≠ .listenOnly →
      ∃ t, moves .driveFault
          { released s.line with state := .listenOnly } quiet s t ∧
        deskKept s t ∧ t.desk.latched .lineFault = true) ∧
    (s.line.state = .listenOnly → s.line.slot ≠ .neither → ¬sending →
      ∃ (u : State) (t : State), exec .driveFault s = .next t ∧ RowsFollow u t ∧
        u = { s with line := released s.line, desk := u.desk } ∧
        onlyNotices s u ∧ u.desk.latched .lineFault = true ∧
        ∀ n : Notice, n ≠ .lineFault → u.desk.latched n = s.desk.latched n) ∧
    (∀ (i : Nat) (e : OutEntry), listens → s.traffic.queue[i]? = some e → e.onLine = true →
      (∀ (j : Nat) (x : OutEntry), j < i → s.traffic.queue[j]? = some x → x.onLine = false) →
      ∃ u t : State, exec .driveFault s = .next t ∧
        OnlyScreen
          { s with
              line := { released s.line with state := .listenOnly },
              screen := { s.screen with status := u.screen.status } } u ∧
        deskKept s u ∧ sameWindows s u ∧ u.screen.flash = s.screen.flash ∧
        u.desk.latched .lineFault = true ∧
        (s.line.state = .listenOnly → u.screen.status = s.screen.status ∧
          u.desk.inputs = s.desk.inputs) ∧
        (s.line.state ≠ .listenOnly → told .listenOnly s u) ∧
        ∀ bit, 8 ≤ bit →
          (bodyBits (e.frame.onLine s.desk.station))[bit - 1]? = some true →
          ∃ v : State, exec (.bitError bit) u = .next v ∧ RowsFollow v t) ∧
    (∀ (i : Nat) (e : OutEntry), listens → s.traffic.queue[i]? = some e → e.onLine = true →
      (∀ (j : Nat) (x : OutEntry), j < i → s.traffic.queue[j]? = some x → x.onLine = false) →
      e.withdrawing = false →
      ∃ t, exec .driveFault s = .next t ∧
        t.line = { released s.line with state := .listenOnly } ∧
        t.desk.latched .lineFault = true ∧
        (s.line.state ≠ .listenOnly →
          t.screen.status.line = .listenOnly ∧ t.desk.inputs.line = .listenOnly) ∧
        t.clock = s.clock ∧ t.store.text = s.store.text ∧
        ((∀ n, e.owner ≠ .take n) → t.traffic.slots = s.traffic.slots) ∧
        deskKept s t ∧ sameWindows s t ∧
        t.screen.lanes = s.screen.lanes ∧ t.screen.timer = s.screen.timer ∧
        t.screen.flash = s.screen.flash ∧
        (∀ queue counts,
          e.attempts < s.retryLimit ∧ counts = quiet ∧
              queue = s.traffic.queue.set i
                { e with
                    onLine := false, attempts := e.attempts + 1, lastCause := some .bitError } ∨
            s.retryLimit ≤ e.attempts ∧ (e.owner = .answer ∨ e.owner = .clock) ∧
              counts = { quiet with failed := min 65535 (quiet.failed + 1) } ∧
              queue = s.traffic.queue.eraseIdx i →
          ∃ u : State,
            OnlyScreen
              { s with
                  line := t.line, traffic := { s.traffic with queue := queue, counts := counts },
                  screen := { s.screen with status := u.screen.status } } u ∧
            deskKept s u ∧ sameWindows s u ∧ u.screen.flash = s.screen.flash ∧
            (s.line.state = .listenOnly → u.screen.status = s.screen.status ∧
              u.desk.inputs = s.desk.inputs) ∧
            (s.line.state ≠ .listenOnly → told .listenOnly s u) ∧ SettleFollows u t) ∧
        (e.attempts < s.retryLimit → t.traffic.counts = quiet ∧
          t.traffic.queue[i]? =
            some
              { e with
                  onLine := false, attempts := e.attempts + 1, lastCause := some .bitError }) ∧
        (s.retryLimit ≤ e.attempts →
          t.traffic.counts = { quiet with failed := min 65535 (quiet.failed + 1) })) ∧
    (∀ dominant : Nat,
      (dominant = 0 ∨ s.line.state = .dormant ∨ (listens ∧ sending ∧ 64 < dominant) →
        exec (.stuckLine dominant) s = .next s) ∧
      (s.line.state = .stuck → 1 ≤ dominant →
        exec (.stuckLine dominant) s =
          .next { s with line := { s.line with quiet := 0, join := 0, recessive := 0 } }) ∧
      (listens → 1 ≤ dominant → dominant ≤ 64 →
        exec (.stuckLine dominant) s =
          .next
            { s with
                line :=
                  { s.line with quiet := 0, join := 0, recessive := 0, dominantRun := dominant } }) ∧
      (listens → ¬sending → 64 < dominant →
        ∃ t, moves (.stuckLine dominant)
            { state := .stuck, recorded := some s.line.state, quiet := 0, join := 0, recessive := 0,
              dominantRun := 0, receiving := false, slot := .neither }
            (if s.line.receiving = true then
              { quiet with checkFailures := min 65535 (quiet.checkFailures + 1) }
            else quiet) s t ∧
          deskKept s t ∧ t.desk.latched .lineFault = true)) ∧
    (∀ recessive : Nat,
      (s.line.state ≠ .stuck → exec (.stuckRelease recessive) s = .next s) ∧
      (s.line.state = .stuck → max s.line.recessive recessive < 16 →
        exec (.stuckRelease recessive) s =
          .next
            { s with
                line :=
                  { s.line with recessive := max s.line.recessive recessive, dominantRun := 0 } }) ∧
      (∀ st, s.line.state = .stuck → 16 ≤ max s.line.recessive recessive → s.line.recorded = some st → st ≠ .stuck →
        ∃ t, moves (.stuckRelease recessive)
            { s.line with
                state := st, recorded := none, recessive := 0, dominantRun := 0, join := 0,
                quiet := if st = .active then 16 else 0 } quiet s t ∧
          deskKept s t ∧ t.desk.notices = s.desk.notices)) ∧
    (∀ recessive : Nat,
      let counts := s.line.state = .joining ∧ s.line.receiving = false
      (¬counts → exec (.joinComplete recessive) s = .next s) ∧
      let seen := max s.line.quiet recessive
      let slot := if 2 ≤ seen then SlotDrive.neither else s.line.slot
      (counts → max s.line.join recessive < 24 →
        exec (.joinComplete recessive) s =
          .next
            { s with
                line :=
                  { s.line with
                      join := max s.line.join recessive, quiet := seen, dominantRun := 0,
                      slot := slot } }) ∧
      (counts → 24 ≤ max s.line.join recessive →
        ∃ t, moves (.joinComplete recessive)
            { s.line with
                state := .active, join := 0, quiet := 24, dominantRun := 0, slot := slot } quiet s t ∧
          deskKept s t ∧ t.desk.notices = s.desk.notices))) ∧
  ∀ s : State, s.hearsHost →
    (s.line.state ≠ .listenOnly →
      exec .lineRetry s = .next (s.replied .lineRetry .wrongState none .nothing)) ∧
    (s.line.state = .listenOnly →
      ∃ t, moves .lineRetry
          { s.line with state := .joining, quiet := 0, join := 0, recessive := 0 }
          s.traffic.counts s t ∧
        answeredDone .lineRetry .nothing t ∧ t.desk.notices = s.desk.notices ∧
        t.desk.state = s.desk.state ∧ t.desk.record = s.desk.record ∧
        t.desk.tendTimer = s.desk.tendTimer ∧ t.desk.missed = s.desk.missed)
end

