-- ==== Sys2Proof/Laws/State.lean ====
section
/-!
SUPPORT. One lemma for each field and each change of one block of the state, and for the shared answers
of the desk link.
-/

namespace Sys2Proof.Machine

/-! ## `State.onStore` -/

@[simp] theorem State.onStore_store (f : Store → Store) (s : State) : (s.onStore f).store = f s.store := rfl
@[simp] theorem State.onStore_port (f : Store → Store) (s : State) : (s.onStore f).port = s.port := rfl
@[simp] theorem State.onStore_line (f : Store → Store) (s : State) : (s.onStore f).line = s.line := rfl
@[simp] theorem State.onStore_traffic (f : Store → Store) (s : State) : (s.onStore f).traffic = s.traffic := rfl
@[simp] theorem State.onStore_pass (f : Store → Store) (s : State) : (s.onStore f).pass = s.pass := rfl
@[simp] theorem State.onStore_fit (f : Store → Store) (s : State) : (s.onStore f).fit = s.fit := rfl
@[simp] theorem State.onStore_page (f : Store → Store) (s : State) : (s.onStore f).page = s.page := rfl
@[simp] theorem State.onStore_clock (f : Store → Store) (s : State) : (s.onStore f).clock = s.clock := rfl
@[simp] theorem State.onStore_screen (f : Store → Store) (s : State) : (s.onStore f).screen = s.screen := rfl
@[simp] theorem State.onStore_desk (f : Store → Store) (s : State) : (s.onStore f).desk = s.desk := rfl
@[simp] theorem State.onStore_freeReads (f : Store → Store) (s : State) : (s.onStore f).freeReads = s.freeReads := rfl
@[simp] theorem State.onStore_pending (f : Store → Store) (s : State) : (s.onStore f).pending = s.pending := rfl

/-! ## `State.onPort` -/

@[simp] theorem State.onPort_store (f : Port → Port) (s : State) : (s.onPort f).store = s.store := rfl
@[simp] theorem State.onPort_port (f : Port → Port) (s : State) : (s.onPort f).port = f s.port := rfl
@[simp] theorem State.onPort_line (f : Port → Port) (s : State) : (s.onPort f).line = s.line := rfl
@[simp] theorem State.onPort_traffic (f : Port → Port) (s : State) : (s.onPort f).traffic = s.traffic := rfl
@[simp] theorem State.onPort_pass (f : Port → Port) (s : State) : (s.onPort f).pass = s.pass := rfl
@[simp] theorem State.onPort_fit (f : Port → Port) (s : State) : (s.onPort f).fit = s.fit := rfl
@[simp] theorem State.onPort_page (f : Port → Port) (s : State) : (s.onPort f).page = s.page := rfl
@[simp] theorem State.onPort_clock (f : Port → Port) (s : State) : (s.onPort f).clock = s.clock := rfl
@[simp] theorem State.onPort_screen (f : Port → Port) (s : State) : (s.onPort f).screen = s.screen := rfl
@[simp] theorem State.onPort_desk (f : Port → Port) (s : State) : (s.onPort f).desk = s.desk := rfl
@[simp] theorem State.onPort_freeReads (f : Port → Port) (s : State) : (s.onPort f).freeReads = s.freeReads := rfl
@[simp] theorem State.onPort_pending (f : Port → Port) (s : State) : (s.onPort f).pending = s.pending := rfl

/-! ## `State.onLine` -/

@[simp] theorem State.onLine_store (f : Line → Line) (s : State) : (s.onLine f).store = s.store := rfl
@[simp] theorem State.onLine_port (f : Line → Line) (s : State) : (s.onLine f).port = s.port := rfl
@[simp] theorem State.onLine_line (f : Line → Line) (s : State) : (s.onLine f).line = f s.line := rfl
@[simp] theorem State.onLine_traffic (f : Line → Line) (s : State) : (s.onLine f).traffic = s.traffic := rfl
@[simp] theorem State.onLine_pass (f : Line → Line) (s : State) : (s.onLine f).pass = s.pass := rfl
@[simp] theorem State.onLine_fit (f : Line → Line) (s : State) : (s.onLine f).fit = s.fit := rfl
@[simp] theorem State.onLine_page (f : Line → Line) (s : State) : (s.onLine f).page = s.page := rfl
@[simp] theorem State.onLine_clock (f : Line → Line) (s : State) : (s.onLine f).clock = s.clock := rfl
@[simp] theorem State.onLine_screen (f : Line → Line) (s : State) : (s.onLine f).screen = s.screen := rfl
@[simp] theorem State.onLine_desk (f : Line → Line) (s : State) : (s.onLine f).desk = s.desk := rfl
@[simp] theorem State.onLine_freeReads (f : Line → Line) (s : State) : (s.onLine f).freeReads = s.freeReads := rfl
@[simp] theorem State.onLine_pending (f : Line → Line) (s : State) : (s.onLine f).pending = s.pending := rfl

/-! ## `State.onTraffic` -/

@[simp] theorem State.onTraffic_store (f : Traffic → Traffic) (s : State) : (s.onTraffic f).store = s.store := rfl
@[simp] theorem State.onTraffic_port (f : Traffic → Traffic) (s : State) : (s.onTraffic f).port = s.port := rfl
@[simp] theorem State.onTraffic_line (f : Traffic → Traffic) (s : State) : (s.onTraffic f).line = s.line := rfl
@[simp] theorem State.onTraffic_traffic (f : Traffic → Traffic) (s : State) : (s.onTraffic f).traffic = f s.traffic := rfl
@[simp] theorem State.onTraffic_pass (f : Traffic → Traffic) (s : State) : (s.onTraffic f).pass = s.pass := rfl
@[simp] theorem State.onTraffic_fit (f : Traffic → Traffic) (s : State) : (s.onTraffic f).fit = s.fit := rfl
@[simp] theorem State.onTraffic_page (f : Traffic → Traffic) (s : State) : (s.onTraffic f).page = s.page := rfl
@[simp] theorem State.onTraffic_clock (f : Traffic → Traffic) (s : State) : (s.onTraffic f).clock = s.clock := rfl
@[simp] theorem State.onTraffic_screen (f : Traffic → Traffic) (s : State) : (s.onTraffic f).screen = s.screen := rfl
@[simp] theorem State.onTraffic_desk (f : Traffic → Traffic) (s : State) : (s.onTraffic f).desk = s.desk := rfl
@[simp] theorem State.onTraffic_freeReads (f : Traffic → Traffic) (s : State) : (s.onTraffic f).freeReads = s.freeReads := rfl
@[simp] theorem State.onTraffic_pending (f : Traffic → Traffic) (s : State) : (s.onTraffic f).pending = s.pending := rfl

/-! ## `State.onPass` -/

@[simp] theorem State.onPass_store (f : PassEngine → PassEngine) (s : State) : (s.onPass f).store = s.store := rfl
@[simp] theorem State.onPass_port (f : PassEngine → PassEngine) (s : State) : (s.onPass f).port = s.port := rfl
@[simp] theorem State.onPass_line (f : PassEngine → PassEngine) (s : State) : (s.onPass f).line = s.line := rfl
@[simp] theorem State.onPass_traffic (f : PassEngine → PassEngine) (s : State) : (s.onPass f).traffic = s.traffic := rfl
@[simp] theorem State.onPass_pass (f : PassEngine → PassEngine) (s : State) : (s.onPass f).pass = f s.pass := rfl
@[simp] theorem State.onPass_fit (f : PassEngine → PassEngine) (s : State) : (s.onPass f).fit = s.fit := rfl
@[simp] theorem State.onPass_page (f : PassEngine → PassEngine) (s : State) : (s.onPass f).page = s.page := rfl
@[simp] theorem State.onPass_clock (f : PassEngine → PassEngine) (s : State) : (s.onPass f).clock = s.clock := rfl
@[simp] theorem State.onPass_screen (f : PassEngine → PassEngine) (s : State) : (s.onPass f).screen = s.screen := rfl
@[simp] theorem State.onPass_desk (f : PassEngine → PassEngine) (s : State) : (s.onPass f).desk = s.desk := rfl
@[simp] theorem State.onPass_freeReads (f : PassEngine → PassEngine) (s : State) : (s.onPass f).freeReads = s.freeReads := rfl
@[simp] theorem State.onPass_pending (f : PassEngine → PassEngine) (s : State) : (s.onPass f).pending = s.pending := rfl

/-! ## `State.onFit` -/

@[simp] theorem State.onFit_store (f : FitEngine → FitEngine) (s : State) : (s.onFit f).store = s.store := rfl
@[simp] theorem State.onFit_port (f : FitEngine → FitEngine) (s : State) : (s.onFit f).port = s.port := rfl
@[simp] theorem State.onFit_line (f : FitEngine → FitEngine) (s : State) : (s.onFit f).line = s.line := rfl
@[simp] theorem State.onFit_traffic (f : FitEngine → FitEngine) (s : State) : (s.onFit f).traffic = s.traffic := rfl
@[simp] theorem State.onFit_pass (f : FitEngine → FitEngine) (s : State) : (s.onFit f).pass = s.pass := rfl
@[simp] theorem State.onFit_fit (f : FitEngine → FitEngine) (s : State) : (s.onFit f).fit = f s.fit := rfl
@[simp] theorem State.onFit_page (f : FitEngine → FitEngine) (s : State) : (s.onFit f).page = s.page := rfl
@[simp] theorem State.onFit_clock (f : FitEngine → FitEngine) (s : State) : (s.onFit f).clock = s.clock := rfl
@[simp] theorem State.onFit_screen (f : FitEngine → FitEngine) (s : State) : (s.onFit f).screen = s.screen := rfl
@[simp] theorem State.onFit_desk (f : FitEngine → FitEngine) (s : State) : (s.onFit f).desk = s.desk := rfl
@[simp] theorem State.onFit_freeReads (f : FitEngine → FitEngine) (s : State) : (s.onFit f).freeReads = s.freeReads := rfl
@[simp] theorem State.onFit_pending (f : FitEngine → FitEngine) (s : State) : (s.onFit f).pending = s.pending := rfl

/-! ## `State.onPage` -/

@[simp] theorem State.onPage_store (f : PageEngine → PageEngine) (s : State) : (s.onPage f).store = s.store := rfl
@[simp] theorem State.onPage_port (f : PageEngine → PageEngine) (s : State) : (s.onPage f).port = s.port := rfl
@[simp] theorem State.onPage_line (f : PageEngine → PageEngine) (s : State) : (s.onPage f).line = s.line := rfl
@[simp] theorem State.onPage_traffic (f : PageEngine → PageEngine) (s : State) : (s.onPage f).traffic = s.traffic := rfl
@[simp] theorem State.onPage_pass (f : PageEngine → PageEngine) (s : State) : (s.onPage f).pass = s.pass := rfl
@[simp] theorem State.onPage_fit (f : PageEngine → PageEngine) (s : State) : (s.onPage f).fit = s.fit := rfl
@[simp] theorem State.onPage_page (f : PageEngine → PageEngine) (s : State) : (s.onPage f).page = f s.page := rfl
@[simp] theorem State.onPage_clock (f : PageEngine → PageEngine) (s : State) : (s.onPage f).clock = s.clock := rfl
@[simp] theorem State.onPage_screen (f : PageEngine → PageEngine) (s : State) : (s.onPage f).screen = s.screen := rfl
@[simp] theorem State.onPage_desk (f : PageEngine → PageEngine) (s : State) : (s.onPage f).desk = s.desk := rfl
@[simp] theorem State.onPage_freeReads (f : PageEngine → PageEngine) (s : State) : (s.onPage f).freeReads = s.freeReads := rfl
@[simp] theorem State.onPage_pending (f : PageEngine → PageEngine) (s : State) : (s.onPage f).pending = s.pending := rfl

/-! ## `State.onClock` -/

@[simp] theorem State.onClock_store (f : Clock → Clock) (s : State) : (s.onClock f).store = s.store := rfl
@[simp] theorem State.onClock_port (f : Clock → Clock) (s : State) : (s.onClock f).port = s.port := rfl
@[simp] theorem State.onClock_line (f : Clock → Clock) (s : State) : (s.onClock f).line = s.line := rfl
@[simp] theorem State.onClock_traffic (f : Clock → Clock) (s : State) : (s.onClock f).traffic = s.traffic := rfl
@[simp] theorem State.onClock_pass (f : Clock → Clock) (s : State) : (s.onClock f).pass = s.pass := rfl
@[simp] theorem State.onClock_fit (f : Clock → Clock) (s : State) : (s.onClock f).fit = s.fit := rfl
@[simp] theorem State.onClock_page (f : Clock → Clock) (s : State) : (s.onClock f).page = s.page := rfl
@[simp] theorem State.onClock_clock (f : Clock → Clock) (s : State) : (s.onClock f).clock = f s.clock := rfl
@[simp] theorem State.onClock_screen (f : Clock → Clock) (s : State) : (s.onClock f).screen = s.screen := rfl
@[simp] theorem State.onClock_desk (f : Clock → Clock) (s : State) : (s.onClock f).desk = s.desk := rfl
@[simp] theorem State.onClock_freeReads (f : Clock → Clock) (s : State) : (s.onClock f).freeReads = s.freeReads := rfl
@[simp] theorem State.onClock_pending (f : Clock → Clock) (s : State) : (s.onClock f).pending = s.pending := rfl

/-! ## `State.onScreen` -/

@[simp] theorem State.onScreen_store (f : Screen → Screen) (s : State) : (s.onScreen f).store = s.store := rfl
@[simp] theorem State.onScreen_port (f : Screen → Screen) (s : State) : (s.onScreen f).port = s.port := rfl
@[simp] theorem State.onScreen_line (f : Screen → Screen) (s : State) : (s.onScreen f).line = s.line := rfl
@[simp] theorem State.onScreen_traffic (f : Screen → Screen) (s : State) : (s.onScreen f).traffic = s.traffic := rfl
@[simp] theorem State.onScreen_pass (f : Screen → Screen) (s : State) : (s.onScreen f).pass = s.pass := rfl
@[simp] theorem State.onScreen_fit (f : Screen → Screen) (s : State) : (s.onScreen f).fit = s.fit := rfl
@[simp] theorem State.onScreen_page (f : Screen → Screen) (s : State) : (s.onScreen f).page = s.page := rfl
@[simp] theorem State.onScreen_clock (f : Screen → Screen) (s : State) : (s.onScreen f).clock = s.clock := rfl
@[simp] theorem State.onScreen_screen (f : Screen → Screen) (s : State) : (s.onScreen f).screen = f s.screen := rfl
@[simp] theorem State.onScreen_desk (f : Screen → Screen) (s : State) : (s.onScreen f).desk = s.desk := rfl
@[simp] theorem State.onScreen_freeReads (f : Screen → Screen) (s : State) : (s.onScreen f).freeReads = s.freeReads := rfl
@[simp] theorem State.onScreen_pending (f : Screen → Screen) (s : State) : (s.onScreen f).pending = s.pending := rfl

/-! ## `State.onDesk` -/

@[simp] theorem State.onDesk_store (f : Desk → Desk) (s : State) : (s.onDesk f).store = s.store := rfl
@[simp] theorem State.onDesk_port (f : Desk → Desk) (s : State) : (s.onDesk f).port = s.port := rfl
@[simp] theorem State.onDesk_line (f : Desk → Desk) (s : State) : (s.onDesk f).line = s.line := rfl
@[simp] theorem State.onDesk_traffic (f : Desk → Desk) (s : State) : (s.onDesk f).traffic = s.traffic := rfl
@[simp] theorem State.onDesk_pass (f : Desk → Desk) (s : State) : (s.onDesk f).pass = s.pass := rfl
@[simp] theorem State.onDesk_fit (f : Desk → Desk) (s : State) : (s.onDesk f).fit = s.fit := rfl
@[simp] theorem State.onDesk_page (f : Desk → Desk) (s : State) : (s.onDesk f).page = s.page := rfl
@[simp] theorem State.onDesk_clock (f : Desk → Desk) (s : State) : (s.onDesk f).clock = s.clock := rfl
@[simp] theorem State.onDesk_screen (f : Desk → Desk) (s : State) : (s.onDesk f).screen = s.screen := rfl
@[simp] theorem State.onDesk_desk (f : Desk → Desk) (s : State) : (s.onDesk f).desk = f s.desk := rfl
@[simp] theorem State.onDesk_freeReads (f : Desk → Desk) (s : State) : (s.onDesk f).freeReads = s.freeReads := rfl
@[simp] theorem State.onDesk_pending (f : Desk → Desk) (s : State) : (s.onDesk f).pending = s.pending := rfl

/-! ## `State.useFree` -/

@[simp] theorem State.useFree_store (s : State) :
    (s.useFree).store = s.store := rfl
@[simp] theorem State.useFree_port (s : State) :
    (s.useFree).port = s.port := rfl
@[simp] theorem State.useFree_line (s : State) :
    (s.useFree).line = s.line := rfl
@[simp] theorem State.useFree_traffic (s : State) :
    (s.useFree).traffic = s.traffic := rfl
@[simp] theorem State.useFree_pass (s : State) :
    (s.useFree).pass = s.pass := rfl
@[simp] theorem State.useFree_fit (s : State) :
    (s.useFree).fit = s.fit := rfl
@[simp] theorem State.useFree_page (s : State) :
    (s.useFree).page = s.page := rfl
@[simp] theorem State.useFree_clock (s : State) :
    (s.useFree).clock = s.clock := rfl
@[simp] theorem State.useFree_screen (s : State) :
    (s.useFree).screen = s.screen := rfl
@[simp] theorem State.useFree_desk (s : State) :
    (s.useFree).desk = s.desk := rfl
@[simp] theorem State.useFree_freeReads (s : State) :
    (s.useFree).freeReads = s.freeReads + 1 := rfl
@[simp] theorem State.useFree_pending (s : State) :
    (s.useFree).pending = s.pending := rfl

/-! ## `State.raise` -/

@[simp] theorem State.raise_store (n : Notice) (s : State) :
    (s.raise n).store = s.store := rfl
@[simp] theorem State.raise_port (n : Notice) (s : State) :
    (s.raise n).port = s.port := rfl
@[simp] theorem State.raise_line (n : Notice) (s : State) :
    (s.raise n).line = s.line := rfl
@[simp] theorem State.raise_traffic (n : Notice) (s : State) :
    (s.raise n).traffic = s.traffic := rfl
@[simp] theorem State.raise_pass (n : Notice) (s : State) :
    (s.raise n).pass = s.pass := rfl
@[simp] theorem State.raise_fit (n : Notice) (s : State) :
    (s.raise n).fit = s.fit := rfl
@[simp] theorem State.raise_page (n : Notice) (s : State) :
    (s.raise n).page = s.page := rfl
@[simp] theorem State.raise_clock (n : Notice) (s : State) :
    (s.raise n).clock = s.clock := rfl
@[simp] theorem State.raise_screen (n : Notice) (s : State) :
    (s.raise n).screen = s.screen := rfl
@[simp] theorem State.raise_desk (n : Notice) (s : State) :
    (s.raise n).desk = Desk.refresh { s.desk with notices := s.desk.notices ||| BitVec.ofNat 18 (2 ^ n.bit) } := rfl
@[simp] theorem State.raise_freeReads (n : Notice) (s : State) :
    (s.raise n).freeReads = s.freeReads := rfl
@[simp] theorem State.raise_pending (n : Notice) (s : State) :
    (s.raise n).pending = s.pending := rfl

/-! ## `State.tellDesk` -/

@[simp] theorem State.tellDesk_store (f : LampInputs → LampInputs) (s : State) :
    (s.tellDesk f).store = s.store := rfl
@[simp] theorem State.tellDesk_port (f : LampInputs → LampInputs) (s : State) :
    (s.tellDesk f).port = s.port := rfl
@[simp] theorem State.tellDesk_line (f : LampInputs → LampInputs) (s : State) :
    (s.tellDesk f).line = s.line := rfl
@[simp] theorem State.tellDesk_traffic (f : LampInputs → LampInputs) (s : State) :
    (s.tellDesk f).traffic = s.traffic := rfl
@[simp] theorem State.tellDesk_pass (f : LampInputs → LampInputs) (s : State) :
    (s.tellDesk f).pass = s.pass := rfl
@[simp] theorem State.tellDesk_fit (f : LampInputs → LampInputs) (s : State) :
    (s.tellDesk f).fit = s.fit := rfl
@[simp] theorem State.tellDesk_page (f : LampInputs → LampInputs) (s : State) :
    (s.tellDesk f).page = s.page := rfl
@[simp] theorem State.tellDesk_clock (f : LampInputs → LampInputs) (s : State) :
    (s.tellDesk f).clock = s.clock := rfl
@[simp] theorem State.tellDesk_screen (f : LampInputs → LampInputs) (s : State) :
    (s.tellDesk f).screen = s.screen := rfl
@[simp] theorem State.tellDesk_desk (f : LampInputs → LampInputs) (s : State) :
    (s.tellDesk f).desk = Desk.refresh { s.desk with inputs := f s.desk.inputs } := rfl
@[simp] theorem State.tellDesk_freeReads (f : LampInputs → LampInputs) (s : State) :
    (s.tellDesk f).freeReads = s.freeReads := rfl
@[simp] theorem State.tellDesk_pending (f : LampInputs → LampInputs) (s : State) :
    (s.tellDesk f).pending = s.pending := rfl

/-! ## `State.respond` -/

@[simp] theorem State.respond_store (r : Result) (x : Option (FieldName × Nat)) (d : ResponseData) (s : State) :
    (s.respond r x d).store = s.store := rfl
@[simp] theorem State.respond_port (r : Result) (x : Option (FieldName × Nat)) (d : ResponseData) (s : State) :
    (s.respond r x d).port = s.port := rfl
@[simp] theorem State.respond_line (r : Result) (x : Option (FieldName × Nat)) (d : ResponseData) (s : State) :
    (s.respond r x d).line = s.line := rfl
@[simp] theorem State.respond_traffic (r : Result) (x : Option (FieldName × Nat)) (d : ResponseData) (s : State) :
    (s.respond r x d).traffic = s.traffic := rfl
@[simp] theorem State.respond_pass (r : Result) (x : Option (FieldName × Nat)) (d : ResponseData) (s : State) :
    (s.respond r x d).pass = s.pass := rfl
@[simp] theorem State.respond_fit (r : Result) (x : Option (FieldName × Nat)) (d : ResponseData) (s : State) :
    (s.respond r x d).fit = s.fit := rfl
@[simp] theorem State.respond_page (r : Result) (x : Option (FieldName × Nat)) (d : ResponseData) (s : State) :
    (s.respond r x d).page = s.page := rfl
@[simp] theorem State.respond_clock (r : Result) (x : Option (FieldName × Nat)) (d : ResponseData) (s : State) :
    (s.respond r x d).clock = s.clock := rfl
@[simp] theorem State.respond_screen (r : Result) (x : Option (FieldName × Nat)) (d : ResponseData) (s : State) :
    (s.respond r x d).screen = s.screen := rfl
@[simp] theorem State.respond_desk (r : Result) (x : Option (FieldName × Nat)) (d : ResponseData) (s : State) :
    (s.respond r x d).desk = { s.desk with
      op := .idle,
      response := some { name := s.desk.command.getD 0#8, result := r, field := x, data := d } } := rfl
@[simp] theorem State.respond_freeReads (r : Result) (x : Option (FieldName × Nat)) (d : ResponseData) (s : State) :
    (s.respond r x d).freeReads = s.freeReads := rfl
@[simp] theorem State.respond_pending (r : Result) (x : Option (FieldName × Nat)) (d : ResponseData) (s : State) :
    (s.respond r x d).pending = s.pending := rfl

/-! ## `State.takeTransfer` -/

@[simp] theorem State.takeTransfer_store (n : Byte) (s : State) :
    (s.takeTransfer n).store = s.store := rfl
@[simp] theorem State.takeTransfer_port (n : Byte) (s : State) :
    (s.takeTransfer n).port = s.port := rfl
@[simp] theorem State.takeTransfer_line (n : Byte) (s : State) :
    (s.takeTransfer n).line = s.line := rfl
@[simp] theorem State.takeTransfer_traffic (n : Byte) (s : State) :
    (s.takeTransfer n).traffic = s.traffic := rfl
@[simp] theorem State.takeTransfer_pass (n : Byte) (s : State) :
    (s.takeTransfer n).pass = s.pass := rfl
@[simp] theorem State.takeTransfer_fit (n : Byte) (s : State) :
    (s.takeTransfer n).fit = s.fit := rfl
@[simp] theorem State.takeTransfer_page (n : Byte) (s : State) :
    (s.takeTransfer n).page = s.page := rfl
@[simp] theorem State.takeTransfer_clock (n : Byte) (s : State) :
    (s.takeTransfer n).clock = s.clock := rfl
@[simp] theorem State.takeTransfer_screen (n : Byte) (s : State) :
    (s.takeTransfer n).screen = s.screen := rfl
@[simp] theorem State.takeTransfer_desk (n : Byte) (s : State) :
    (s.takeTransfer n).desk = { s.desk with ready := false, command := some n } := rfl
@[simp] theorem State.takeTransfer_freeReads (n : Byte) (s : State) :
    (s.takeTransfer n).freeReads = s.freeReads := rfl
@[simp] theorem State.takeTransfer_pending (n : Byte) (s : State) :
    (s.takeTransfer n).pending = s.pending := rfl

end Sys2Proof.Machine
end

