-- ==== Sys2Proof/Laws/Ops.lean ====
section
/-!
SUPPORT. What the shared operations can do: the signals of the desk unit, the store port, the out queue,
the answers of the desk link.
-/

namespace Sys2Proof.Machine

/-! ## Signals (R193, R196) -/

/-- ATTENTION depends on the notices and the start record alone. -/
theorem Desk.attentionLevel_congr {d e : Desk} (hn : d.notices = e.notices) (hr : d.record = e.record) :
    d.attentionLevel = e.attentionLevel := by
  simp [Desk.attentionLevel, hn, hr]

/-- The lamp depends on the notices, the desk state and the inputs alone. -/
theorem Desk.lampPattern_congr {d e : Desk} (hn : d.notices = e.notices) (hs : d.state = e.state)
    (hi : d.inputs = e.inputs) : d.lampPattern = e.lampPattern := by
  simp [Desk.lampPattern, Desk.latched, hn, hs, hi]

@[simp] theorem Desk.refresh_notices (d : Desk) : d.refresh.notices = d.notices := by
  unfold Desk.refresh; split <;> rfl
@[simp] theorem Desk.refresh_record (d : Desk) : d.refresh.record = d.record := by
  unfold Desk.refresh; split <;> rfl
@[simp] theorem Desk.refresh_state (d : Desk) : d.refresh.state = d.state := by
  unfold Desk.refresh; split <;> rfl
@[simp] theorem Desk.refresh_inputs (d : Desk) : d.refresh.inputs = d.inputs := by
  unfold Desk.refresh; split <;> rfl
@[simp] theorem Desk.refresh_ready (d : Desk) : d.refresh.ready = d.ready := by
  unfold Desk.refresh; split <;> rfl
@[simp] theorem Desk.refresh_command (d : Desk) : d.refresh.command = d.command := by
  unfold Desk.refresh; split <;> rfl
@[simp] theorem Desk.refresh_response (d : Desk) : d.refresh.response = d.response := by
  unfold Desk.refresh; split <;> rfl
@[simp] theorem Desk.refresh_op (d : Desk) : d.refresh.op = d.op := by
  unfold Desk.refresh; split <;> rfl
@[simp] theorem Desk.refresh_missed (d : Desk) : d.refresh.missed = d.missed := by
  unfold Desk.refresh; split <;> rfl
@[simp] theorem Desk.refresh_tendTimer (d : Desk) : d.refresh.tendTimer = d.tendTimer := by
  unfold Desk.refresh; split <;> rfl
@[simp] theorem Desk.refresh_station (d : Desk) : d.refresh.station = d.station := by
  unfold Desk.refresh; split <;> rfl
@[simp] theorem Desk.refresh_attention (d : Desk) : d.refresh.attention = d.attentionLevel := by
  unfold Desk.refresh; split <;> rfl
@[simp] theorem Desk.refresh_lamp (d : Desk) : d.refresh.lamp = d.lampPattern := by
  unfold Desk.refresh; split
  · next h => exact h.symm
  · rfl

/-- After a refresh the signals agree with what they are computed from. -/
theorem Desk.refresh_agrees (d : Desk) :
    d.refresh.attention = d.refresh.attentionLevel ∧ d.refresh.lamp = d.refresh.lampPattern := by
  constructor
  · rw [Desk.refresh_attention]; exact Desk.attentionLevel_congr (by simp) (by simp)
  · rw [Desk.refresh_lamp]; exact Desk.lampPattern_congr (by simp) (by simp) (by simp)

/-- A notice raised is latched. -/
theorem State.raise_latched (n : Notice) (s : State) : (s.raise n).desk.latched n = true := by
  simp only [State.raise_desk, Desk.latched, Desk.refresh_notices]
  cases n <;> simp [Notice.bit]

/-! ## The store port (R11) -/

/-- A free port leaves no request waiting. -/
def Port.leavesNoneWaiting (p : Port) : Prop := p.busy = none → p.noneWaits = true

theorem Port.request_serves (a : Access) {p : Port} (h : p.leavesNoneWaiting) : (p.request a).leavesNoneWaiting := by
  unfold Port.request
  split
  · intro hb; cases hb
  · next hn =>
      intro hb
      have hbusy : p.busy = none := by
        cases hr : a.purpose.requester <;> simpa [Port.setWaiting, hr] using hb
      have := h hbusy
      simp [hbusy, this] at hn

theorem Port.complete_serves (p : Port) : p.complete.leavesNoneWaiting := by
  unfold Port.complete
  split
  · intro hb; cases hb
  · next h1 =>
      split
      · intro hb; cases hb
      · next h2 =>
          split
          · intro hb; cases hb
          · next h3 =>
              split
              · intro hb; cases hb
              · next h4 =>
                  split
                  · intro hb; cases hb
                  · next h5 => intro _; simp [Port.noneWaits, h1, h2, h3, h4, h5]

theorem Port.abandon_serves (mine : Purpose → Bool) {p : Port} (h : p.leavesNoneWaiting) :
    (p.abandon mine).leavesNoneWaiting := by
  intro hb
  have hbusy : p.busy = none := by simpa [Port.abandon] using hb
  have := h hbusy
  simp [Port.noneWaits] at this
  simp [Port.abandon, Port.noneWaits, this]

theorem Port.restart_serves (p : Port) : p.restart.leavesNoneWaiting := fun _ => rfl

/-- Each request waits in the place of the requester it belongs to. -/
def Port.requestsOwned (p : Port) : Prop :=
  ∀ (q : Requester) (a : Access), p.waiting q = some a → a.purpose.requester = q

theorem Port.waiting_setWaiting (q r : Requester) (a : Option Access) (p : Port) :
    (p.setWaiting r a).waiting q = if q = r then a else p.waiting q := by
  cases q <;> cases r <;> rfl

theorem Port.request_owned (a : Access) {p : Port} (h : p.requestsOwned) :
    (p.request a).requestsOwned := by
  unfold Port.request
  split
  · exact fun q b hb => h q b (by cases q <;> exact hb)
  · intro q b hb
    rw [Port.waiting_setWaiting] at hb
    split at hb
    · next hq => cases hb; exact hq.symm
    · exact h q b hb

/-- What waits after a completion waited before it. -/
theorem Port.complete_waiting {p : Port} {q : Requester} {a : Access}
    (h : p.complete.waiting q = some a) : p.waiting q = some a := by
  unfold Port.complete at h
  repeat' split at h
  all_goals cases q <;> first | exact h | cases h

theorem Port.complete_owned {p : Port} (h : p.requestsOwned) : p.complete.requestsOwned :=
  fun q a ha => h q a (Port.complete_waiting ha)

/-- What waits after an operation is abandoned waited before it, and is no request of that operation. -/
theorem Port.abandon_waiting {mine : Purpose → Bool} {p : Port} {q : Requester} {a : Access}
    (h : (p.abandon mine).waiting q = some a) : p.waiting q = some a ∧ mine a.purpose = false := by
  cases q <;> simpa [Port.abandon, Port.waiting, Option.filter_eq_some_iff] using h

theorem Port.abandon_owned (mine : Purpose → Bool) {p : Port} (h : p.requestsOwned) :
    (p.abandon mine).requestsOwned :=
  fun q a ha => h q a (Port.abandon_waiting ha).1

theorem Port.restart_owned (p : Port) : p.restart.requestsOwned :=
  fun q _ ha => by cases q <;> cases ha

/-- A request on a free port with none waiting is granted at once. -/
theorem Port.request_free {a : Access} {p : Port} (hb : p.busy = none) (hw : p.noneWaits = true) :
    p.request a = { p with busy := some a } := by
  simp [Port.request, hb, hw]

/-! ## The out queue (R50) -/

/-- A frame goes in where its share has room, as the youngest entry, WAITING. -/
theorem State.send_room {o : Owner} {s : State} (f : OutFrame) (h : s.traffic.hasRoom o = true) :
    (s.send o f).traffic.queue = s.traffic.queue ++
      [{ frame := f, owner := o, onLine := false, attempts := 0, losses := 0, refusals := 0,
         lastCause := none, withdrawing := false }] := by
  simp [State.send, h, Traffic.insert]

/-- Without room nothing changes. -/
theorem State.send_full {o : Owner} {s : State} (f : OutFrame) (h : s.traffic.hasRoom o = false) :
    s.send o f = s := by
  simp [State.send, h]

/-- An insertion puts no frame on the line. -/
theorem State.send_sending (o : Owner) (f : OutFrame) (s : State) :
    (s.send o f).traffic.sending = s.traffic.sending := by
  unfold State.send
  split <;> simp [Traffic.insert, Traffic.sending]

/-- A withdrawal puts no frame on the line. -/
theorem Traffic.withdraw_onLine (o : Owner) (t : Traffic) :
    (t.withdraw o).sending = true → t.sending = true := by
  simp only [Traffic.withdraw, Traffic.sending, List.any_map, List.any_eq_true, Function.comp]
  rintro ⟨e, he, h⟩
  refine ⟨e, (List.mem_filter.mp he).1, ?_⟩
  revert h
  split <;> simp

/-! ## Commands (R180, R181, R183, R184) -/

/-- A command transfer begun while READY is low is discarded. -/
theorem State.command_notReady {c : CommandName} {owner : State → State} {s : State}
    (h : s.desk.ready = false) : s.command c owner = s.discardTransfer := by
  simp [State.command, h]

/-- A command the desk state takes goes to its owner with READY low and the command in progress. -/
theorem State.command_taken {c : CommandName} {owner : State → State} {s : State}
    (h : s.desk.ready = true) (ht : taken c s.desk.state = true) :
    s.command c owner = owner (s.takeTransfer (nameByte c)) := by
  simp [State.command, h, ht]

/-- A command the desk state does not take is refused WRONG STATE. -/
theorem State.command_refused {c : CommandName} {owner : State → State} {s : State}
    (h : s.desk.ready = true) (ht : taken c s.desk.state = false) :
    s.command c owner = (s.takeTransfer (nameByte c)).refuse .wrongState := by
  simp [State.command, h, ht]

/-! ## Formats (R31, R198) -/

theorem bitsOf_length (width n : Nat) : (bitsOf width n).length = width := by simp [bitsOf]

theorem byteBits_length (bytes : List Byte) : (byteBits bytes).length = 8 * bytes.length := by
  induction bytes with
  | nil => rfl
  | cons b rest ih =>
      simp only [byteBits, List.flatMap_cons, List.length_append, bitsOf_length, List.length_cons] at *
      omega

theorem headerBits_length (f : Frame) : (headerBits f).length = 23 := by
  simp [headerBits, bitsOf_length]

/-- The body of a frame of n payload bytes holds 39 + 8n bits. -/
theorem bodyBits_length (f : Frame) : (bodyBits f).length = 39 + 8 * f.payload.length := by
  simp only [bodyBits, checkedBits, List.length_append, headerBits_length, byteBits_length,
    bitsOf_length]
  omega

end Sys2Proof.Machine
end

