-- ==== Sys2Proof/Laws/Follow.lean ====
section
/-!
SUPPORT. What follows an event at once: `State.settleRows` changes what `RowsFollow` says, and
`State.settle` what `SettleFollows` says.
-/

namespace Sys2Proof.Machine

/-! ## The rows (R167) -/

theorem RowsFollow.refl (s : State) : RowsFollow s s where
  store := rfl
  line := rfl
  traffic := rfl
  pass := rfl
  fit := rfl
  page := rfl
  clock := rfl
  desk := rfl
  freeReads := rfl
  pending := rfl
  slipPort := rfl
  deskPort := rfl
  pagePort := rfl
  fitPort := rfl
  busy := fun _ h => h
  lanes := rfl
  timer := rfl
  flash := rfl
  lastFlash := rfl
  status := rfl
  windows := rfl

theorem RowsFollow.trans {s t u : State} (h : RowsFollow s t) (k : RowsFollow t u) : RowsFollow s u where
  store := k.store.trans h.store
  line := k.line.trans h.line
  traffic := k.traffic.trans h.traffic
  pass := k.pass.trans h.pass
  fit := k.fit.trans h.fit
  page := k.page.trans h.page
  clock := k.clock.trans h.clock
  desk := k.desk.trans h.desk
  freeReads := k.freeReads.trans h.freeReads
  pending := k.pending.trans h.pending
  slipPort := k.slipPort.trans h.slipPort
  deskPort := k.deskPort.trans h.deskPort
  pagePort := k.pagePort.trans h.pagePort
  fitPort := k.fitPort.trans h.fitPort
  busy := fun a ha => k.busy a (h.busy a ha)
  lanes := k.lanes.trans h.lanes
  timer := k.timer.trans h.timer
  flash := k.flash.trans h.flash
  lastFlash := k.lastFlash.trans h.lastFlash
  status := k.status.trans h.status
  windows := k.windows.trans h.windows

/-- A change of the row builder and of windows that keeps what they show. -/
theorem RowsFollow.onScreen {f : Screen → Screen} (s : State)
    (lanes : (f s.screen).lanes = s.screen.lanes) (timer : (f s.screen).timer = s.screen.timer)
    (flash : (f s.screen).flash = s.screen.flash)
    (lastFlash : (f s.screen).lastFlash = s.screen.lastFlash)
    (status : (f s.screen).status = s.screen.status)
    (windows : (f s.screen).windows.map Window.shown = s.screen.windows.map Window.shown) :
    RowsFollow s (s.onScreen f) where
  store := rfl
  line := rfl
  traffic := rfl
  pass := rfl
  fit := rfl
  page := rfl
  clock := rfl
  desk := rfl
  freeReads := rfl
  pending := rfl
  slipPort := rfl
  deskPort := rfl
  pagePort := rfl
  fitPort := rfl
  busy := fun _ h => h
  lanes := lanes
  timer := timer
  flash := flash
  lastFlash := lastFlash
  status := status
  windows := windows

/-- One member of a list changed by a function that keeps `g` of it. -/
theorem map_modify_eq {α β : Type} (g : α → β) (f : α → α) (h : ∀ a, g (f a) = g a) (l : List α)
    (n : Nat) : (l.modify n f).map g = l.map g := by
  induction l generalizing n with
  | nil => cases n <;> rfl
  | cons a l ih =>
      cases n with
      | zero => simp [h]
      | succ n => simpa using ih n

theorem RowsFollow.onWindow (s : State) (n : Nat) {f : Window → Window}
    (h : ∀ w, (f w).shown = w.shown) : RowsFollow s (s.onWindow n f) :=
  RowsFollow.onScreen s rfl rfl rfl rfl rfl (map_modify_eq _ _ h _ _)

/-- A request of the row builder. -/
theorem RowsFollow.request {a : Access} (s : State) (h : a.purpose.requester = .row) :
    RowsFollow s (s.onPort (Port.request a)) := by
  have key : (Port.request a s.port).slip = s.port.slip ∧ (Port.request a s.port).desk = s.port.desk ∧
      (Port.request a s.port).page = s.port.page ∧ (Port.request a s.port).fit = s.port.fit ∧
      ∀ b, s.port.busy = some b → (Port.request a s.port).busy = some b := by
    unfold Port.request
    split
    · next hb => simp at hb; simp [hb.1]
    · simp [Port.setWaiting, h]
  exact {
    store := rfl, line := rfl, traffic := rfl, pass := rfl, fit := rfl, page := rfl, clock := rfl,
    desk := rfl, freeReads := rfl, pending := rfl, slipPort := key.1, deskPort := key.2.1,
    pagePort := key.2.2.1, fitPort := key.2.2.2.1, busy := key.2.2.2.2, lanes := rfl, timer := rfl,
    flash := rfl, lastFlash := rfl, status := rfl, windows := rfl }

@[simp] theorem Window.stage_shown (row : Row) (w : Window) : (w.stage row).shown = w.shown := rfl

@[simp] theorem Window.walkedToEnd_shown (c l : Nat) (st : List Nat) (w : Window) :
    (w.walkedToEnd c l st).shown = w.shown := by
  unfold Window.walkedToEnd; split <;> rfl

theorem State.stageAtOnce_follows (n : Nat) (s : State) : RowsFollow s (s.stageAtOnce n) := by
  unfold State.stageAtOnce
  repeat' split
  all_goals first
    | exact RowsFollow.refl s
    | exact RowsFollow.onWindow s n fun w => rfl

theorem State.beginRender_follows (n r start : Nat) (q : Story) (s : State) :
    RowsFollow s (s.beginRender n r start q) :=
  (RowsFollow.onScreen s rfl rfl rfl rfl rfl rfl).trans (RowsFollow.request _ rfl)

theorem State.renderOrBlank_follows (n r : Nat) (q : Story) (s : State) :
    RowsFollow s (s.renderOrBlank n r q) := by
  unfold State.renderOrBlank
  have blank (w : Window) : RowsFollow s ((s.onScreen fun c => { c with build := none }).onWindow n
      (Window.stage (blankRow r w.mode))) :=
    (RowsFollow.onScreen s rfl rfl rfl rfl rfl rfl).trans (RowsFollow.onWindow _ n fun _ => rfl)
  repeat' split
  all_goals first
    | exact RowsFollow.refl s
    | exact State.beginRender_follows ..
    | exact blank _

theorem State.takeLane_follows (n r : Nat) (w : Window) (s : State) :
    RowsFollow s (s.takeLane n r w) := by
  have first : RowsFollow s
      ((s.onScreen fun c => { c with lastServed := n }).onWindow n fun w =>
        { w with staging := .building r }) :=
    (RowsFollow.onScreen s rfl rfl rfl rfl rfl rfl).trans (RowsFollow.onWindow _ n fun _ => rfl)
  refine first.trans ?_
  simp only [State.takeLane]
  split
  · exact RowsFollow.onWindow _ n fun _ => rfl
  · split
    · exact State.renderOrBlank_follows ..
    · split
      · exact (RowsFollow.onWindow _ n fun _ => Window.walkedToEnd_shown ..).trans
          (State.renderOrBlank_follows ..)
      · exact (RowsFollow.onScreen _ rfl rfl rfl rfl rfl rfl).trans (RowsFollow.request _ rfl)

theorem State.chooseLane_follows (s : State) : RowsFollow s s.chooseLane := by
  unfold State.chooseLane
  repeat' split
  all_goals first
    | exact RowsFollow.refl s
    | exact State.takeLane_follows ..

/-- A fold of changes that each follow follows. -/
theorem RowsFollow.foldl {α : Type} {f : State → α → State} (h : ∀ s a, RowsFollow s (f s a))
    (l : List α) (s : State) : RowsFollow s (l.foldl f s) := by
  induction l generalizing s with
  | nil => exact RowsFollow.refl s
  | cons a l ih => exact (h s a).trans (ih _)

/-- The rows change nothing but rows. -/
theorem State.settleRows_follows (s : State) : RowsFollow s s.settleRows :=
  RowsFollow.foldl
    (fun s _ =>
      (RowsFollow.foldl (fun s n => State.stageAtOnce_follows n s) _ s).trans
        (State.chooseLane_follows _)) _ s

/-! ## Windows dirtied and changed (R166, R170, R172, R176) -/

/-- Only windows, the row builder and the port differ. -/
structure OnlyWindows (s t : State) : Prop where
  store : t.store = s.store
  line : t.line = s.line
  traffic : t.traffic = s.traffic
  pass : t.pass = s.pass
  fit : t.fit = s.fit
  page : t.page = s.page
  clock : t.clock = s.clock
  desk : t.desk = s.desk
  freeReads : t.freeReads = s.freeReads
  pending : t.pending = s.pending
  lanes : t.screen.lanes = s.screen.lanes
  timer : t.screen.timer = s.screen.timer
  flash : t.screen.flash = s.screen.flash
  lastFlash : t.screen.lastFlash = s.screen.lastFlash
  status : t.screen.status = s.screen.status

theorem RowsFollow.onlyWindows {s t : State} (h : RowsFollow s t) : OnlyWindows s t :=
  { h with }

theorem OnlyWindows.refl (s : State) : OnlyWindows s s := (RowsFollow.refl s).onlyWindows

theorem OnlyWindows.trans {s t u : State} (h : OnlyWindows s t) (k : OnlyWindows t u) :
    OnlyWindows s u where
  store := k.store.trans h.store
  line := k.line.trans h.line
  traffic := k.traffic.trans h.traffic
  pass := k.pass.trans h.pass
  fit := k.fit.trans h.fit
  page := k.page.trans h.page
  clock := k.clock.trans h.clock
  desk := k.desk.trans h.desk
  freeReads := k.freeReads.trans h.freeReads
  pending := k.pending.trans h.pending
  lanes := k.lanes.trans h.lanes
  timer := k.timer.trans h.timer
  flash := k.flash.trans h.flash
  lastFlash := k.lastFlash.trans h.lastFlash
  status := k.status.trans h.status

theorem OnlyWindows.foldl {α : Type} {f : State → α → State} (h : ∀ s a, OnlyWindows s (f s a))
    (l : List α) (s : State) : OnlyWindows s (l.foldl f s) := by
  induction l generalizing s with
  | nil => exact OnlyWindows.refl s
  | cons a l ih => exact (h s a).trans (ih _)

theorem OnlyWindows.onWindow (n : Nat) (f : Window → Window) (s : State) :
    OnlyWindows s (s.onWindow n f) :=
  { OnlyWindows.refl s with }

theorem State.abandonBuild_only (s : State) : OnlyWindows s s.abandonBuild :=
  { OnlyWindows.refl s with }

theorem State.dirty_only (n : Nat) (rows : Nat → Bool) (s : State) :
    OnlyWindows s (s.dirty n rows) := by
  unfold State.dirty
  split
  · exact (State.abandonBuild_only s).trans (OnlyWindows.onWindow ..)
  · exact OnlyWindows.onWindow ..

theorem State.dirtyStatus_only (s : State) : OnlyWindows s s.dirtyStatus :=
  OnlyWindows.foldl (fun s n => State.dirty_only n _ s) _ s

theorem State.eachWindowOn_only (k : Key) {f : Nat → State → State}
    (h : ∀ n s, OnlyWindows s (f n s)) (s : State) : OnlyWindows s (s.eachWindowOn k f) := by
  refine OnlyWindows.foldl (fun s n => ?_) _ s
  split
  · exact h n s
  · exact OnlyWindows.refl s

theorem State.windowsInEdit_only (k : Key) (s : State) : OnlyWindows s (s.windowsInEdit k) :=
  State.eachWindowOn_only k
    (fun n s => (State.dirty_only n _ s).trans (OnlyWindows.onWindow ..)) s

theorem State.windowsTextChanged_only (k : Key) (length : Nat) (s : State) :
    OnlyWindows s (s.windowsTextChanged k length) :=
  State.eachWindowOn_only k
    (fun n s => (State.dirty_only n _ s).trans (OnlyWindows.onWindow ..)) s

theorem State.windowsEditBarred_only (k : Key) (s : State) :
    OnlyWindows s (s.windowsEditBarred k) := by
  refine State.eachWindowOn_only k (fun n s => ?_) s
  split
  · exact (State.dirty_only n _ s).trans (OnlyWindows.onWindow ..)
  · exact OnlyWindows.refl s

theorem State.windowsStoryFreed_only (k : Key) (s : State) :
    OnlyWindows s (s.windowsStoryFreed k) :=
  State.eachWindowOn_only k
    (fun n s => (State.dirty_only n _ s).trans (OnlyWindows.onWindow ..)) s

/-! ## The fit queue, the page engine and the slip writer (R11, R101 to R104, R124 to R130) -/

theorem RowsFollow.settles {s t : State} (h : RowsFollow s t) : SettleFollows s t where
  stories := by rw [h.store]
  storeRest := by rw [h.store]
  line := h.line
  pass := h.pass
  clock := h.clock
  slots := by rw [h.traffic]
  counts := by rw [h.traffic]
  queue := ⟨[], by simp [h.traffic]⟩
  faces := by rw [h.fit]
  editKey := by rw [h.fit]
  deskRest := by rw [h.desk]
  notices := fun n hn => by rw [h.desk]; exact hn
  busy := fun a ha => ⟨a.aside, h.busy a ha⟩
  lanes := h.lanes
  timer := h.timer
  flash := h.flash
  lastFlash := h.lastFlash
  status := h.status
  windows := h.windows
  freeReads := h.freeReads
  pending := h.pending

theorem SettleFollows.refl (s : State) : SettleFollows s s := (RowsFollow.refl s).settles

theorem SettleFollows.trans {s t u : State} (h : SettleFollows s t) (k : SettleFollows t u) :
    SettleFollows s u where
  stories := k.stories.trans h.stories
  storeRest := by rw [k.storeRest, h.storeRest]
  line := k.line.trans h.line
  pass := k.pass.trans h.pass
  clock := k.clock.trans h.clock
  slots := k.slots.trans h.slots
  counts := k.counts.trans h.counts
  queue := by
    obtain ⟨a, ha, pa⟩ := h.queue
    obtain ⟨b, hb, pb⟩ := k.queue
    refine ⟨a ++ b, by rw [hb, ha, List.append_assoc], fun e he => ?_⟩
    rcases List.mem_append.mp he with he | he
    · exact pa e he
    · exact pb e he
  faces := k.faces.trans h.faces
  editKey := k.editKey.trans h.editKey
  deskRest := by rw [k.deskRest, h.deskRest]
  notices := fun n hn => k.notices n (h.notices n hn)
  busy := fun a ha => by
    obtain ⟨x, hx⟩ := h.busy a ha
    obtain ⟨y, hy⟩ := k.busy _ hx
    exact ⟨y, hy⟩
  lanes := k.lanes.trans h.lanes
  timer := k.timer.trans h.timer
  flash := k.flash.trans h.flash
  lastFlash := k.lastFlash.trans h.lastFlash
  status := k.status.trans h.status
  windows := k.windows.trans h.windows
  freeReads := k.freeReads.trans h.freeReads
  pending := k.pending.trans h.pending

theorem SettleFollows.onPage (f : PageEngine → PageEngine) (s : State) :
    SettleFollows s (s.onPage f) :=
  { SettleFollows.refl s with }

theorem SettleFollows.onPlan (slot : Nat) (f : Plan → Plan) (s : State) :
    SettleFollows s (s.onPlan slot f) := SettleFollows.onPage _ s

theorem SettleFollows.onFit {f : FitEngine → FitEngine} (s : State)
    (faces : (f s.fit).faces = s.fit.faces) (editKey : (f s.fit).editKey = s.fit.editKey) :
    SettleFollows s (s.onFit f) :=
  { SettleFollows.refl s with faces := faces, editKey := editKey }

theorem SettleFollows.onPort {f : Port → Port} (s : State)
    (busy : ∀ a, s.port.busy = some a → ∃ x, (f s.port).busy = some { a with aside := x }) :
    SettleFollows s (s.onPort f) :=
  { SettleFollows.refl s with busy := busy }

/-- A request never ends the access in progress. -/
theorem Port.request_busy (a b : Access) (p : Port) (h : p.busy = some b) :
    (p.request a).busy = some b := by
  unfold Port.request
  simp only [h, Option.isNone_some, Bool.false_and]
  cases a.purpose.requester <;> simpa [Port.setWaiting] using h

theorem SettleFollows.request (a : Access) (s : State) :
    SettleFollows s (s.onPort (Port.request a)) :=
  SettleFollows.onPort s fun b h => ⟨b.aside, Port.request_busy a b s.port h⟩

theorem SettleFollows.abandon (mine : Purpose → Bool) (s : State) :
    SettleFollows s (s.onPort (Port.abandon mine)) :=
  SettleFollows.onPort s fun b h => by
    simp only [Port.abandon, h, Option.map_some]
    split
    · exact ⟨true, rfl⟩
    · exact ⟨b.aside, rfl⟩

theorem SettleFollows.raise (n : Notice) (s : State) : SettleFollows s (s.raise n) :=
  { SettleFollows.refl s with
    deskRest := by
      simp only [State.raise_desk, Desk.refresh]
      split <;> rfl
    notices := fun m hm => by
      simp only [State.raise_desk, Desk.latched, Desk.refresh_notices] at hm ⊢
      simp [hm] }

theorem SettleFollows.releaseLock (k : Key) (s : State) : SettleFollows s (s.releaseLock k) :=
  { SettleFollows.refl s with
    storeRest := rfl
    stories := by
      simp only [State.releaseLock, State.onStore_store, Store.change, List.map_map]
      refine List.map_congr_left fun r _ => ?_
      simp only [Function.comp]
      split <;> rfl }

theorem SettleFollows.sendPage (f : OutFrame) (s : State) : SettleFollows s (s.send .page f) := by
  unfold State.send
  split
  · exact { SettleFollows.refl s with
      queue := ⟨_, rfl, by simp⟩ }
  · exact SettleFollows.refl s

theorem SettleFollows.foldl {α : Type} {f : State → α → State}
    (h : ∀ s a, SettleFollows s (f s a)) (l : List α) (s : State) :
    SettleFollows s (l.foldl f s) := by
  induction l generalizing s with
  | nil => exact SettleFollows.refl s
  | cons a l ih => exact (h s a).trans (ih _)

theorem State.sendPageFrame_follows (f : OutFrame) (s : State) :
    SettleFollows s (s.sendPageFrame f) :=
  (SettleFollows.sendPage f s).trans (SettleFollows.onPage _ _)

theorem State.preparePage_follows (s : State) : SettleFollows s s.preparePage := by
  unfold State.preparePage
  dsimp only
  repeat' split
  all_goals first
    | exact SettleFollows.refl s
    | exact State.sendPageFrame_follows _ s
    | exact SettleFollows.onPage _ s
    | exact (SettleFollows.onPage _ s).trans (SettleFollows.request _ _)

@[simp] theorem FitEngine.withdrawPage_faces (e : FitEngine) : e.withdrawPage.faces = e.faces := by
  unfold FitEngine.withdrawPage
  dsimp only
  split
  · rfl
  · split <;> rfl

@[simp] theorem FitEngine.withdrawPage_editKey (e : FitEngine) :
    e.withdrawPage.editKey = e.editKey := by
  unfold FitEngine.withdrawPage
  dsimp only
  split
  · rfl
  · split <;> rfl

/-- A plan that is not PLANNED and not SENDING ends: no frame of the page is touched. -/
theorem State.endPlan_follows (slot : Nat) (o : PlanState) (s : State)
    (h : ∀ p, s.plan slot = some p → p.state = .fitting) : SettleFollows s (s.endPlan slot o) := by
  unfold State.endPlan
  split
  · exact SettleFollows.refl s
  · next p hp =>
      have hf := h p hp
      simp only [hf, PlanState.underWay, if_true, reduceCtorEq, if_false]
      refine SettleFollows.trans (SettleFollows.onPlan slot (fun p => { p with state := o }) s) ?_
      refine SettleFollows.trans
        (SettleFollows.foldl (fun s q => SettleFollows.releaseLock q.key s) p.placements _) ?_
      refine SettleFollows.trans (SettleFollows.onFit (f := FitEngine.withdrawPage) _
        (FitEngine.withdrawPage_faces _) (FitEngine.withdrawPage_editKey _)) ?_
      refine SettleFollows.trans
        (SettleFollows.onPage (fun e => { e with requests := [], outstanding := [] }) _) ?_
      refine SettleFollows.trans
        (SettleFollows.onPage
          (fun e => { e with sendOrder := e.sendOrder.filter (· ≠ slot) }) _) ?_
      split
      · exact SettleFollows.raise _ _
      · exact SettleFollows.refl _

theorem State.placementStale_follows (slot i : Nat) (s : State)
    (h : ∀ p, s.plan slot = some p → p.state = .fitting) :
    SettleFollows s (s.placementStale slot i) := by
  unfold State.placementStale
  repeat' split
  · exact SettleFollows.refl s
  · exact (SettleFollows.onPage _ s).trans (SettleFollows.onPage _ _)
  · exact State.endPlan_follows _ _ s h

/-- The head plan stands in its slot. -/
theorem State.headPlan_plan {s : State} {slot : Nat} {p : Plan} (h : s.headPlan = some (slot, p)) :
    s.plan slot = some p := by
  unfold State.headPlan at h
  split at h
  · cases h
  · next slot' _ _ =>
      cases hp : s.plan slot' <;> simp [hp] at h
      obtain ⟨rfl, rfl⟩ := h
      exact hp

theorem State.tellPage_follows (k : Key) (t : Setting) (o : FitOutcome) (s : State) :
    SettleFollows s (s.tellPage k t o) := by
  unfold State.tellPage
  split
  · exact SettleFollows.refl s
  · next slot p hp =>
      split
      · next hf =>
          split
          · exact SettleFollows.refl s
          · split
            · exact SettleFollows.onPage _ s
            · refine State.placementStale_follows _ _ s fun q hq => ?_
              rw [State.headPlan_plan hp] at hq
              cases hq; exact hf
      · exact SettleFollows.refl s

theorem State.endRun_follows (o : FitOutcome) (s : State) : SettleFollows s (s.endRun o) := by
  unfold State.endRun
  split
  · exact SettleFollows.onFit s rfl rfl
  · have leave : SettleFollows s (s.onFit FitEngine.leave) := by
      refine SettleFollows.onFit s ?_ ?_ <;>
        (unfold FitEngine.leave; dsimp only; split <;> rfl)
    dsimp only
    refine leave.trans ?_
    split <;> split
    · exact ((SettleFollows.onFit _ rfl rfl).trans (SettleFollows.raise _ _)).trans
        (State.tellPage_follows ..)
    · exact State.tellPage_follows ..
    · exact (SettleFollows.onFit _ rfl rfl).trans (SettleFollows.raise _ _)
    · exact SettleFollows.refl _

theorem State.stopRun_follows (o : FitOutcome) (s : State) : SettleFollows s (s.stopRun o) :=
  (SettleFollows.abandon _ s).trans (State.endRun_follows o _)

theorem State.beginRun_follows (q : FitRequest) (s : State) : SettleFollows s (s.beginRun q) := by
  unfold State.beginRun
  split
  · exact State.endRun_follows ..
  · split
    · exact SettleFollows.onFit s rfl rfl
    · dsimp only
      split
      · exact SettleFollows.onFit s rfl rfl
      · exact (SettleFollows.onFit s rfl rfl).trans (SettleFollows.request _ _)

theorem State.enterSending_follows (slot : Nat) (s : State) :
    SettleFollows s (s.enterSending slot) :=
  ((SettleFollows.onPage _ s).trans (SettleFollows.onPage _ _)).trans (State.preparePage_follows _)

theorem State.onPlan_plan {s : State} {slot : Nat} {f : Plan → Plan} :
    (s.onPlan slot f).plan slot = (s.plan slot).map f := by
  simp only [State.plan, State.onPlan, State.onPage_page, List.getD_eq_getElem?_getD,
    List.getElem?_modify, if_true]
  cases s.page.plans[slot]? with
  | none => rfl
  | some o => cases o <;> rfl

theorem State.fitCheck_follows (slot : Nat) (p : Plan) (s : State) (h : s.plan slot = some p)
    (hf : p.state = .fitting) : SettleFollows s (s.fitCheck slot p) := by
  have here : ∀ q, s.plan slot = some q → q.state = .fitting := fun q hq => by
    rw [h] at hq; cases hq; exact hf
  unfold State.fitCheck
  dsimp only
  split
  · refine SettleFollows.foldl (fun s i => ?_) _ s
    split
    · next hs =>
        refine State.placementStale_follows _ _ s fun q hq => ?_
        simpa [hq] using hs
    · exact SettleFollows.refl s
  · split
    · exact State.endPlan_follows _ _ s here
    · refine SettleFollows.trans
        (SettleFollows.onPlan slot (fun q => { q with placements := p.placements.map s.setResult }) s) ?_
      split
      · refine State.endPlan_follows _ _ _ fun q hq => ?_
        have : (s.onPlan slot fun q => { q with placements := p.placements.map s.setResult }).plan slot =
            (s.plan slot).map _ := State.onPlan_plan
        rw [h] at this
        erw [this] at hq
        cases hq; exact hf
      · exact State.enterSending_follows _ _

theorem State.fitStep_follows {s t : State} (h : s.fitStep = some t) : SettleFollows s t := by
  unfold State.fitStep at h
  split at h
  · cases h; exact State.beginRun_follows ..
  · split at h
    · cases h
    · next slot p hp =>
        split at h
        · cases h; exact (SettleFollows.onPage _ s).trans (SettleFollows.onPage _ _)
        · split at h
          · next hf =>
              split at h
              · split at h
                · cases h
                · split at h
                  · cases h; exact SettleFollows.onPage _ s
                  · cases h
                    refine SettleFollows.trans (SettleFollows.onFit s ?_ ?_)
                      (SettleFollows.onPage _ _)
                    all_goals
                      unfold FitEngine.pageRequest
                      repeat' split
                      all_goals rfl
              · split at h
                · cases h
                  exact State.fitCheck_follows slot p s (State.headPlan_plan hp) hf
                · cases h
          · cases h

theorem State.settleFits_follows (s : State) : SettleFollows s s.settleFits := by
  have : ∀ n s, SettleFollows s (State.settleFitsFor n s) := by
    intro n
    induction n with
    | zero => exact fun s => SettleFollows.refl s
    | succ n ih =>
        intro s
        unfold State.settleFitsFor
        split
        · exact SettleFollows.refl s
        · next t ht => exact (State.fitStep_follows ht).trans (ih t)
  exact this 512 s

/-- After the roll-forward of a close only the next head, and what follows it at once, changes anything. -/
theorem State.closeEnds_follows (s : State) : SettleFollows s.rollForward s.closeEnds :=
  State.settleFits_follows s.rollForward

theorem State.slipWriterRequest_follows (s : State) : SettleFollows s s.slipWriterRequest := by
  unfold State.slipWriterRequest
  repeat' split
  all_goals first
    | exact SettleFollows.refl s
    | exact SettleFollows.request _ s

theorem State.settleSlips_follows (s : State) : SettleFollows s s.settleSlips :=
  (State.slipWriterRequest_follows s).trans (State.slipWriterRequest_follows _)

/-- What the slip writer asks for is an access of its own. -/
theorem State.slipWriterWants_requester {s : State} {a : Access} (h : s.slipWriterWants = some a) :
    a.purpose.requester = .slip := by
  unfold State.slipWriterWants at h
  cases hw : s.slipWriteWanted with
  | some b =>
      simp only [hw, Option.some_or, Option.some.injEq] at h
      subst h
      unfold State.slipWriteWanted at hw
      repeat' split at hw
      all_goals first
        | (cases hw; rfl)
        | cases hw
  | none =>
      simp only [hw, Option.none_or] at h
      obtain ⟨n, -, hn⟩ := List.exists_of_findSome?_eq_some h
      unfold State.outboundWanted at hn
      split at hn
      · cases hn
      · split at hn
        · simp only [Option.ite_none_left_eq_some, Option.some.injEq] at hn
          obtain ⟨-, rfl⟩ := hn
          dsimp only
          split <;> rfl
        · cases hn

/-- The slip writer changes what `SlipFollows` says: it asks when none of its own requests waits, and once
more when the first was granted at once. -/
theorem State.settleSlips_slip (s : State) : SlipFollows s s.settleSlips := by
  have again (t : State) (h : t.port.slip ≠ none) : t.slipWriterRequest = t := by
    unfold State.slipWriterRequest
    cases hs : t.port.slip <;> simp_all
  by_cases hs : s.port.slip = none
  · cases hw : s.slipWriterWants with
    | none =>
        have once : s.slipWriterRequest = s := by simp [State.slipWriterRequest, hs, hw]
        have : s.settleSlips = s := by simp [State.settleSlips, once]
        rw [this]
        exact { rest := rfl, deskPort := rfl, pagePort := rfl, fitPort := rfl, rowPort := rfl,
                busy := fun _ h => h, nothing := fun _ => rfl, waits := by simp [hw],
                granted := by simp [hw] }
    | some a =>
        have ha := State.slipWriterWants_requester hw
        have once : s.slipWriterRequest = s.onPort (Port.request a) := by
          simp [State.slipWriterRequest, hs, hw]
        by_cases hf : s.port.busy = none ∧ s.port.noneWaits = true
        · have hp : Port.request a s.port = { s.port with busy := some a } := Port.request_free hf.1 hf.2
          have two : (s.settleSlips = s.onPort fun _ => { s.port with busy := some a }) ∨
              (∃ b, s.settleSlips = s.onPort fun _ => { s.port with busy := some a, slip := some b }) := by
            simp only [State.settleSlips, once]
            rw [show s.onPort (Port.request a) = s.onPort fun _ => { s.port with busy := some a } by
              simp [State.onPort, hp]]
            generalize ht : (s.onPort fun _ => { s.port with busy := some a }) = t
            have hslip : t.port.slip = none := by subst ht; exact hs
            unfold State.slipWriterRequest
            cases hb : t.slipWriterWants with
            | none => left; simp [hslip]
            | some b =>
                right
                have hbr := State.slipWriterWants_requester hb
                refine ⟨b, ?_⟩
                subst ht
                simp [State.onPort, Port.request, Port.setWaiting, hbr, hs]
          rcases two with h | ⟨b, h⟩ <;> rw [h] <;>
            exact { rest := rfl, deskPort := rfl, pagePort := rfl, fitPort := rfl, rowPort := rfl,
                    busy := by simp [hf.1], nothing := by simp [hs, hw],
                    waits := by simp [hf.1, hf.2], granted := by simp [hw] }
        · have hp : Port.request a s.port = { s.port with slip := some a } := by
            unfold Port.request
            have : (s.port.busy.isNone && s.port.noneWaits) = false := by
              cases hb : s.port.busy <;> simp_all
            simp [this, Port.setWaiting, ha]
          have all : s.settleSlips = s.onPort fun _ => { s.port with slip := some a } := by
            simp only [State.settleSlips, once]
            rw [again _ (by simp [hp])]
            simp [State.onPort, hp]
          rw [all]
          exact { rest := rfl, deskPort := rfl, pagePort := rfl, fitPort := rfl, rowPort := rfl,
                  busy := fun _ h => h, nothing := by simp [hs, hw],
                  waits := by simp [hw], granted := by
                    intro b hb h1 h2
                    exact absurd ⟨h1, h2⟩ hf }
  · have : s.settleSlips = s := by simp [State.settleSlips, again s hs]
    rw [this]
    exact { rest := rfl, deskPort := rfl, pagePort := rfl, fitPort := rfl, rowPort := rfl,
            busy := fun _ h => h, nothing := fun _ => rfl, waits := fun _ h => absurd h hs,
            granted := by
              intro b hb h1 h2
              simp [Port.noneWaits] at h2
              exact absurd h2.1.1.1.1 hs }

/-- What follows an event at once changes what `SettleFollows` says. -/
theorem State.settle_follows (s : State) : SettleFollows s s.settle :=
  ((State.settleFits_follows s).trans (State.settleSlips_follows _)).trans
    (State.settleRows_follows _).settles

end Sys2Proof.Machine
end

