-- ==== Sys2Proof/Laws/Windows.lean ====
section
/-!
SUPPORT. What the rows and the story notifications leave at a window: the fit queue and the page engine never
change the screen unit, a notified window's text rows stay to be sent anew while rows follow (R167), and the
in-edit and text-changed notifications reach every window (R176).
-/

namespace Sys2Proof.Machine

/-! ## The fit queue and the page engine leave the screen unit -/

theorem State.send_screen (o f) (s : State) : (s.send o f).screen = s.screen := by unfold State.send; split <;> rfl
theorem State.sendPageFrame_screen (f) (s : State) : (s.sendPageFrame f).screen = s.screen := State.send_screen _ _ s
theorem State.preparePage_screen (s : State) : s.preparePage.screen = s.screen := by
  unfold State.preparePage; dsimp only; repeat' split
  all_goals first | rfl | exact State.sendPageFrame_screen _ s
theorem foldl_screen {α} {f : State → α → State} (h : ∀ s a, (f s a).screen = s.screen) (l : List α) (s : State) : (l.foldl f s).screen = s.screen := by
  induction l generalizing s with
  | nil => rfl
  | cons a l ih => exact (ih _).trans (h s a)
theorem State.stopTransfer_screen (r p) (s : State) : (s.stopTransfer r p).screen = s.screen := by
  unfold State.stopTransfer; dsimp only; split
  · split
    · exact State.send_screen _ _ _
    · rfl
  · rfl
theorem State.endTransfer_screen (o p) (s : State) : (s.endTransfer o p).screen = s.screen := by
  unfold State.endTransfer; split
  · exact State.stopTransfer_screen ..
  · rfl
theorem State.planLeaves_screen (e) (s : State) : (s.planLeaves e).screen = s.screen := by
  unfold State.planLeaves; rfl
theorem State.endPlan_screen (slot o) (s : State) : (s.endPlan slot o).screen = s.screen := by
  unfold State.endPlan; split
  · rfl
  · next p hp =>
    extract_lets s1 s2 s3 s4 s5 s6
    have h1 : s1.screen = s.screen := rfl
    have h2 : s2.screen = s1.screen := by
      show (if p.state.underWay = true then _ else _ : State).screen = _
      split
      · rw [foldl_screen (fun s q => by rfl)]
      · rfl
    have h3 : s3.screen = s2.screen := by
      show (if _ then _ else _ : State).screen = _
      split <;> rfl
    have h4 : s4.screen = s3.screen := by
      show (if _ then _ else _ : State).screen = _
      split
      · exact State.endTransfer_screen _ _ _
      · rfl
    have h6 : s6.screen = s4.screen := by
      show (if _ then _ else _ : State).screen = _
      split
      · exact State.planLeaves_screen _ _
      · rfl
    split <;> exact h6.trans (h4.trans (h3.trans (h2.trans h1)))
theorem State.placementStale_screen (slot i) (s : State) : (s.placementStale slot i).screen = s.screen := by
  unfold State.placementStale; repeat' split
  · rfl
  · rfl
  · exact State.endPlan_screen ..
theorem State.tellPage_screen (k t o) (s : State) : (s.tellPage k t o).screen = s.screen := by
  unfold State.tellPage; repeat' split
  all_goals first | rfl | exact State.placementStale_screen ..
theorem State.endRun_screen (o) (s : State) : (s.endRun o).screen = s.screen := by
  unfold State.endRun; split
  · rfl
  · dsimp only; split <;> split
    · rw [State.tellPage_screen]; rfl
    · rw [State.tellPage_screen]; rfl
    · rfl
    · rfl
theorem State.beginRun_screen (q) (s : State) : (s.beginRun q).screen = s.screen := by
  unfold State.beginRun; split
  · exact State.endRun_screen ..
  · split
    · rfl
    · dsimp only; split <;> rfl
theorem State.enterSending_screen (slot) (s : State) : (s.enterSending slot).screen = s.screen := by
  unfold State.enterSending; rw [State.preparePage_screen]; rfl
theorem State.fitCheck_screen (slot p) (s : State) : (s.fitCheck slot p).screen = s.screen := by
  unfold State.fitCheck; dsimp only; split
  · exact foldl_screen (fun s i => by split; exact State.placementStale_screen ..; rfl) _ s
  · split
    · exact State.endPlan_screen ..
    · split
      · rw [State.endPlan_screen]; rfl
      · rw [State.enterSending_screen]; rfl
theorem State.fitStep_screen {s t : State} (h : s.fitStep = some t) : t.screen = s.screen := by
  unfold State.fitStep at h
  split at h
  · cases h; exact State.beginRun_screen ..
  · split at h
    · cases h
    · split at h
      · cases h; rfl
      · split at h
        · split at h
          · split at h
            · cases h
            · split at h
              · cases h; rfl
              · cases h; rfl
          · split at h
            · cases h; exact State.fitCheck_screen ..
            · cases h
        · cases h
theorem State.settleFits_screen (s : State) : s.settleFits.screen = s.screen := by
  have : ∀ n s, (State.settleFitsFor n s).screen = s.screen := by
    intro n; induction n with
    | zero => intro s; rfl
    | succ n ih => intro s; unfold State.settleFitsFor; split; rfl; next t ht => rw [ih, State.fitStep_screen ht]
  exact this _ _
theorem State.stopRun_screen (o) (s : State) : (s.stopRun o).screen = s.screen := by
  unfold State.stopRun; rw [State.endRun_screen]; rfl
theorem State.fitTextChanged_screen (k) (s : State) : (s.fitTextChanged k).screen = s.screen := by
  unfold State.fitTextChanged; dsimp only; rw [State.settleFits_screen]; repeat' split
  · rfl
  · rw [State.stopRun_screen]; rfl
  · rfl
theorem State.fitInEdit_screen (k) (s : State) : (s.fitInEdit k).screen = s.screen := by
  unfold State.fitInEdit; dsimp only; rw [State.settleFits_screen]; repeat' split
  · rw [State.stopRun_screen]; rfl
  · rfl

/-! ## Windows whose text rows are to be sent anew -/

/-- Window `n` has no line map, top line `top`, every text row DIRTY, no text row READY, and a line walk to
make before any of them can be built. -/
def StaleAt (n top : Nat) (s : State) : Prop :=
  ∃ v, s.screen.windows[n]? = some v ∧ v.lineMap = none ∧ v.top = top ∧
    (∀ r, 1 ≤ r → r ≤ 20 → v.dirty[r]? = some true) ∧ (∀ q, v.staging = .ready q → q.number = 0) ∧
    (v.waiting = true ∨ ∃ k r, v.key = some k ∧ s.story k = some r ∧ 0 < r.length)

theorem State.onWindow_get (s : State) (m n : Nat) (f : Window → Window) :
    (s.onWindow m f).screen.windows[n]? = if m = n then (s.screen.windows[n]?).map f else s.screen.windows[n]? := by
  simp only [State.onWindow, State.onScreen_screen, List.getElem?_modify]
  split <;> simp

theorem StaleAt.onWindow {n m top : Nat} {s : State} {f : Window → Window} (h : StaleAt n top s)
    (hf : m = n → ∀ v, s.screen.windows[n]? = some v → v.lineMap = none → 
      (∀ q, v.staging = .ready q → q.number = 0) → v.top = top → (∀ r, 1 ≤ r → r ≤ 20 → v.dirty[r]? = some true) →
      (v.waiting = true ∨ ∃ k r, v.key = some k ∧ s.story k = some r ∧ 0 < r.length) →
      (f v).lineMap = none ∧ (f v).top = v.top ∧ (∀ r, 1 ≤ r → r ≤ 20 → (f v).dirty[r]? = some true) ∧
      (∀ q, (f v).staging = .ready q → q.number = 0) ∧ (f v).waiting = v.waiting ∧ (f v).key = v.key) : StaleAt n top (s.onWindow m f) := by
  obtain ⟨v, h1, h2, h3, h4, h5, h6⟩ := h
  by_cases e : m = n
  · obtain ⟨a, b, c, d, g, k⟩ := hf e v h1 h2 h5 h3 h4 h6
    refine ⟨f v, ?_, a, b.trans h3, c, d, ?_⟩
    · rw [State.onWindow_get, if_pos e, h1]; rfl
    · rw [g, k]; exact h6
  · exact ⟨v, by rw [State.onWindow_get, if_neg e, h1], h2, h3, h4, h5, h6⟩

theorem StaleAt.congr {n top : Nat} {s t : State} (h : StaleAt n top s) (hw : t.screen.windows = s.screen.windows)
    (hs : t.store = s.store) : StaleAt n top t := by
  obtain ⟨v, h1, h2, h3, h4, h5, h6⟩ := h
  refine ⟨v, by rw [hw]; exact h1, h2, h3, h4, h5, ?_⟩
  rcases h6 with h6 | ⟨k, r, a, b, c⟩
  · exact .inl h6
  · exact .inr ⟨k, r, a, by simp only [State.story, hs]; exact b, c⟩

theorem Window.nextRow_spec {w : Window} {r : Nat} (h : w.nextRow = some r) :
    w.dirty[r]? = some true ∧ (r = 0 ∨ w.waiting = false) := by
  unfold Window.nextRow indexWhere at h
  dsimp only at h
  split at h
  · next hlt =>
    cases h
    have := List.findIdx_getElem (w := hlt)
    simp at this
    have hl := hlt
    simp at hl
    refine ⟨?_, ?_⟩
    · rw [List.getElem?_eq_getElem (by simpa using hlt)]
      simp [this.1]
    · rcases this.2 with h | h
      · left; simpa using h
      · right; exact h
  · cases h

theorem StaleAt.needs {n top : Nat} {s : State} (h : StaleAt n top s) {w r} (hw : s.screen.windows[n]? = some w) (hr : w.nextRow = some r)
   : r = 0 ∨ (w.needsNoAccess r = false ∧ ∃ q, w.key.bind s.story = some q ∧ 0 < q.length ∧ w.lineMap = none) := by
  obtain ⟨v, h1, h2, h3, h4, h5, h6⟩ := h
  rw [h1] at hw; cases hw
  rcases (Window.nextRow_spec hr).2 with h | h
  · exact .inl h
  · by_cases h0 : r = 0
    · exact .inl h0
    rcases h6 with h6 | ⟨k, q, a, b, c⟩
    · rw [h] at h6; cases h6
    · right
      refine ⟨by simp [Window.needsNoAccess, h0, a, h2], q, by simp [a, b], c, h2⟩

theorem StaleAt.stageAtOnce {n top : Nat} {s : State} (m : Nat) (h : StaleAt n top s) : StaleAt n top (s.stageAtOnce m) := by
  unfold State.stageAtOnce
  split
  · exact h
  · next w hw =>
    split
    · split
      · exact h
      · next r hr =>
        split
        · next hn =>
          refine StaleAt.onWindow h ?_
          intro e v hv hl hq ht hd h6
          subst e
          rw [hv] at hw; cases hw
          rcases StaleAt.needs h hv hr with h0 | ⟨h0, -⟩
          · subst h0
            simp only [if_true, Window.stage]
            refine ⟨hl, trivial, ?_, ?_, trivial, trivial⟩
            · intro r h1 h2
              have : (0:Nat) ≠ r := by omega
              simp [State.statusRow, this, hd r h1 h2]
            · intro q hq; cases hq; rfl
          · rw [h0] at hn; cases hn
        · exact h
    · exact h

theorem StaleAt.renderOrBlank {n m r top : Nat} {q : Story} {s : State} (hmn : m ≠ n) (h : StaleAt n top s) : StaleAt n top (s.renderOrBlank m r q) := by
  have blank (w : Window) : StaleAt n top ((s.onScreen fun c => { c with build := none }).onWindow m
      (Window.stage (blankRow r w.mode))) :=
    StaleAt.onWindow (StaleAt.congr h rfl rfl) fun e => absurd e hmn
  unfold State.renderOrBlank
  repeat' split
  · exact h
  · exact StaleAt.congr h rfl rfl
  · exact blank _
  · exact blank _

theorem StaleAt.takeLane {n m r top : Nat} {w : Window} {s : State} (h : StaleAt n top s) (hw : s.screen.windows[m]? = some w)
   (hr : w.nextRow = some r) (hb : w.needsNoAccess r = false) : StaleAt n top (s.takeLane m r w) := by
  have h1 : StaleAt n top ((s.onScreen fun c => { c with lastServed := m }).onWindow m fun w => { w with staging := .building r }) := by
    refine StaleAt.onWindow (StaleAt.congr h rfl rfl) ?_
    intro e v hv hl hq ht hd h6
    exact ⟨hl, rfl, hd, by simp, rfl, rfl⟩
  simp only [State.takeLane]
  by_cases e : m = n
  · subst e
    rcases StaleAt.needs h hw hr with h0 | ⟨-, q, hk, hlen, hl⟩
    · subst h0; simp [Window.needsNoAccess] at hb
    · have : (w.key.bind ((s.onScreen fun c => { c with lastServed := m }).onWindow m fun w => { w with staging := .building r }).story) = some q := hk
      rw [this]
      simp only [hl]
      rw [if_neg (by omega)]
      exact StaleAt.congr h1 rfl rfl
  · split
    · exact StaleAt.onWindow h1 fun e' => absurd e' e
    · split
      · exact StaleAt.renderOrBlank e h1
      · split
        · exact StaleAt.renderOrBlank e (StaleAt.onWindow h1 fun e' => absurd e' e)
        · exact StaleAt.congr h1 rfl rfl

theorem State.nextLane_spec {s : State} {n} (h : s.nextLane = some n) : ∃ w, s.screen.windows[n]? = some w ∧ w.waitsForBuilder = true := by
  unfold State.nextLane at h
  have := List.find?_some h
  simp only [Bool.and_eq_true] at this
  have h2 := this.2
  cases hw : s.screen.windows[n]? with
  | none => simp [hw] at h2
  | some w => simp [hw] at h2; exact ⟨w, rfl, h2⟩

theorem StaleAt.chooseLane {n top : Nat} {s : State} (h : StaleAt n top s) : StaleAt n top s.chooseLane := by
  unfold State.chooseLane
  split
  · exact h
  split
  · exact h
  next m hm =>
  obtain ⟨w', hw', hwait⟩ := State.nextLane_spec hm
  split
  · exact h
  next w hw =>
  rw [hw'] at hw; cases hw
  split
  · exact h
  next r hr =>
  refine StaleAt.takeLane h hw' hr ?_
  simp [Window.waitsForBuilder, hr] at hwait
  exact hwait.2

theorem StaleAt.foldl {α} {n top : Nat} {f : State → α → State} (hf : ∀ s a, StaleAt n top s → StaleAt n top (f s a)) (l : List α) (s : State)
   (h : StaleAt n top s) : StaleAt n top (l.foldl f s) := by
  induction l generalizing s with
  | nil => exact h
  | cons a l ih => exact ih _ (hf _ _ h)

theorem StaleAt.settleRows {n top : Nat} {s : State} (h : StaleAt n top s) : StaleAt n top s.settleRows := by
  unfold State.settleRows
  refine StaleAt.foldl (fun s _ h => StaleAt.chooseLane ?_) _ _ h
  unfold State.eachWindow
  exact StaleAt.foldl (fun s a h => StaleAt.stageAtOnce a h) _ _ h

theorem State.dirty_get (s : State) (m n : Nat) (rows) : (s.dirty m rows).screen.windows[n]? =
    if m = n then (s.screen.windows[n]?).map (Window.dirtyRows rows) else s.screen.windows[n]? := by
  unfold State.dirty
  rw [State.onWindow_get]
  split <;> (split <;> rfl)

theorem State.eachWindowOn_get (k : Key) (f : Nat → State → State) (g : Window → Window)
    (hf : ∀ m n s, (f m s).screen.windows[n]? = if m = n then (s.screen.windows[n]?).map g else s.screen.windows[n]?)
    (s : State) (n : Nat) (hn : n < 8) :
    (s.eachWindowOn k f).screen.windows[n]? = (s.screen.windows[n]?).map fun w => if w.key = some k then g w else w := by
  unfold State.eachWindowOn
  have : ∀ (l : List Nat) (s : State), l.Nodup →
    (l.foldl (fun s n => if (s.screen.windows[n]?).any fun w => decide (w.key = some k) then f n s else s) s).screen.windows[n]? =
     if n ∈ l then (s.screen.windows[n]?).map fun w => if w.key = some k then g w else w else s.screen.windows[n]? := by
    intro l
    induction l with
    | nil => intro s _; simp
    | cons m l ih =>
      intro s hnd
      rw [List.foldl_cons, ih _ (List.nodup_cons.mp hnd).2]
      have hm := (List.nodup_cons.mp hnd).1
      have key : (if (s.screen.windows[m]?).any fun w => decide (w.key = some k) then f m s else s).screen.windows[n]? =
        if m = n then ((s.screen.windows[n]?).map fun w => if w.key = some k then g w else w) else s.screen.windows[n]? := by
        by_cases e : m = n
        · subst e
          cases hw : s.screen.windows[m]? with
          | none => simp [hw]
          | some w =>
            by_cases hk : w.key = some k
            · simp [hk, hf, hw]
            · simp [hk, hw]
        · rw [if_neg e]
          split
          · rw [hf, if_neg e]
          · rfl
      rw [key]
      by_cases e : m = n
      · subst e; simp [hm]
      · have e' : ¬ n = m := fun h => e h.symm
        simp [e, e']
  rw [this _ _ List.nodup_range]
  simp [hn]

theorem Window.dirtyRows_text (w : Window) (h : w.dirty.length = 21) : (∀ r, 1 ≤ r → r ≤ 20 → (w.dirtyRows textRow).dirty[r]? = some true) ∧
   ∀ q, (w.dirtyRows textRow).staging = .ready q → q.number = 0 := by
  constructor
  · intro r h1 h2
    simp [Window.dirtyRows, textRow, List.getElem?_mapIdx, List.getElem?_eq_getElem (show r < w.dirty.length by omega), h1]
  · intro q
    simp only [Window.dirtyRows]
    split
    · intro h; cases h
    · next hh => 
      intro hq
      rw [hq] at hh
      simp [Staging.holds, textRow] at hh
      omega

theorem State.windowsTextChanged_get (k : Key) (len : Nat) (s : State) (n : Nat) (hn : n < 8) :
    (s.windowsTextChanged k len).screen.windows[n]? = (s.screen.windows[n]?).map fun w => if w.key = some k then
      { w.dirtyRows textRow with lineMap := none, waiting := false, cursor := w.cursor.map (min len) } else w := by
  unfold State.windowsTextChanged
  rw [State.eachWindowOn_get k _ (fun w => { w.dirtyRows textRow with lineMap := none, waiting := false, cursor := w.cursor.map (min len) }) _ s n hn]
  intro m n s
  rw [State.onWindow_get, State.dirty_get]
  split
  · cases s.screen.windows[n]? <;> simp [Window.dirtyRows]
  · rfl

theorem State.windowsInEdit_get (k : Key) (s : State) (n : Nat) (hn : n < 8) :
    (s.windowsInEdit k).screen.windows[n]? = (s.screen.windows[n]?).map fun w => if w.key = some k then
      { w.dirtyRows textRow with lineMap := none, waiting := true } else w := by
  unfold State.windowsInEdit
  rw [State.eachWindowOn_get k _ (fun w => { w.dirtyRows textRow with lineMap := none, waiting := true }) _ s n hn]
  intro m n s
  rw [State.onWindow_get, State.dirty_get]
  split
  · cases s.screen.windows[n]? <;> simp [Window.dirtyRows]
  · rfl

theorem shown_get {s t : State} (h : t.screen.windows.map Window.shown = s.screen.windows.map Window.shown) {n : Nat} {w : Window}
   (hw : s.screen.windows[n]? = some w) : ∃ v, t.screen.windows[n]? = some v ∧ v.shown = w.shown := by
  have : (t.screen.windows.map Window.shown)[n]? = some w.shown := by rw [h]; simp [hw]
  simpa using this

theorem State.settleRows_toldTextChanged {k : Key} {len : Nat} {s u : State} {r : Story}
    (h1 : ∀ n w, n < 8 → s.screen.windows[n]? = some w → u.screen.windows[n]? = some (if w.key = some k then
      { w.dirtyRows textRow with lineMap := none, waiting := false, cursor := w.cursor.map (min len) } else w))
    (hr : u.story k = some r) (hl : 0 < len → 0 < r.length) : toldTextChanged k len s u.settleRows := by
  unfold toldTextChanged windowsTold
  intro n w hn hw
  have hu := h1 n w hn hw
  obtain ⟨v, hv, hsh⟩ := shown_get (State.settleRows_follows u).windows hu
  refine ⟨v, hv, ?_, ?_⟩
  · rw [hsh]; split <;> rfl
  · intro hk h0 hd
    rw [if_pos hk] at hu
    have hQ : StaleAt n w.top u := ⟨_, hu, rfl, rfl, (Window.dirtyRows_text w hd).1, (Window.dirtyRows_text w hd).2, .inr ⟨k, r, hk, hr, hl h0⟩⟩
    obtain ⟨v', h1, h2, h3, h4, h5, -⟩ := StaleAt.settleRows hQ
    rw [hv] at h1; cases h1
    exact ⟨h2, h3, h4, h5⟩

theorem State.settleRows_toldInEdit {k : Key} {s u : State}
    (h1 : ∀ n w, n < 8 → s.screen.windows[n]? = some w → u.screen.windows[n]? = some (if w.key = some k then
      { w.dirtyRows textRow with lineMap := none, waiting := true } else w))
    : toldInEdit k s u.settleRows := by
  unfold toldInEdit windowsTold
  intro n w hn hw
  have hu := h1 n w hn hw
  obtain ⟨v, hv, hsh⟩ := shown_get (State.settleRows_follows u).windows hu
  refine ⟨v, hv, ?_, ?_⟩
  · rw [hsh]; split <;> rfl
  · intro hk h0 hd
    rw [if_pos hk] at hu
    have hQ : StaleAt n w.top u := ⟨_, hu, rfl, rfl, (Window.dirtyRows_text w hd).1, (Window.dirtyRows_text w hd).2, .inl rfl⟩
    obtain ⟨v', h1, h2, h3, h4, h5, -⟩ := StaleAt.settleRows hQ
    rw [hv] at h1; cases h1
    exact ⟨h2, h3, h4, h5⟩

end Sys2Proof.Machine
end

