-- ==== Sys2Proof/Laws/Commit.lean ====
section
/-!
SUPPORT. What a commit leaves (R8, R90, R149): the new record, the chains given back, and the windows told.
-/

namespace Sys2Proof.Machine

structure KeepsStore (s t : State) : Prop where
  stories : t.store.stories.map Story.unlocked = s.store.stories.map Story.unlocked
  storeRest : t.store = { s.store with stories := t.store.stories }
  line : t.line = s.line
  pass : t.pass = s.pass
  clock : t.clock = s.clock
  slots : t.traffic.slots = s.traffic.slots
  counts : t.traffic.counts = s.traffic.counts
  desk : onlyNotices s t
  notices : ∀ n, s.desk.latched n = true → t.desk.latched n = true
theorem KeepsStore.refl (s : State) : KeepsStore s s := ⟨rfl, rfl, rfl, rfl, rfl, rfl, rfl, rfl, fun _ h => h⟩
theorem KeepsStore.trans {s t u : State} (h : KeepsStore s t) (k : KeepsStore t u) : KeepsStore s u where
  stories := k.stories.trans h.stories
  storeRest := by rw [k.storeRest, h.storeRest]
  line := k.line.trans h.line
  pass := k.pass.trans h.pass
  clock := k.clock.trans h.clock
  slots := k.slots.trans h.slots
  counts := k.counts.trans h.counts
  desk := by have a := h.desk; have b := k.desk; unfold onlyNotices at *; rw [b, a]
  notices := fun n hn => k.notices n (h.notices n hn)
theorem KeepsStore.ofSettle {s t : State} (h : SettleFollows s t) : KeepsStore s t where
  stories := h.stories
  storeRest := h.storeRest
  line := h.line
  pass := h.pass
  clock := h.clock
  slots := h.slots
  counts := h.counts
  desk := h.deskRest
  notices := h.notices
theorem KeepsStore.ofWin {s t : State} (h : OnlyWindows s t) : KeepsStore s t where
  stories := by rw [h.store]
  storeRest := by rw [h.store]
  line := h.line
  pass := h.pass
  clock := h.clock
  slots := by rw [h.traffic]
  counts := by rw [h.traffic]
  desk := by unfold onlyNotices; rw [h.desk]
  notices := fun n hn => by rw [h.desk]; exact hn
theorem KeepsStore.onFit (f) (s : State) : KeepsStore s (s.onFit f) := ⟨rfl, rfl, rfl, rfl, rfl, rfl, rfl, rfl, fun _ h => h⟩

theorem State.fitTextChanged_keeps (k) (s : State) : KeepsStore s (s.fitTextChanged k) := by
  unfold State.fitTextChanged
  extract_lets s1
  have e1 : KeepsStore s s1 := KeepsStore.onFit _ s
  refine e1.trans (KeepsStore.trans ?_ (.ofSettle (State.settleFits_follows _)))
  split
  · exact KeepsStore.onFit _ _
  · split
    · exact .ofSettle (State.stopRun_follows ..)
    · exact .refl _

theorem State.notifyTextChanged_keeps (k) (s : State) : KeepsStore s (s.notifyTextChanged k) :=
  (KeepsStore.ofWin (State.windowsTextChanged_only k _ s)).trans (State.fitTextChanged_keeps k _)

theorem State.fitInEdit_keeps (k) (s : State) : KeepsStore s (s.fitInEdit k) := by
  unfold State.fitInEdit
  extract_lets s1
  have e1 : KeepsStore s s1 := KeepsStore.onFit _ s
  refine e1.trans (KeepsStore.trans ?_ (.ofSettle (State.settleFits_follows _)))
  split
  · exact .ofSettle (State.stopRun_follows ..)
  · exact .refl _
theorem State.notifyInEdit_keeps (k) (s : State) : KeepsStore s (s.notifyInEdit k) :=
  (KeepsStore.ofWin (State.windowsInEdit_only k s)).trans (State.fitInEdit_keeps k _)

theorem find_unlocked (k : Key) : ∀ l : List Story, (l.find? fun r => decide (r.key = k)).map Story.unlocked = (l.map Story.unlocked).find? fun r => decide (r.key = k) := by
    intro l; induction l with
    | nil => rfl
    | cons a l ih => 
      simp only [List.find?_cons, List.map_cons]
      have : (Story.unlocked a).key = a.key := rfl
      rw [this]
      split <;> simp_all
theorem story_unlocked {s t : State} (h : t.store.stories.map Story.unlocked = s.store.stories.map Story.unlocked) (k : Key) :
   (t.story k).map Story.unlocked = (s.story k).map Story.unlocked := by
  have gen : ∀ l : List Story, (l.find? fun r => decide (r.key = k)).map Story.unlocked = (l.map Story.unlocked).find? fun r => decide (r.key = k) := by
    intro l; induction l with
    | nil => rfl
    | cons a l ih => 
      simp only [List.find?_cons, List.map_cons]
      have : (Story.unlocked a).key = a.key := rfl
      rw [this]
      split <;> simp_all
  simp only [State.story, Store.story]
  rw [gen, gen, h]

theorem story_length {s t : State} (h : t.store.stories.map Story.unlocked = s.store.stories.map Story.unlocked) {k r}
  (hr : s.story k = some r) : ∃ q, t.story k = some q ∧ q.length = r.length := by
  have := story_unlocked h k
  rw [hr] at this
  cases hq : t.story k with
  | none => simp [hq] at this
  | some q =>
    simp [hq] at this
    refine ⟨q, rfl, ?_⟩
    have := congrArg Story.length this
    exact this

theorem Store.filter_absent {st : Store} {k} (h : st.story k = none) : st.stories.filter (fun r => decide (r.key ≠ k)) = st.stories := by
  rw [List.filter_eq_self]
  intro r hr
  simp [Store.story] at h
  simpa using h r hr

theorem Store.free_reverse (k) (st : Store) : Store.free k List.reverse st =
   let old := ((st.story k).map (·.chain)).getD []
   { st with stories := st.stories.filter (fun r => decide (r.key ≠ k)), pool := old ++ st.pool, marks := st.marks.filter (· ∉ old) } := by
  unfold Store.free
  cases h : st.story k with
  | none =>
    have := Store.filter_absent h
    simp only [decide_not] at this
    simp [this]
  | some r =>
    simp [Store.giveBack]

def Inbound.newRecord (b : Inbound) (blocks : List Nat) : Story := b.record (blocks.take (blocksFor b.offer.length))


theorem State.raise_keeps (m) (s : State) : KeepsStore s (s.raise m) := .ofSettle (SettleFollows.raise m s)

def State.replaced (n : Nat) (b : Inbound) (blocks : List Nat) (s : State) : State :=
  let old := ((s.story b.offer.key).map (·.chain)).getD []
  let left := blocks.drop (blocksFor b.offer.length)
  { s with
    store := { s.store with
      stories := s.store.stories.filter (fun r => decide (r.key ≠ b.offer.key)) ++ [Inbound.newRecord b blocks]
      reservations := s.store.reservations.set n none
      pool := left.reverse ++ (old ++ s.store.pool)
      marks := (s.store.marks.filter (· ∉ old)).filter (· ∉ left)
      substitutions := min 65535 (s.store.substitutions + (substitute printable b.offer.slug).2) }
    pass := { s.pass with inbound := s.pass.inbound.set n none } }

theorem State.commit_eq {n b blocks} {s : State} (h : s.inbound n = some b) (hb : s.store.reservation n = blocks) :
   s.commit n = (((if (s.story b.offer.key).isSome then (State.replaced n b blocks s).notifyTextChanged b.offer.key else State.replaced n b blocks s).raise .inboundDone).commitEdition b.offer.key) := by
  unfold State.commit
  simp only [h, hb]
  have : ((s.onStore (Store.free b.offer.key List.reverse)).onStore fun st =>
        Store.giveBack (blocks.drop (blocksFor b.offer.length))
          { st with stories := st.stories ++ [b.record (blocks.take (blocksFor b.offer.length))],
                    reservations := st.reservations.set n none,
                    substitutions := add16 st.substitutions (substitute printable b.offer.slug).2 }).onPass (fun e => { e with inbound := e.inbound.set n none })
      = State.replaced n b blocks s := by
    simp only [State.onStore, State.onPass, Store.free_reverse, State.replaced, Store.giveBack, add16, Inbound.newRecord]
    congr 1
    simp only [State.story, decide_not, List.contains_eq_mem]
    congr 2
    refine List.filter_congr fun a _ => ?_
    by_cases hh : a ∈ (Option.map (fun x => x.chain) (s.store.story b.offer.key)).getD [] <;> simp [hh]
  rw [this]

theorem State.replaced_story (n b blocks) (s : State) : (State.replaced n b blocks s).story b.offer.key = some (Inbound.newRecord b blocks) := by
  simp [State.story, Store.story, State.replaced, List.find?_append]
  have : (Inbound.newRecord b blocks).key = b.offer.key := rfl
  simp [this]

def State.openEdition (b : Inbound) (s : State) : Nat := match currentOf s.clock.editions with
           | some (e, _) =>
               if (1 ≤ b.offer.edition ∧
                    s.clock.editions[b.offer.edition - 1]? = some .closed) ∨
                  s.clock.editions.length < b.offer.edition then e
               else b.offer.edition
           | none => b.offer.edition

theorem State.commitEdition_spec (n b blocks) (s u : State) (h : KeepsStore (State.replaced n b blocks s) u) :
   ∃ v, u.commitEdition b.offer.key = v ∧ 
     v.store.stories.map Story.unlocked = (s.store.stories.filter (fun r => decide (r.key ≠ b.offer.key))).map Story.unlocked ++ [{ Inbound.newRecord b blocks with edition := State.openEdition b s}] ∧
     v.store = { u.store with stories := v.store.stories } ∧ (∃ st, v = { u with store := st }) := by
  refine ⟨_, rfl, ?_⟩
  have hst := h.stories
  have hk := story_unlocked h.stories b.offer.key
  rw [State.replaced_story] at hk
  cases hr : u.story b.offer.key with
  | none => rw [hr] at hk; simp at hk
  | some r =>
    rw [hr] at hk
    simp at hk
    have hed : r.edition = b.offer.edition := by
      have := congrArg Story.edition hk; exact this
    have hcl : u.clock = s.clock := h.clock
    have base : u.store.stories.map Story.unlocked = (s.store.stories.filter (fun r => decide (r.key ≠ b.offer.key))).map Story.unlocked ++ [Inbound.newRecord b blocks] := by
      rw [h.stories]; simp [State.replaced]; rfl
    have form : u.commitEdition b.offer.key = match currentOf s.clock.editions with
        | none => u
        | some (e, _) => if (1 ≤ b.offer.edition ∧ s.clock.editions[b.offer.edition - 1]? = some .closed) ∨
                  s.clock.editions.length < b.offer.edition then u.onStore (Store.change b.offer.key fun r => { r with edition := e }) else u := by
      have cond : (u.editionClosed r.edition || decide (u.clock.editions.length < r.edition)) = true ↔
         ((1 ≤ b.offer.edition ∧ s.clock.editions[b.offer.edition - 1]? = some .closed) ∨
                  s.clock.editions.length < b.offer.edition) := by
        simp only [Bool.or_eq_true, decide_eq_true_eq, State.editionClosed, State.editionState, hed, hcl]
        by_cases h0 : b.offer.edition = 0
        · simp [h0]
        · have : 1 ≤ b.offer.edition := by omega
          simp [h0, this]
      have hcu : u.current = currentOf s.clock.editions := by rw [State.current, hcl]
      unfold State.commitEdition
      rw [hr, hcu]
      cases currentOf s.clock.editions with
      | none => rfl
      | some ec =>
        dsimp only
        by_cases hc : ((1 ≤ b.offer.edition ∧ s.clock.editions[b.offer.edition - 1]? = some .closed) ∨
                  s.clock.editions.length < b.offer.edition)
        · rw [if_pos (cond.mpr hc), if_pos hc]
        · rw [if_neg (fun h => hc (cond.mp h)), if_neg hc]
    rw [form]
    cases hc : currentOf s.clock.editions with
    | none =>
      refine ⟨?_, rfl, _, rfl⟩
      simp only [base, State.openEdition, hc]; rfl
    | some ec =>
      obtain ⟨e, st⟩ := ec
      dsimp only
      by_cases hcond : ((1 ≤ b.offer.edition ∧ s.clock.editions[b.offer.edition - 1]? = some .closed) ∨
                  s.clock.editions.length < b.offer.edition)
      · rw [if_pos hcond]
        refine ⟨?_, rfl, _, rfl⟩
        have : (u.onStore (Store.change b.offer.key fun r => { r with edition := e })).store.stories.map Story.unlocked =
           (u.store.stories.map Story.unlocked).map fun r => if r.key = b.offer.key then { r with edition := e } else r := by
          simp only [State.onStore, Store.change, List.map_map]
          refine List.map_congr_left fun r _ => ?_
          simp only [Function.comp]
          have : (Story.unlocked r).key = r.key := rfl
          rw [this]
          split <;> rfl
        rw [this, base]
        have hedd : State.openEdition b s = e := by simp only [State.openEdition, hc, if_pos hcond]
        rw [hedd]
        simp only [List.map_append, List.map_map, List.map_cons, List.map_nil]
        congr 1
        · refine List.map_congr_left fun r hr => ?_
          have hne := (List.mem_filter.mp hr).2
          simp at hne
          have : (Story.unlocked r).key = r.key := rfl
          simp [this, hne]
        · have : (Inbound.newRecord b blocks).key = b.offer.key := rfl
          simp [this]
      · rw [if_neg hcond]
        refine ⟨?_, rfl, _, rfl⟩
        have hedd : State.openEdition b s = b.offer.edition := by simp only [State.openEdition, hc, if_neg hcond]
        rw [base, hedd]; rfl

theorem State.notifyTextChanged_window (k len) (s : State) (n : Nat) (hn : n < 8) (hl : ((s.story k).map (·.length)).getD 0 = len) :
   (s.notifyTextChanged k).screen.windows[n]? = (s.screen.windows[n]?).map fun w => if w.key = some k then
      { w.dirtyRows textRow with lineMap := none, waiting := false, cursor := w.cursor.map (min len) } else w := by
  unfold State.notifyTextChanged
  rw [State.fitTextChanged_screen, State.windowsTextChanged_get _ _ _ _ hn, hl]

/-- A commit settled is as `Committed` says: the record, the free pool, the marks, the windows and the notice
(R8, R90, R149, R176), whatever the fit engine and the slip writer settle after it. -/
theorem State.commit_committed {n b blocks} {s x : State} (h : s.inbound n = some b) (hb : s.store.reservation n = blocks)
   (hx : SettleFollows (s.commit n) x) (hxs : x.screen = (s.commit n).screen) :
   Committed n b blocks s x.settleRows := by
  rw [State.commit_eq h hb] at hx hxs
  set m := State.replaced n b blocks s with hm
  set u0 := (if (s.story b.offer.key).isSome then m.notifyTextChanged b.offer.key else m) with hu0
  have K0 : KeepsStore m u0 := by
    rw [hu0]; split
    · exact State.notifyTextChanged_keeps _ _
    · exact KeepsStore.refl _
  have K1 : KeepsStore m (u0.raise .inboundDone) := K0.trans (State.raise_keeps _ _)
  obtain ⟨v, hv, hv1, hv2, st, hv3⟩ := State.commitEdition_spec n b blocks s _ (hm ▸ K1)
  rw [hv] at hx hxs
  have KX : KeepsStore v x.settleRows := (KeepsStore.ofSettle hx).trans (KeepsStore.ofWin (State.settleRows_follows x).onlyWindows)
  have hdesk : v.desk = (u0.raise .inboundDone).desk := by rw [hv3]
  have hscr : v.screen = u0.screen := by rw [hv3]; rfl
  refine { stories := ?_, storeRest := ?_, pass := ?_, notice := ?_, notices := ?_, desk := ?_, slots := ?_, counts := ?_, line := ?_, clock := ?_, newWindows := ?_, oldWindows := ?_ }
  · rw [KX.stories, hv1]
    simp [Inbound.newRecord, Inbound.record, substitute, printable, within, State.openEdition, blocksFor, ceilDiv] <;> rfl
  · have a := KX.storeRest
    have c := K1.storeRest
    dsimp only
    rw [a, hv2, c]
    simp [hm, State.replaced, substitute, printable, within, List.countP_eq_length_filter, blocksFor, ceilDiv]
    refine List.filter_congr fun a _ => ?_
    by_cases hh : a ∈ List.drop ((b.offer.length + 31) / 32) blocks <;> simp [hh]
  · rw [KX.pass, hv3]; exact K1.pass
  · refine KX.notices _ ?_
    rw [hdesk]; exact State.raise_latched .inboundDone u0
  · intro q hq
    refine KX.notices _ ?_
    rw [hdesk]; exact K1.notices _ hq
  · have a := KX.desk
    have c := K1.desk
    have md : m.desk = s.desk := rfl
    unfold onlyNotices at a c ⊢
    rw [hdesk] at a
    rw [md] at c
    generalize x.settleRows.desk = d at a ⊢
    generalize (u0.raise .inboundDone).desk = e at a c
    rw [a, c]
  · rw [KX.slots, hv3]; exact K1.slots
  · rw [KX.counts, hv3]; exact K1.counts
  · rw [KX.line, hv3]; exact K1.line
  · rw [KX.clock, hv3]; exact K1.clock
  · intro hnone
    have e : u0 = m := by rw [hu0, hnone]; rfl
    unfold sameWindows
    rw [(State.settleRows_follows x).windows, hxs, hscr, e]; rfl
  · intro hsome
    have e : u0 = m.notifyTextChanged b.offer.key := by
      rw [hu0, if_pos (by cases hq : s.story b.offer.key with
        | none => exact absurd hq hsome
        | some _ => rfl)]
    obtain ⟨q, hq⟩ : ∃ q, x.story b.offer.key = some q ∧ q.length = b.offer.length := by
      have h1 : (v.story b.offer.key).map Story.unlocked = some { Inbound.newRecord b blocks with edition := State.openEdition b s } := by
        have gen := find_unlocked b.offer.key
        simp only [State.story, Store.story]
        rw [gen, hv1, List.find?_append]
        have : ((s.store.stories.filter (fun r => decide (r.key ≠ b.offer.key))).map Story.unlocked).find? (fun r => decide (r.key = b.offer.key)) = none := by
          rw [List.find?_eq_none]
          intro r hr
          simp at hr
          obtain ⟨r', ⟨_, hne⟩, rfl⟩ := hr
          have : (Story.unlocked r').key = r'.key := rfl
          simpa [this] using hne
        rw [this]
        simp [Inbound.newRecord, Inbound.record]
      have h2 := story_unlocked hx.stories b.offer.key
      rw [h1] at h2
      cases hq : x.story b.offer.key with
      | none => rw [hq] at h2; simp at h2
      | some q =>
        rw [hq] at h2; simp at h2
        exact ⟨q, rfl, congrArg Story.length h2⟩
    refine State.settleRows_toldTextChanged (u := x) ?_ hq.1 (by rw [hq.2]; exact id)
    intro i w hi hw
    have hlen : ((m.story b.offer.key).map (·.length)).getD 0 = b.offer.length := by
      rw [hm, State.replaced_story]; rfl
    rw [hxs, hscr, e, State.notifyTextChanged_window _ _ _ _ hi hlen]
    have : m.screen = s.screen := rfl
    rw [this, hw]; rfl

end Sys2Proof.Machine
end

