-- ==== Sys2Proof/Laws/Memory.lean ====
section
/-!
SUPPORT. The text RAM: what a read gives after a write, and that every operation keeps the canonical
form.
-/

namespace Sys2Proof.Machine

/-- Every listed address is above `x`. -/
def Memory.above (x : Nat) (m : Memory) : Prop := ∀ p ∈ m, x < p.1

theorem Memory.wf_cons (a : Nat) (v : TextCell) (m : Memory) :
    Memory.wf ((a, v) :: m) = true ↔
      v ≠ blankCell ∧ (∀ p ∈ m.head?, a < p.1) ∧ Memory.wf m = true := by
  simp [Memory.wf, Option.all_eq_true, and_assoc]

/-- In the canonical form the first address is the least. -/
theorem Memory.above_of_wf : ∀ {a : Nat} {v : TextCell} {m : Memory},
    Memory.wf ((a, v) :: m) = true → Memory.above a m
  | _, _, [], _ => by simp [Memory.above]
  | a, v, (b, w) :: m, h => by
      rw [Memory.wf_cons] at h
      have hab : a < b := h.2.1 (b, w) rfl
      have ih := Memory.above_of_wf h.2.2
      intro p hp
      rcases List.mem_cons.mp hp with rfl | hp
      · exact hab
      · exact Nat.lt_trans hab (ih p hp)

/-- An address below every listed one reads as blank. -/
theorem Memory.read_above : ∀ {m : Memory} {x : Nat}, Memory.above x m → m.read x = blankCell
  | [], _, _ => rfl
  | (a, v) :: m, x, h => by
      have ha : x < a := h (a, v) (by simp)
      have : Memory.above x m := fun p hp => h p (by simp [hp])
      simp [Memory.read, Nat.ne_of_gt ha, Memory.read_above this]

/-- The cell written is read back. -/
theorem Memory.read_write_same : ∀ {m : Memory} (x : Nat) (v : TextCell),
    m.wf = true → (m.write x v).read x = v
  | [], x, v, _ => by
      by_cases hv : v = blankCell <;> simp [Memory.write, Memory.read, hv]
  | (a, w) :: m, x, v, h => by
      have habove := Memory.above_of_wf h
      have hm := ((Memory.wf_cons a w m).mp h).2.2
      by_cases h1 : x < a
      · have hx : Memory.above x ((a, w) :: m) := by
          intro p hp
          rcases List.mem_cons.mp hp with rfl | hp
          · exact h1
          · exact Nat.lt_trans h1 (habove p hp)
        by_cases hv : v = blankCell
        · simp [Memory.write, h1, hv, Memory.read_above hx]
        · simp [Memory.write, h1, hv, Memory.read]
      · by_cases h2 : x = a
        · subst h2
          by_cases hv : v = blankCell
          · simp [Memory.write, hv, Memory.read_above habove]
          · simp [Memory.write, hv, Memory.read]
        · have h3 : ¬ a = x := fun e => h2 e.symm
          simp [Memory.write, h1, h2, Memory.read, h3, Memory.read_write_same x v hm]

/-- A write leaves every other cell alone. -/
theorem Memory.read_write_other : ∀ (m : Memory) {x y : Nat} (v : TextCell),
    m.wf = true → x ≠ y → (m.write x v).read y = m.read y
  | [], x, y, v, _, hxy => by
      by_cases hv : v = blankCell <;> simp [Memory.write, Memory.read, hv, hxy]
  | (a, w) :: m, x, y, v, h, hxy => by
      have hm := ((Memory.wf_cons a w m).mp h).2.2
      by_cases h1 : x < a
      · by_cases hv : v = blankCell <;> simp [Memory.write, h1, hv, Memory.read, hxy]
      · by_cases h2 : x = a
        · subst h2
          by_cases hv : v = blankCell <;> simp [Memory.write, hv, Memory.read, hxy]
        · simp [Memory.write, h1, h2, Memory.read, Memory.read_write_other m v hm hxy]

/-- A write adds no address below one that is below the written and the listed ones. -/
theorem Memory.head_write : ∀ {m : Memory} {a x : Nat} {v : TextCell},
    (∀ p ∈ m.head?, a < p.1) → a < x → Memory.above a m → ∀ p ∈ (m.write x v).head?, a < p.1
  | [], a, x, v, _, hx, _ => by
      by_cases hv : v = blankCell <;> simp [Memory.write, hv, hx]
  | (b, w) :: m, a, x, v, h, hx, hab => by
      have hb : a < b := h (b, w) rfl
      by_cases h1 : x < b
      · by_cases hv : v = blankCell <;> simp [Memory.write, h1, hv, hb, hx]
      · by_cases h2 : x = b
        · subst h2
          by_cases hv : v = blankCell
          · simp only [Memory.write, hv, if_true, Nat.lt_irrefl, if_false]
            intro p hp
            exact hab p (List.mem_cons_of_mem _ (List.mem_of_mem_head? hp))
          · simp [Memory.write, hv, hx]
        · simp [Memory.write, h1, h2, hb]

/-- A write keeps the canonical form. -/
theorem Memory.wf_write : ∀ {m : Memory} (x : Nat) (v : TextCell), m.wf = true → (m.write x v).wf = true
  | [], x, v, _ => by
      by_cases hv : v = blankCell <;> simp [Memory.write, Memory.wf, hv]
  | (a, w) :: m, x, v, h => by
      have hab := Memory.above_of_wf h
      have hc := (Memory.wf_cons a w m).mp h
      by_cases h1 : x < a
      · by_cases hv : v = blankCell
        · simpa [Memory.write, h1, hv] using h
        · simp only [Memory.write, h1, hv, if_true, if_false]
          exact (Memory.wf_cons x v _).mpr ⟨hv, by simpa using h1, h⟩
      · by_cases h2 : x = a
        · subst h2
          by_cases hv : v = blankCell
          · simpa [Memory.write, hv] using hc.2.2
          · simp only [Memory.write, hv, if_true, if_false, Nat.lt_irrefl]
            exact (Memory.wf_cons x v _).mpr ⟨hv, hc.2.1, hc.2.2⟩
        · simp only [Memory.write, h1, h2, if_false]
          have hx : a < x := by omega
          exact (Memory.wf_cons a w _).mpr
            ⟨hc.1, Memory.head_write hc.2.1 hx hab, Memory.wf_write x v hc.2.2⟩

/-- Codes written keep the canonical form. -/
theorem wf_writeCodes (block : Nat) : ∀ (codes : List Byte) (first : Nat) (m : Memory),
    m.wf = true → (writeCodes block first codes m).wf = true
  | [], _, _, h => h
  | _ :: codes, first, _, h =>
      wf_writeCodes block codes (first + 1) _ (Memory.wf_write _ _ h)

/-- Upsets keep the canonical form. -/
theorem wf_applyUpsets (block : Nat) : ∀ (upsets : List Upset) (m : Memory),
    m.wf = true → (applyUpsets block upsets m).wf = true
  | [], _, h => h
  | u :: upsets, m, h => by
      by_cases hu : u.position < 32
      · have := wf_applyUpsets block upsets _
          (Memory.wf_write (32 * block + u.position)
            (m.read (32 * block + u.position) ^^^ u.flips) h)
        simpa [applyUpsets, hu] using this
      · simpa [applyUpsets, hu] using wf_applyUpsets block upsets m h

/-- The RAM right after reset is in canonical form. -/
theorem reset_text_wf : State.reset.store.text.wf = true := rfl

/-- A read access keeps the canonical form. -/
theorem wf_readBlock (a : Access) (upsets : List Upset) (s : State)
    (h : s.store.text.wf = true) : (s.readBlock a upsets).1.store.text.wf = true := by
  have h' := wf_applyUpsets a.block upsets _ h
  unfold State.readBlock
  dsimp only
  split
  · exact h'
  · split
    · exact h'
    · exact h'

/-- A write access keeps the canonical form. -/
theorem wf_writeBlock (a : Access) (codes : List Byte) (n : Nat) (s : State)
    (h : s.store.text.wf = true) : (s.writeBlock a codes n).store.text.wf = true :=
  wf_writeCodes a.block codes a.first _ h

end Sys2Proof.Machine
end

