-- ==== Sys2Proof/Laws/Told.lean ====
section
/-!
SUPPORT. What an owner does when the out queue tells it that a withdrawn entry has left (R55), and which entry
an attempt in progress is of.
-/

namespace Sys2Proof.Machine

/-- A list entry in use, read with a default. -/
theorem Told.getD_some {α} {l : List (Option α)} {n : Nat} {x : α} (h : l[n]? = some (some x)) : l.getD n none = some x := by
  simp [List.getD, h]
/-- A change of an entry in use is its replacement. -/
theorem Told.modify_set {α} (l : List (Option α)) (n : Nat) (x : α) (f : α → α) (h : l[n]? = some (some x)) :
   l.modify n (Option.map f) = l.set n (some (f x)) := by
  apply List.ext_getElem?
  intro i
  rw [List.getElem?_modify, List.getElem?_set]
  split
  · next e => subst e; rw [h]; have := List.getElem?_eq_some_iff.mp h; obtain ⟨hl, -⟩ := this; simp [hl]
  · simp
/-- A pass entry with nothing in its share has room (R50). -/
theorem Traffic.hasRoom_pass (t : Traffic) (n : Nat) (h : t.held (.passEntry n) = 0) : t.hasRoom (.passEntry n) = true := by
  simp [Traffic.held] at h
  simp [Traffic.hasRoom, Owner.shared]
  exact h
/-- The page share with nothing in it has room (R50). -/
theorem Traffic.hasRoom_page (t : Traffic) (h : t.held .page = 0) : t.hasRoom .page = true := by
  simp [Traffic.held] at h
  simp [Traffic.hasRoom, Owner.shared]
  exact h
/-- What the report WITHDRAWN leads to, at any owner. -/
theorem State.told_withdrawn (e : OutEntry) (s : State) : WithdrawnGone e s ((s.tellOwner e .withdrawn).settle) where
  plain := by
    intro h1 h2 h3
    have : s.tellOwner e .withdrawn = s := by
      unfold State.tellOwner
      cases ho : e.owner with
      | passEntry n =>
        simp only [State.passTold]
        cases hp : s.outbound n with
        | none => simp [Report.ends, State.sendReady, hp]
        | some p =>
          have hl : s.pass.outbound[n]? = some (some p) := by
            simp [State.outbound, List.getD] at hp
            cases hq : s.pass.outbound[n]? with
            | none => simp [hq] at hp
            | some y => simp [hq] at hp; rw [hp]
          have hr := h1 n p ho hl
          simp [State.offerTold, State.slipTold, Report.ends, State.sendReady, hp, hr]
      | page => simp [State.pageTold, h2 ho]
      | take n => rfl
      | answer => rfl
      | flash => rfl
      | clock => simp [State.clockTold, h3 ho]
    rw [this]; exact State.settle_follows s
  pass := by
    intro n p f ho hp hr hh
    have hp' : s.outbound n = some p := Told.getD_some hp
    have hroom := Traffic.hasRoom_pass _ _ hh
    have : s.tellOwner e .withdrawn = { s with
          pass :=
            { s.pass with
                outbound := s.pass.outbound.set n
                  (some
                    { p with
                        reading := none, ready := none,
                        offered := p.offered || decide (f.kind = .offer) }) },
          traffic := { s.traffic with queue := s.traffic.queue ++ [newEntry (.passEntry n) f] } } := by
      simp only [State.tellOwner, ho, State.passTold, hp']
      simp only [State.offerTold, State.slipTold, Report.ends, if_true, ite_self]
      simp only [State.sendReady, hp', Option.bind_some, hr, hroom, if_true, State.passFrame, State.send, State.onTraffic, State.onOutbound, State.onPass, Traffic.insert, newEntry]
      rw [Told.modify_set _ _ _ _ hp]
    rw [this]; exact State.settle_follows _
  page := by
    intro f ho hd hh
    have hroom := Traffic.hasRoom_page _ hh
    have : s.tellOwner e .withdrawn = { s with
          page := { s.page with dropReady := none },
          traffic := { s.traffic with queue := s.traffic.queue ++ [newEntry .page f] } } := by
      simp [State.tellOwner, ho, State.pageTold, hd, State.send, hroom, State.onTraffic, State.onPage, Traffic.insert, newEntry]
    rw [this]; exact State.settle_follows _
  clock := by
    intro m ho hm hh
    have hroom : s.traffic.hasRoom .clock = true := by
      unfold Traffic.heldShared at hh
      simp [Traffic.hasRoom, show Owner.shared .clock = true from rfl]; exact hh
    have : s.tellOwner e .withdrawn = { s with
      clock := { s.clock with nextMark := none },
      traffic :=
        { s.traffic with
            queue :=
                s.traffic.queue ++ [newEntry .clock
                  { kind := .timeMark, dest := { form := .role, number := 15 },
                    payload := threeBytes m }] } } := by
      simp [State.tellOwner, ho, State.clockTold, hm, State.send, hroom, State.onTraffic, State.onClock, Traffic.insert, newEntry, timeMarkFrame]
      try rfl
    rw [this]; exact State.settle_follows _

/-- The first ON LINE entry is the one whose attempt is in progress. -/
theorem State.onLineEntry_of {s : State} {i e} (h : s.traffic.queue[i]? = some e) (ho : e.onLine = true)
   (hj : ∀ (j : Nat) (x : OutEntry), j < i → s.traffic.queue[j]? = some x → x.onLine = false) : s.onLineEntry = some (i, e) := by
  have hi : s.traffic.onLineIndex = some i := by
    unfold Traffic.onLineIndex indexWhere
    have hl := (List.getElem?_eq_some_iff.mp h)
    obtain ⟨hlt, he⟩ := hl
    have : s.traffic.queue.findIdx (fun e => e.onLine) = i := by
      rw [List.findIdx_eq hlt]
      refine ⟨by rw [he]; exact ho, ?_⟩
      intro j hj2
      exact hj j _ hj2 (List.getElem?_eq_getElem (by omega))
    dsimp only
    rw [this]; simp [hlt]
  simp [State.onLineEntry, hi, h]

end Sys2Proof.Machine
end

