-- ==== Sys2Proof/Laws/Wire.lean ====
section
/-!
SUPPORT. What the filter, the search for an edge and the measure of a level answer (R26 to R28), and how bits
are read from a wire that carries one level a bit period.
-/

namespace Sys2Proof.Machine

theorem Wire.holds_iff (w : Wire) (level : Bool) (t : Nat) :
    w.holds level t = true ↔ ∀ i, i < 8 → w (t + i) = level := by
  simp [Wire.holds]

theorem Wire.seen_succ (w : Wire) (t : Nat) :
    w.seen (t + 1) = if w.holds (!w.seen t) (t + 1) then !w.seen t else w.seen t := rfl

/-- A wire whose every level lasts T/8 is seen as it is. -/
theorem Wire.seen_steady {w : Wire} (h0 : w 0 = false)
    (h : ∀ t, w (t + 1) ≠ w t → ∀ i, i < 8 → w (t + 1 + i) = w (t + 1)) (t : Nat) : w.seen t = w t := by
  induction t with
  | zero => exact h0.symm
  | succ t ih =>
    rw [Wire.seen_succ, ih]
    by_cases e : w (t + 1) = w t
    · rw [if_neg]
      · exact e.symm
      · rw [Wire.holds_iff]
        intro hx
        have := hx 0 (by omega)
        rw [Nat.add_zero, e] at this
        simp at this
    · have e' : (!w t) = w (t + 1) := by
        revert e
        clear ih
        generalize w t = x
        generalize w (t + 1) = y
        cases x <;> cases y <;> simp
      rw [if_pos]
      · exact e'
      · rw [Wire.holds_iff]
        exact fun i hi => (h t e i hi).trans e'.symm

/-- The first edge that falls is the one that is found. -/
theorem Wire.nextFall_eq {w : Wire} {t span j : Nat} (hj : j < span)
    (before : ∀ i, i < j → ¬(w (t + i) = false ∧ w (t + i + 1) = true))
    (at_ : w (t + j) = false ∧ w (t + j + 1) = true) : w.nextFall t span = some (t + j + 1) := by
  have : (List.range span).find? (fun i => !w (t + i) && w (t + i + 1)) = some j := by
    rw [List.find?_range_eq_some]
    refine ⟨by simp [at_.1, at_.2], by simpa using hj, fun i hi => ?_⟩
    have := before i hi
    revert this
    cases w (t + i) <;> cases w (t + i + 1) <;> simp
  simp [Wire.nextFall, this]

/-- A level that is over by `d` has lasted `d` at most. -/
theorem Wire.run_le {w : Wire} {t d : Nat} (hd : d < 513) (ended : w (t + d) = false) : w.run t ≤ d := by
  have e : List.range 513 = List.range d ++ (List.range (513 - d)).map (d + ·) := by
    rw [← List.range_add]
    congr 1
    omega
  obtain ⟨n, hn⟩ : ∃ n, 513 - d = n + 1 := ⟨512 - d, by omega⟩
  rw [Wire.run, e, hn, List.range_succ_eq_map, List.takeWhile_append]
  split
  · simp [ended]
  · exact (List.takeWhile_sublist _).length_le.trans (by simp)

/-- A level that lasts through `d` ticks and is then over has lasted `d`. -/
theorem Wire.run_eq {w : Wire} {t d : Nat} (hd : d < 513) (ended : w (t + d) = false)
    (lasts : ∀ i, i < d → w (t + i) = true) : w.run t = d := by
  refine Nat.le_antisymm (Wire.run_le hd ended) ?_
  have e : List.range 513 = List.range d ++ (List.range (513 - d)).map (d + ·) := by
    rw [← List.range_add]
    congr 1
    omega
  rw [Wire.run, e, List.takeWhile_append_of_pos (by simpa using lasts)]
  simp

theorem Wire.longLevel_none {w : Wire} {lead : Nat} (h : ∀ i, i < 33 → w.run (lead + i) ≤ 64) :
    w.longLevel lead = none := by
  simp only [Wire.longLevel, Option.map_eq_none_iff, List.find?_eq_none, List.mem_range, decide_eq_true_eq]
  exact fun i hi => Nat.not_lt.mpr (h i hi)

/-! ## One level a bit period -/

/-- A wire that is dominant from the start of each of `n` bit periods from `start` on, for `hold k` in the
`k`th. -/
def beats (start n : Nat) (hold : Nat → Nat) : Wire := fun t =>
  decide (start ≤ t) && decide ((t - start) / 64 < n) && decide ((t - start) % 64 < hold ((t - start) / 64))

theorem beats_at (start n : Nat) (hold : Nat → Nat) (k r : Nat) (hr : r < 64) :
    beats start n hold (start + 64 * k + r) = (decide (k < n) && decide (r < hold k)) := by
  unfold beats
  have e : start + 64 * k + r - start = 64 * k + r := by omega
  have a : (64 * k + r) / 64 = k := by omega
  have b : (64 * k + r) % 64 = r := by omega
  have c : start ≤ start + 64 * k + r := by omega
  rw [e, a, b]
  simp [c]

theorem beats_before {start t : Nat} (n : Nat) (hold : Nat → Nat) (h : t < start) :
    beats start n hold t = false := by
  have : ¬start ≤ t := by omega
  simp [beats, this]

/-- A time at or after `start` is a place in one of the bit periods. -/
theorem exists_beat {start t : Nat} (h : start ≤ t) : ∃ k r, r < 64 ∧ t = start + 64 * k + r :=
  ⟨(t - start) / 64, (t - start) % 64, Nat.mod_lt _ (by omega), by omega⟩

/-- Such a wire has no level shorter than T/8 where each is T/8 to 7T/8 long. -/
theorem beats_steady {start n : Nat} {hold : Nat → Nat} (hh : ∀ k, 8 ≤ hold k ∧ hold k ≤ 56) (t : Nat)
    (h : beats start n hold (t + 1) ≠ beats start n hold t) (i : Nat) (hi : i < 8) :
    beats start n hold (t + 1 + i) = beats start n hold (t + 1) := by
  by_cases c : start ≤ t
  · obtain ⟨k, r, hr, rfl⟩ := exists_beat c
    rw [beats_at _ _ _ _ _ hr] at h
    by_cases c63 : r = 63
    · have e : start + 64 * k + r + 1 = start + 64 * (k + 1) + 0 := by omega
      have e2 : start + 64 * k + r + 1 + i = start + 64 * (k + 1) + i := by omega
      have := hh (k + 1)
      have a1 : i < hold (k + 1) := by omega
      have a2 : 0 < hold (k + 1) := by omega
      rw [e2, e, beats_at _ _ _ _ _ (by omega), beats_at _ _ _ _ _ (by omega)]
      simp [a1, a2]
    · have e : start + 64 * k + r + 1 = start + 64 * k + (r + 1) := by omega
      rw [e, beats_at _ _ _ _ _ (by omega)] at h
      have hb : r + 1 = hold k := by
        by_contra hc
        apply h
        by_cases c2 : r + 1 < hold k
        · have : r < hold k := by omega
          simp [c2, this]
        · have : ¬r < hold k := by omega
          simp [c2, this]
      have := hh k
      have e2 : start + 64 * k + r + 1 + i = start + 64 * k + (r + 1 + i) := by omega
      have a1 : ¬r + 1 + i < hold k := by omega
      have a2 : ¬r + 1 < hold k := by omega
      rw [e2, e, beats_at _ _ _ _ _ (by omega), beats_at _ _ _ _ _ (by omega)]
      simp [a1, a2]
  · rw [beats_before (t := t) _ _ (by omega)] at h
    by_cases c1 : start ≤ t + 1
    · have e : t + 1 = start + 64 * 0 + 0 := by omega
      have e2 : t + 1 + i = start + 64 * 0 + i := by omega
      have := hh 0
      have a1 : i < hold 0 := by omega
      have a2 : 0 < hold 0 := by omega
      rw [e2, e, beats_at _ _ _ _ _ (by omega), beats_at _ _ _ _ _ (by omega)]
      simp [a1, a2]
    · exact absurd (beats_before _ _ (by omega)) h

/-- The bits of one sender at its own timer are one level a bit period (R27). -/
theorem bitsWire_own (start : Nat) (bits : List Bool) :
    bitsWire (sendBits start (bits.map fun b => (b, none))) =
      beats start bits.length fun k => bitHold (bits.getD k true) := by
  funext t
  induction bits generalizing start with
  | nil => simp [sendBits, bitsWire, beats]
  | cons b bits ih =>
    have e : bitsWire (sendBits start ((b :: bits).map fun b => (b, none))) t =
        (({ start := start, lead := start, one := b } : SentBit).drives t ||
          bitsWire (sendBits (start + 64) (bits.map fun b => (b, none))) t) := by
      simp [sendBits, sendBit, bitsWire]
    rw [e, ih]
    unfold beats SentBit.drives
    have hb : bitHold b ≤ 48 := by cases b <;> decide
    by_cases c : start ≤ t
    · by_cases c2 : start + 64 ≤ t
      · have d1 : (t - start) / 64 = (t - (start + 64)) / 64 + 1 := by omega
        have d2 : (t - start) % 64 = (t - (start + 64)) % 64 := by omega
        have : ¬t < start + bitHold b := by omega
        rw [d1, d2]
        simp [c, c2, this]
      · have d1 : (t - start) / 64 = 0 := by omega
        have d2 : (t - start) % 64 = t - start := by omega
        have : (t < start + bitHold b) ↔ (t - start < bitHold b) := by omega
        rw [d1, d2]
        simp [c, c2, this]
    · have : ¬start + 64 ≤ t := by omega
      simp [c, this]

/-- The lead of the next bit of such a wire is found. -/
theorem Wire.nextFall_beats {w : Wire} {start n : Nat} {hold : Nat → Nat}
    (hh : ∀ k, 8 ≤ hold k ∧ hold k ≤ 56) (hw : ∀ t, start ≤ t → w t = beats start n hold t) {k : Nat}
    (hk : k + 1 < n) : w.nextFall (start + 64 * k + 32) 96 = some (start + 64 * (k + 1)) := by
  have at_ : ∀ j r, r < 64 → w (start + 64 * j + r) = (decide (j < n) && decide (r < hold j)) :=
    fun j r hr => by rw [hw _ (by omega), beats_at _ _ _ _ _ hr]
  have e : start + 64 * (k + 1) = start + 64 * k + 32 + 31 + 1 := by omega
  rw [e]
  refine Wire.nextFall_eq (w := w) (t := start + 64 * k + 32) (span := 96) (j := 31) (by omega) ?_ ?_
  · intro i hi hc
    have e1 : start + 64 * k + 32 + i = start + 64 * k + (32 + i) := by omega
    have e2 : start + 64 * k + 32 + i + 1 = start + 64 * k + (32 + i + 1) := by omega
    have kn : k < n := by omega
    rw [e2, e1, at_ k _ (by omega), at_ k _ (by omega)] at hc
    simp [kn] at hc
    omega
  · have e1 : start + 64 * k + 32 + 31 = start + 64 * k + 63 := by omega
    have e2 : start + 64 * k + 32 + 31 + 1 = start + 64 * (k + 1) + 0 := by omega
    have h1 := hh k
    have h2 := hh (k + 1)
    have a1 : ¬63 < hold k := by omega
    have a2 : 0 < hold (k + 1) := by omega
    rw [e2, e1, at_ k _ (by omega), at_ (k + 1) _ (by omega)]
    simp [hk, a1, a2]

/-- A receiver reads the bits of such a wire: a 0 where the level reaches T/2. -/
theorem Wire.readBits_beats {w : Wire} {start n : Nat} {hold : Nat → Nat}
    (hh : ∀ k, 8 ≤ hold k ∧ hold k ≤ 56) (hw : ∀ t, start ≤ t → w t = beats start n hold t) :
    ∀ m k, k + m ≤ n →
      w.readBits m (start + 64 * k) =
        .bits ((List.range m).map fun j => !decide (32 < hold (k + j))) (start + 64 * (k + (m - 1))) := by
  intro m
  induction m with
  | zero => intros; rfl
  | succ m ih =>
    intro k hk
    have at_ : ∀ j r, r < 64 → w (start + 64 * j + r) = (decide (j < n) && decide (r < hold j)) :=
      fun j r hr => by rw [hw _ (by omega), beats_at _ _ _ _ _ hr]
    have kn : k < n := by omega
    have h32 := at_ k 32 (by omega)
    simp only [kn, decide_true, Bool.true_and] at h32
    unfold Wire.readBits
    by_cases m0 : m = 0
    · subst m0
      simp [h32]
    · have short : w.longLevel (start + 64 * k) = none := by
        refine Wire.longLevel_none fun i hi => ?_
        have := hh k
        refine (Wire.run_le (d := 63 - i) (by omega) ?_).trans (by omega)
        have e : start + 64 * k + i + (63 - i) = start + 64 * k + 63 := by omega
        have a : ¬63 < hold k := by omega
        rw [e, at_ k _ (by omega)]
        simp [a]
      rw [if_neg m0, short, Wire.nextFall_beats hh hw (by omega)]
      simp only [Option.isSome_none, Bool.false_eq_true, if_false, ih (k + 1) (by omega), Reception.cons,
        h32, List.range_succ_eq_map, List.map_cons, List.map_map]
      have e : start + 64 * (k + 1 + (m - 1)) = start + 64 * (k + (m + 1 - 1)) := by omega
      rw [e]
      simp [Function.comp_def, Nat.add_assoc, Nat.add_comm 1]

end Sys2Proof.Machine
end

