-- ==== Sys2Proof/Tests/Slice0.lean ====
section
/-!
SUPPORT. Tests: ill-formed terms that WellFormed refuses, messages and frames written out from the
formats, one row on one small state, and a witness for the hypotheses of each obligation. Expected
values are from spec/ (its worked examples and tables), not from the model.
-/

namespace Sys2Proof.Tests

open Sys2Proof Sys2Proof.Machine

/-! ## Ill-formed terms -/

theorem test_wf_refuses_fields :
    Instr.wellFormed (.powerOnReset 32) = false ∧
    Instr.wellFormed (.openStory [0x41#8, 0x00#8] 1) = false ∧
    Instr.wellFormed (.openStory (List.replicate 13 0x41#8) 1) = false ∧
    Instr.wellFormed (.openStory [0x41#8] 256) = false ∧
    Instr.wellFormed (.dropStory ⟨32, 1⟩) = false ∧
    Instr.wellFormed (.dropStory ⟨1, 65536⟩) = false ∧
    Instr.wellFormed (.place ⟨1, 1⟩ 65536 0 []) = false ∧
    Instr.wellFormed (.place ⟨1, 1⟩ 0 65536 []) = false ∧
    Instr.wellFormed (.place ⟨1, 1⟩ 0 0 (List.replicate 33 0x41#8)) = false ∧
    Instr.wellFormed (.readText ⟨1, 1⟩ 0 65536) = false ∧
    Instr.wellFormed (.pass ⟨1, 1⟩ ⟨.station, 256⟩ false) = false ∧
    Instr.wellFormed (.fit ⟨1, 1⟩ ⟨0, 65536, 10, 0, 0⟩) = false ∧
    Instr.wellFormed (.fit ⟨1, 1⟩ ⟨256, 60, 10, 0, 0⟩) = false ∧
    Instr.wellFormed (.fitStatus (some 256)) = false ∧
    Instr.wellFormed (.fitDepth ⟨1, 1⟩ 1 65536) = false ∧
    Instr.wellFormed (.planPage 0 1 1 false [⟨⟨1, 1⟩, 256, ⟨0, 60, 10, 0, 0⟩, 0⟩]) = false ∧
    Instr.wellFormed (.sendPage 256) = false ∧
    Instr.wellFormed (.setClock 16777216) = false ∧
    Instr.wellFormed (.view 0 none false 65536) = false ∧
    Instr.wellFormed (.cursor 0 (some 65536)) = false ∧
    Instr.wellFormed (.sendFlash [0x41#8] ⟨.role, 256⟩) = false := by decide

theorem test_wf_refuses_events :
    Instr.wellFormed (.readTextAccessCompletion [⟨32, 1#9⟩]) = false ∧
    Instr.wellFormed (.arbitrationLost 8) = false ∧
    Instr.wellFormed (.arbitrationLost 0) = false ∧
    Instr.wellFormed (.bitError 7) = false ∧
    Instr.wellFormed (.frameEnd (List.replicate 38 true)) = false ∧
    Instr.wellFormed (.answerTimerExpiry 4) = false ∧
    Instr.wellFormed (.gapTimerExpiry 2) = false ∧
    Instr.wellFormed (.startMarkRecognised 11 8) = false ∧
    Instr.wellFormed (.startMarkRecognised 21 8) = false ∧
    Instr.wellFormed (.startMarkRecognised 16 17) = false := by decide

/-- The start record of the example in section 9.4, station 28. -/
def spec28 : StartSpec :=
  { rate := 2, roles := [4], retry := 9, typesetRole := 14, policy := 0, answerTime := 1000,
    gapTime := 500, clockSource := 0, dayStart := 600, editionCount := 4,
    editions := [⟨600, 30, 20⟩, ⟨720, 30, 20⟩, ⟨840, 30, 15⟩, ⟨960, 20, 30⟩], screenCount := 1,
    rowSlot := 1, flashHold := 30, tendWindow := 2000, mask := 0#24 }

theorem test_wf_refuses_records :
    Instr.wellFormed (.settle spec28) = true ∧
    Instr.wellFormed (.settle { spec28 with answerTime := 65536 }) = false ∧
    Instr.wellFormed (.settle { spec28 with roles := [256] }) = false ∧
    Instr.wellFormed (.settle { spec28 with editions := [⟨0, 256, 0⟩] }) = false := by decide

/-! ## Formats (R198, R199, R203) -/

/-- Messages written out byte by byte from R203. -/
theorem test_messages_read :
    readMessage [0x43#8, 0x07#8, 0x00#8, 0x00#8] = some .lineRetry ∧
    readMessage [0x43#8, 0x04#8, 0x00#8, 0x03#8, 0x07#8, 0x00#8, 0x0C#8] =
      some (.dropStory ⟨7, 12⟩) ∧
    readMessage [0x43#8, 0x15#8, 0x00#8, 0x03#8, 0x01#8, 0x1F#8, 0x1C#8] = some (.setClock 73500) ∧
    readMessage [0x43#8, 0x21#8, 0x00#8, 0x00#8] = none ∧
    readMessage [0x43#8, 0x1D#8, 0x00#8, 0x01#8, 0x03#8] = some (.tend 0x03#8) := by decide

set_option maxRecDepth 4000 in
/-- The body of a TAKE of key (7, 12) from station 9 to station 7, bit by bit from R198: class 1, source
9, kind 3, form station, destination 7, length 3, payload, check 0xB039. -/
theorem test_take_frame_reads :
    readBody ([false, true] ++ [false, true, false, false, true] ++ [false, false, true, true] ++
        [false] ++ [false, false, true, true, true] ++ [false, false, false, false, true, true] ++
        [false, false, false, false, false, true, true, true] ++
        [false, false, false, false, false, false, false, false] ++
        [false, false, false, false, true, true, false, false] ++
        [true, false, true, true, false, false, false, false, false, false, true, true, true, false,
          false, true]) =
      some
        ({ cls := 1, source := 9, kind := 3, dest := ⟨.station, 7⟩,
           payload := [0x07#8, 0x00#8, 0x0C#8] }, true) := by decide

/-- The table gives no row bits. -/
theorem test_no_words (s : State) : decodeTableWord 8 0x43 = none ∧ s.withFetchWord 8 0x43 = s :=
  ⟨rfl, rfl⟩

/-! ## Small states -/

/-- What a row answers. -/
def after (i : Instr) (s : State) : State :=
  match exec i s with
  | .next t => t
  | .fault _ => s
  | .refused _ => s

def record9 : StartRecord :=
  { rate := 2, roles := [4], retry := 1, typesetRole := 14, ask := false, answerTime := 100,
    gapTime := 50, clockSource := 9, dayStart := 600,
    editions := [⟨600, 30, 20⟩, ⟨720, 30, 20⟩], screens := 1, rowSlot := 2, flashHold := 10,
    tendWindow := 250, mask := 0#18 }

/-- Station 9, ON-LINE and ACTIVE, its clock unset, with three free blocks. -/
def base : State :=
  { State.reset with
    store := { Store.reset with pool := [0, 1, 2] },
    line := { Line.reset with state := .active },
    clock := { Clock.reset with editions := [.opened, .opened] },
    screen := { Screen.reset with timer := true },
    desk :=
      { Desk.reset 9 with state := .onLine, record := some record9, tendTimer := some 10000 } }

/-- Story (9, 1), HELD, of three characters in block 5. -/
def story : Story :=
  { key := ⟨9, 1⟩, slug := [0x41#8], edition := 1, custody := .held, length := 3, chain := [5],
    damaged := false, lock := none, fit := none, receivedFrom := none, inEdit := false }

def with1 (r : Story) (s : State) : State := { s with store := { s.store with stories := [r] } }

/-- The text "GO" and an em space in block 5. -/
def text5 : Memory := writeCodes 5 0 [0x47#8, 0x4F#8, 0x7F#8] []

/-! ## One row on one small state -/

/-- Section 4.3 and R2: the serial after 4095 is 1. -/
theorem test_open_story :
    (after (.openStory [0x46#8] 1) { base with store := { base.store with serial := 4095 } }).store.serial = 1 ∧
    (after (.openStory [0x46#8] 1) base).desk.response =
      some { name := 0x01#8, result := .done, field := none, data := .opened ⟨9, 1⟩ } := by decide

/-- R15: growth of one block, and the read of the partial first block before it is written. -/
theorem test_place_asks :
    (after (.place ⟨9, 1⟩ 3 3 (List.replicate 30 0x41#8)) (with1 story base)).port.busy =
      some { purpose := .rewriteRead 0, block := 5, first := 0, count := 3, aside := false } ∧
    (after (.place ⟨9, 1⟩ 3 3 (List.replicate 30 0x41#8)) (with1 story base)).store.pool = [1, 2] := by
  decide

theorem test_place_bad_text :
    (after (.place ⟨9, 1⟩ 0 0 [0x1A#8]) (with1 story base)).desk.response =
      some { name := 0x02#8, result := .badText, field := none, data := .nothing } := by decide

/-- R17: READ TEXT past the last character is cut at it. -/
theorem test_read_text :
    (after (.readTextAccessCompletion [])
        (after (.readText ⟨9, 1⟩ 1 32)
          (with1 story { base with store := { base.store with text := text5 } }))).desk.response =
      some { name := 0x03#8, result := .done, field := none, data := .text [0x4F#8, 0x7F#8] } ∧
    (after (.readText ⟨9, 1⟩ 1 32) (with1 story base)).port.busy =
      some { purpose := .readText, block := 5, first := 1, count := 2, aside := false } := by decide

theorem test_drop_story_returns_block :
    (after (.dropStory ⟨9, 1⟩) (with1 story base)).store.pool = [5, 0, 1, 2] ∧
    (after (.dropStory ⟨9, 1⟩) (with1 { story with custody := .outbound } base)).desk.response =
      some { name := 0x04#8, result := .wrongState, field := none, data := .nothing } := by decide

/-- R20: a DOUBT story with its doubt carbon, dropped, is a CARBON. -/
theorem test_resolve_drop_to_carbon :
    (after (.resolve ⟨9, 1⟩ false) (with1 { story with custody := .doubt true } base)).store.stories.map
      (·.custody) = [.carbon] := by decide

/-- R9: a flipped bit makes bad parity, which marks the block and raises STORE DAMAGE. -/
theorem test_bad_parity_marks :
    let a : Access := { purpose := .walkRead, block := 5, first := 0, count := 3, aside := true }
    let s : State :=
      { base with port := { base.port with busy := some a }, store := { base.store with text := text5 } }
    (after (.lineWalkReadCompletion [{ position := 1, flips := 0x001#9 }]) s).store.marks = [5] ∧
    (after (.lineWalkReadCompletion [{ position := 1, flips := 0x001#9 }]) s).desk.latched .storeDamage
      = true := by decide

/-- R9: odd parity over the nine bits; the code 0x41 has two ones, so its parity bit is 1. -/
theorem test_parity : encodeCell 0x41#8 = 0x141#9 ∧ encodeCell 0x43#8 = 0x043#9 := by decide

/-- R37: the example of a class 1 frame with no attempt made begins at a quiet count of 5. -/
def offering : State :=
  { base with
    traffic :=
      { base.traffic with
        queue := [newEntry (.passEntry 1) { kind := .offer, dest := ⟨.station, 17⟩, payload := [] }] } }

theorem test_quiet_time :
    (after (.startMarkBegin 4) offering).traffic.sending = false ∧
    (after (.startMarkBegin 5) offering).traffic.sending = true := by decide

/-- The example of section 3.2, with a retry limit of 1: two attempts, then FAILED. -/
theorem test_attempts_run_out :
    let s := after (.slotEnd false false) (after (.startMarkBegin 5) offering)
    s.traffic.queue.map (·.attempts) = [1] ∧
    s.traffic.queue.map (·.lastCause) = [some .noTaker] ∧
    (after (.slotEnd false false) (after (.startMarkBegin 7) s)).traffic.counts.failed = 1 := by decide

set_option maxRecDepth 10000 in
/-- R38: a class 1 frame of station 9 sends 0 1 0 1 0 0 1, so arbitration can be lost in bit 2. -/
theorem test_arbitration_lost :
    (after (.arbitrationLost 2) (after (.startMarkBegin 5) offering)).traffic.queue.map (·.losses) = [1] ∧
    (after (.arbitrationLost 1) (after (.startMarkBegin 5) offering)).traffic.sending = true := by
  decide

set_option maxRecDepth 10000 in
/-- R26: seven 64ths of T are not seen, eight are, and a gap of seven is not. -/
theorem test_wire_filter :
    Wire.seen (fun t => decide (3 ≤ t ∧ t < 10)) 9 = false ∧
    Wire.seen (fun t => decide (3 ≤ t ∧ t < 11)) 3 = true ∧
    Wire.seen (fun t => decide (3 ≤ t ∧ t < 11) || decide (18 ≤ t)) 15 = true := by decide

set_option maxRecDepth 10000 in
/-- R27, R28: a start mark is dominant for 2T and released for T; two senders together send a 0. R30: a level of
more than T that falls before T/2 abandons the frame. -/
theorem test_wire_rows :
    (frameWire 1 [true]).levelRow 1 = .startMarkRecognised 16 8 ∧
    Wire.levelRow (fun t => decide (1 ≤ t ∧ t < 96)) 1 = .dominantLevelNotStartMark 11 ∧
    Wire.levelRow (fun t => decide (1 ≤ t)) 1 = .stuckLine 65 ∧
    ((bitsWire (sendBits 1 [(true, none), (false, none)])).join
      (bitsWire (sendBits 20 [(false, some 1), (true, some 65)]))).readBits 2 1 = .bits [false, false] 65 ∧
    Wire.readBits (fun t => decide (1 ≤ t ∧ t < 17) || decide (21 ≤ t ∧ t < 91) || decide (101 ≤ t ∧ t < 117)) 2 1 =
      .abandoned .longDominant := by
  decide

set_option maxRecDepth 10000 in
/-- R41, the example of section 2.8: ACTIVE returns with a quiet count of 16. -/
theorem test_stuck_line :
    let s := after (.stuckLine 65) base
    (after (.stuckLine 64) base).line.dominantRun = 64 ∧ s.line.dominantRun = 0 ∧
    s.line.state = .stuck ∧ s.desk.latched .lineFault = true ∧ s.desk.lamp = .steady ∧
    (after (.stuckRelease 16) s).line.state = .active ∧ (after (.stuckRelease 16) s).line.quiet = 16 ∧
    (after (.stuckRelease 9) (after (.stuckLine 65) (after (.stuckRelease 15) s))).line.state = .stuck := by
  decide

set_option maxRecDepth 10000 in
/-- R40, the example of section 2.9: the attempt ends BIT ERROR and the state is LISTEN-ONLY. -/
theorem test_drive_fault :
    let s := after .driveFault (after (.startMarkBegin 5) offering)
    s.line.state = .listenOnly ∧ s.traffic.queue.map (·.lastCause) = [some .bitError] ∧
    (after .lineRetry s).line.state = .joining := by decide

theorem test_join :
    let s := { base with line := { base.line with state := .joining } }
    (after (.joinComplete 23) s).line.state = .joining ∧ (after (.joinComplete 24) s).line.quiet = 24 := by
  decide

set_option maxRecDepth 10000 in
/-- R36: a TAKE with a payload of four bytes is an unknown kind; R35: this station's number. -/
theorem test_frame_kinds :
    let s := { base with line := { base.line with receiving := true } }
    let f : Frame := { cls := 1, source := 4, kind := 3, dest := ⟨.station, 9⟩,
                       payload := [0x09#8, 0x00#8, 0x01#8, 0x00#8] }
    (s.goodFrame f).traffic.counts.unknownKinds = 1 ∧
    (s.goodFrame { f with payload := [0x09#8, 0x00#8, 0x01#8] }).traffic.slots.length = 1 ∧
    (s.goodFrame { f with source := 9 }).desk.latched .sameNumber = true := by decide

set_option maxRecDepth 10000 in
/-- R31: the check of an empty string is the starting value; of "A" (0x41) it is 0xB915, and the check of
the nine characters 1 to 9 is the well known 0x29B1 of this polynomial and start. -/
theorem test_check :
    crcCodes crcStart [] = 0xFFFF#16 ∧ crcCodes crcStart [0x41#8] = 0xB915#16 ∧
    crcCodes crcStart [0x31#8, 0x32#8, 0x33#8, 0x34#8, 0x35#8, 0x36#8, 0x37#8, 0x38#8, 0x39#8] =
      0x29B1#16 := by decide

/-! ## Worked examples -/

/-- Face 1 of section 5.6: R 12, a 9, i 5, n 10, f 6, e 9, l 5, o 10, t 6, h 10, c 8, y 9, full stop 5,
space 5. -/
def face1 : Face :=
  { part0 := some ((List.replicate 32 9).set 0 5 |>.set 14 5),
    part1 := some ((List.replicate 32 9).set 18 12),
    part2 := some ((((((((List.replicate 32 9).set 9 5).set 14 10).set 6 6).set 12 5).set 15 10).set 20
      6).set 8 10 |>.set 3 8) }

def city : Setting := { face := 1, measure := 60, size := 20, lead := 2, indent := 18 }

/-- A run of a text in a setting, by a face or by estimated widths. -/
def runOf (t : Setting) (f : Face) (text : List Byte) : FitReading :=
  FitReading.feed 0 text
    { table := f.table, capacity := capacityOf t, firstCap := firstCapacityOf t,
      length := text.length, block := 0, breaker := Breaker.start, lines := 0, overwide := false }

set_option maxRecDepth 20000 in
theorem test_fit_known_face :
    (let r := runOf city face1 (codesOf "Rain fell on the city.")
     r.lines + (r.breaker.finish 22).length = 2 ∧ r.overwide = false ∧ r.table.isNone = false) ∧
    halfPoints city 2 1 = 44 ∧ points city 2 1 = 22 := by decide

set_option maxRecDepth 10000 in
theorem test_fit_estimated :
    let t : Setting := { face := 2, measure := 60, size := 144, lead := 0, indent := 20 }
    let r := runOf t Face.absent (codesOf "Go ox")
    r.lines + (r.breaker.finish 5).length = 4 ∧ r.overwide = true ∧ points t 4 1 = 288 := by decide

theorem test_depth_and_overset :
    let t : Setting := { face := 0, measure := 60, size := 19, lead := 1, indent := 0 }
    points t 25 2 = 130 ∧ oversetOf t 25 2 120 = 10 ∧ oversetOf t 25 2 130 = 0 ∧
    points { t with size := 144, lead := 8 } 4095 1 = 32768 := by decide

set_option maxRecDepth 60000 in
/-- The story of length 143 of section 5.7. -/
theorem test_screen_lines :
    (breakText screenMeasure
      (List.replicate 58 0x61#8 ++ codesOf " desk" ++ [0x0A#8] ++ codesOf "   wire " ++
        List.replicate 70 0x62#8 ++ [0x0A#8])).map (·.start) = [0, 67, 72, 136] := by decide

/-- Station 28 of section 7.3, its clock source station 28, with its four editions. -/
def base28 : State :=
  { State.reset with
    line := { Line.reset with state := .active },
    clock := { Clock.reset with editions := List.replicate 4 .opened },
    desk :=
      { Desk.reset 28 with
        state := .onLine,
        record := some
          { record9 with
            clockSource := 28, screens := 0,
            editions := [⟨600, 30, 20⟩, ⟨720, 30, 20⟩, ⟨840, 30, 15⟩, ⟨960, 20, 30⟩] } } }

set_option maxRecDepth 10000 in
/-- The first set: F of edition 1 moves to edition 2. -/
theorem test_first_set :
    let t := after (.setClock 73500) (with1 { story with key := ⟨28, 54⟩ } base28)
    t.clock.editions = [.closed, .opened, .opened, .opened] ∧
    t.store.stories.map (·.edition) = [2] ∧ t.desk.latched .editionStep = true ∧
    (after (.setClock 86400) base28).clock.isSet = false := by decide

/-- The transitions of the forward set of section 7.6, at their instants. -/
theorem test_forward_transitions :
    let at_ (t : Nat) (l : List EditionState) := (editionsAt base28.editionTable 600 t (l, 0)).1
    at_ 79200 [.closed, .due, .opened, .opened] = [.closed, .late, .opened, .opened] ∧
    at_ 80400 [.closed, .late, .opened, .opened] = [.closed, .closed, .opened, .opened] ∧
    at_ 84600 [.closed, .closed, .opened, .opened] = [.closed, .closed, .due, .opened] ∧
    at_ 0 [.closed, .closed, .due, .opened] = [.closed, .closed, .late, .opened] ∧
    at_ 900 [.closed, .closed, .late, .opened] = [.closed, .closed, .closed, .opened] ∧
    at_ 36000 [.closed, .closed, .late, .due] = [.opened, .opened, .opened, .opened] := by decide

set_option maxRecDepth 10000 in
/-- The second that makes 22:20:00 closes edition 2. -/
theorem test_second_closes :
    let s := { base28 with clock :=
                { base28.clock with time := 80399, isSet := true,
                                    editions := [.closed, .late, .opened, .opened] } }
    let t := after .secondEvent (with1 { story with edition := 2 } s)
    t.clock.time = 80400 ∧ t.clock.editions = [.closed, .closed, .opened, .opened] ∧
    t.store.stories.map (·.edition) = [3] ∧
    t.traffic.queue.map (·.frame.payload) = [[0x01#8, 0x3A#8, 0x10#8]] := by decide

theorem test_backward_set :
    let s := { base28 with clock := { base28.clock with time := 300, isSet := true } }
    (after (.setClock 82800) s).clock.time = 82800 ∧
    (after (.setClock 82800) s).clock.editions = base28.clock.editions := by decide

set_option maxRecDepth 10000 in
/-- A TIME MARK of a station that is not the clock source is ignored (R155). -/
theorem test_time_mark :
    let s (n : Nat) : State :=
      { base with traffic := { base.traffic with slots :=
          [{ kind := .timeMark, source := n, dest := ⟨.role, 15⟩, payload := threeBytes 60,
             inbound := none, handed := false }] } }
    (after .timeMarkDispatch (s 7)).clock.ignored = 1 ∧
    (after .timeMarkDispatch (s 9)).clock.time = 60 := by decide

set_option maxRecDepth 10000 in
/-- The SETTLE of section 9.4, refused and then taken. -/
theorem test_settle :
    let s := { State.reset with desk := Desk.reset 28 }
    let bad := { spec28 with editions := [⟨600, 30, 20⟩, ⟨720, 30, 20⟩, ⟨720, 30, 15⟩, ⟨960, 20, 30⟩] }
    (after (.settle bad) s).desk.response =
      some { name := 0x1C#8, result := .badField, field := some (.deadline, 3), data := .nothing } ∧
    ((after (.settle spec28) s).desk.record.map (·.rowSlot)) = some 2 ∧
    (after (.settle spec28) s).line.state = .joining ∧
    (after (.settle spec28) s).desk.tendTimer = some 10000 := by decide

set_option maxRecDepth 10000 in
/-- The host that stops, section 9.5: expiry, then a TEND of even parity; 0x01 has odd parity. -/
theorem test_tend :
    let s := after .tendTimerExpiry base
    s.desk.state = .unattended ∧ s.desk.missed = 1 ∧ s.desk.lamp = .steady ∧
    s.desk.tendTimer = some 250 ∧ (after .tendTimerExpiry s).desk.missed = 2 ∧
    (after (.tend 0x03#8) s).desk.state = .onLine ∧ (after (.tend 0x03#8) s).desk.missed = 0 ∧
    (after (.tend 0x01#8) s).desk.state = .unattended ∧
    (after (.tend 0x01#8) s).desk.latched .tendBad = true := by decide

/-- Section 9.1: a command sent too soon is lost and latches LINK OVERRUN. -/
theorem test_discarded :
    let s := after .lineRetry base
    (after .discardedCommandTransfer s).desk.response = s.desk.response ∧
    (after .discardedCommandTransfer s).desk.latched .linkOverrun = true ∧
    (after .discardedCommandTransfer base).desk.ready = true ∧
    (after .discardedCommandTransfer base).desk.latched .linkOverrun = true := by decide

/-- R182: bytes after the last of the response are 0x00, and READY goes high. -/
theorem test_response_transfer :
    let s := after (.dropStory ⟨9, 7⟩) base
    (after (.responseTransfer 8) s).desk.sent =
      [0x04#8, 0x02#8, 0x00#8, 0x00#8, 0x00#8, 0x00#8, 0x00#8, 0x00#8] ∧
    (after (.responseTransfer 6) s).desk.ready = true ∧
    (after (.responseTransfer 3) s).desk.ready = false := by decide

/-! ## Passes, pages and rows -/

/-- Base with the story GO and an em space in block 5. -/
def held : State := with1 story { base with store := { base.store with text := text5 } }

/-- What completing the accesses and the runs in progress answers, up to `n` of them. -/
def drain : Nat → State → State
  | 0, s => s
  | n + 1, s =>
      match s.port.busy with
      | some a =>
          drain n (after
            (match a.purpose with
              | .slipWrite .. => .slipWriteCompletion
              | .checkRead _ => .offerCheckReadCompletion []
              | .slipRead _ => .slipReadCompletion []
              | .rewriteRead _ | .rewriteWrite _ => .rewriteAccessCompletion []
              | .readText => .readTextAccessCompletion []
              | .pageRead => .pageReadCompletion []
              | .fitRead => .fitReadCompletion []
              | .walkRead => .lineWalkReadCompletion []
              | .renderRead => .renderReadCompletion []) s)
      | none =>
          match s.fit.run with
          | some (.storing ..) => drain n (after .storeFitRecord s)
          | _ => s

/-- The first frame of the queue delivered, and what follows drained. -/
def deliver (s : State) : State :=
  drain 4 (after (.slotEnd true false) (after (.startMarkBegin 30) s))

set_option maxRecDepth 20000 in
/-- R16: PLACE of X after GO makes GOX and the em space, length 4. -/
theorem test_place_writes :
    let s := drain 2 (after (.place ⟨9, 1⟩ 2 2 [0x58#8]) held)
    s.store.stories.map (·.length) = [4] ∧
    s.store.text = writeCodes 5 0 [0x47#8, 0x4F#8, 0x58#8, 0x7F#8] [] ∧
    s.desk.response = some { name := 0x02#8, result := .done, field := none, data := .placed 4 } := by
  decide

set_option maxRecDepth 40000 in
/-- Sections 4.4 to 4.6: OFFER with the check of the text, TAKE, one slip, DELIVERED; the carbon stays. -/
theorem test_whole_pass :
    let s := drain 1 (after (.pass ⟨9, 1⟩ ⟨.station, 7⟩ true) held)
    let check := crcCodes crcStart [0x47#8, 0x4F#8, 0x7F#8]
    s.traffic.queue.map (·.frame.payload.drop 15) =
      [[1#8, 0#8, 3#8, 0#8, 1#8] ++ twoBytes check.toNat] ∧
    (let t := deliver s
     t.pass.outbound.map (Option.map (·.timer)) = [some true, none, none, none] ∧
     (let x : RxSlot := { kind := .take, source := 7, dest := ⟨.station, 9⟩,
                          payload := [0x09#8, 0x00#8, 0x01#8], inbound := none, handed := false }
      let u := drain 1 (after .takeDispatch { t with traffic := { t.traffic with slots := [x] } })
      u.traffic.queue.map (·.frame.payload) =
        [[0x09#8, 0x00#8, 0x01#8, 0x00#8, 0x00#8, 0x47#8, 0x4F#8, 0x7F#8]] ∧
      (deliver u).store.stories.map (·.custody) = [.carbon] ∧
      (deliver u).desk.latched .passEnded = true)) := by decide

set_option maxRecDepth 20000 in
/-- R79: an OFFER with no room is declined NO ROOM; one with room is taken and reserves two blocks. -/
theorem test_offer_dispatch :
    let x : RxSlot :=
      { kind := .offer, source := 7, dest := ⟨.station, 9⟩, inbound := none, handed := false,
        payload := [0x07#8, 0x00#8, 0x0C#8] ++ slugBytes [0x41#8] ++
          [1#8, 0#8, 40#8, 0#8, 2#8, 0#8, 0#8] }
    let s (pool : List Nat) : State :=
      { base with store := { base.store with pool := pool },
                  traffic := { base.traffic with slots := [x] } }
    (after .offerDispatch (s [4])).traffic.queue.map (·.frame.payload) =
      [[0x07#8, 0x00#8, 0x0C#8, 0x05#8]] ∧
    (after .offerDispatch (s [4, 5, 6])).traffic.queue.map (·.frame.kind) = [.take] ∧
    (after .offerDispatch (s [4, 5, 6])).store.reservations = [some [4, 5], none] := by decide

set_option maxRecDepth 60000 in
/-- Sections 6.4 to 6.6: fit, PAGE HEAD, PLACEMENT, one chunk, PAGE END of one placement; PAGE SENT. -/
theorem test_whole_page :
    let t : Setting := { face := 1, measure := 60, size := 20, lead := 2, indent := 0 }
    let s := after (.planPage 0 4 1 false [⟨⟨9, 1⟩, 1, t, 100⟩]) held
    let s := drain 2 (after (.sendPage 0) { s with desk := { s.desk with ready := true } })
    s.traffic.queue.map (·.frame.kind) = [.pageHead] ∧
    (deliver s).traffic.queue.map (·.frame.kind) = [.placement] ∧
    (deliver (deliver s)).traffic.queue.map (·.frame.payload) =
      [[0x00#8, 0x00#8, 0x00#8, 0x47#8, 0x4F#8, 0x7F#8]] ∧
    (let u := deliver (deliver (deliver s))
     u.traffic.queue.map (·.frame.kind) = [.pageEnd] ∧
     (deliver u).page.plans.map (Option.map (·.state)) = [some .sent, none, none, none] ∧
     (deliver u).desk.latched .pageSent = true ∧
     (deliver u).store.stories.map (·.lock) = [none]) := by decide

set_option maxRecDepth 40000 in
/-- Section 8.5: VIEW, walk and render; row 1 shows GO and a space for the em space. -/
theorem test_view_builds_row :
    let s := drain 2 (after .rowSlot (after (.view 0 (some ⟨9, 1⟩) false 0) held))
    (s.screen.windows.head?.bind fun w =>
      match w.staging with
      | .ready r => some (r.number, r.codes.take 3)
      | _ => none) = some (1, [0x47#8, 0x4F#8, 0x20#8]) ∧
    (after .rowSlot s).screen.lanes.head?.map (·.rows) = some 2 := by decide

set_option maxRecDepth 20000 in
/-- R174, R175: SEND FLASH shows the flash here, and its hold ends it. -/
theorem test_flash :
    let s := after (.sendFlash [0x48#8, 0x49#8] ⟨.role, 15⟩) base
    s.screen.flash.map (·.text) = some [0x48#8, 0x49#8] ∧ s.desk.latched .flashIn = true ∧
    s.traffic.queue.map (·.frame.kind) = [.flash] ∧
    (after .holdTimerExpiry s).screen.flash = none ∧
    (deliver s).screen.lastFlash = some .delivered := by decide

set_option maxRecDepth 20000 in
/-- R195: RESTART waits for the access in progress; the pass is ABANDONED and its story HELD. -/
theorem test_restart :
    let s := after (.pass ⟨9, 1⟩ ⟨.station, 7⟩ false) held
    let t := after .restart { s with desk := { s.desk with ready := true, response := none } }
    t.pass.outbound.map (Option.bind · (·.outcome)) = [some .abandoned, none, none, none] ∧
    t.store.stories.map (·.custody) = [.held] ∧ t.desk.response = none ∧
    (drain 1 t).desk.response =
      some { name := 0x20#8, result := .done, field := none, data := .nothing } := by decide

/-! ## Witnesses: states and operands that meet the hypotheses of the obligations

One theorem for each obligation that has hypotheses, its clauses in the obligation's order. -/

/-- A full receive slot. -/
def rx (k : FrameKind) (source : Nat) (payload : List Byte) : RxSlot :=
  { kind := k, source := source, dest := ⟨.station, 9⟩, payload := payload, inbound := none,
    handed := false }

def withSlot (x : RxSlot) (s : State) : State :=
  { s with traffic := { s.traffic with slots := [x] } }

/-- A pass of story (9, 1) to station 7, its answer timer running. -/
def passOf (phase : PassPhase) : Pass :=
  { key := ⟨9, 1⟩, dest := ⟨.station, 7⟩, keepCarbon := false, phase := phase,
    storyCheck := 0xFFFF#16, slipTotal := 1, taker := some 7, nextSlip := 0, declines := 0,
    timer := true, outcome := none, endOrder := 0, reading := none, ready := none, offered := true }

def withPass (p : Pass) (s : State) : State :=
  { s with pass := { s.pass with outbound := [some p, none, none, none] } }

def offer7 : Offer :=
  { key := ⟨7, 12⟩, slug := [0x41#8], edition := 1, length := 40, slipTotal := 2,
    storyCheck := 0#16 }

/-- An inbound pass from station 7 that expects slip 1. -/
def inbound7 : Inbound :=
  { offer := offer7, sender := 7, byHost := false, confirmed := true, expected := 1,
    running := 0xFFFF#16, complete := false, timer := true, pass := 0 }

def withInbound (b : Inbound) (s : State) : State :=
  { s with
    pass := { s.pass with inbound := [some b, none] },
    store := { s.store with reservations := [some [6, 7], none] } }

def queued7 : QueuedOffer := { offer := offer7, source := 7 }

def withOffer (q : QueuedOffer) (s : State) : State :=
  { s with pass := { s.pass with offers := [q] } }

def withQueue (l : List OutEntry) (s : State) : State :=
  { s with traffic := { s.traffic with queue := l } }

/-- A frame of an owner, on the line with no attempt made. -/
def onLine (o : Owner) (k : FrameKind) : OutEntry :=
  { newEntry o { kind := k, dest := ⟨.station, 7⟩, payload := [] } with onLine := true }

def withBusy (a : Access) (s : State) : State := { s with port := { s.port with busy := some a } }

def access (p : Purpose) (count : Nat) : Access :=
  { purpose := p, block := 5, first := 0, count := count, aside := false }

/-- The three shared entries full. -/
def full3 : List OutEntry :=
  List.replicate 3 (newEntry .answer { kind := .decline, dest := ⟨.station, 7⟩, payload := [] })

theorem witness_StepRunsFront :
    (∃ rest, State.pending { base with pending := [.status] } = .status :: rest) ∧
    base.pending = [] := ⟨⟨[], rfl⟩, rfl⟩

theorem witness_MessageRoundTrip :
    Instr.wellFormed (.dropStory ⟨31, 65535⟩) = true ∧
    commandFields (.dropStory ⟨31, 65535⟩) = some (.dropStory, [0x1F#8, 0xFF#8, 0xFF#8]) := by decide

/-- A frame at the ends of its ranges. -/
def lastFrame : Frame :=
  { cls := 3, source := 31, kind := 15, dest := ⟨.role, 31⟩, payload := List.replicate 40 0xFF#8 }

theorem witness_FrameRoundTrip :
    lastFrame.cls < 4 ∧ lastFrame.source < 32 ∧ lastFrame.kind < 16 ∧ lastFrame.dest.number < 32 ∧
    lastFrame.payload.length ≤ 40 ∧
    (let w : Wire := fun t => decide (1 ≤ t ∧ t < 9)
     w.seen 1 ≠ w.seen 0 ∧ ∀ i, i < 8 → w (1 + i) = true) ∧
    1 ≤ 1 ∧ 1 ≤ 70 ∧ (bodyBits lastFrame).length = (bodyBits lastFrame).length ∧
    (let long : Wire := fun t => decide (132 ≤ t)
     100 ≤ 132 ∧ 132 ≤ 100 + 32 ∧ ∀ i, i ≤ 64 → long (132 + i) = true) ∧
    (let idle : Wire := fun _ => false
     (¬∃ f, 100 ≤ f ∧ f ≤ 100 + 32 ∧ ∀ i, i ≤ 64 → idle (f + i) = true) ∧
      ∀ i, 32 ≤ i → i < 128 → ¬(idle (100 + i) = false ∧ idle (100 + i + 1) = true)) ∧
    (∃ e ∈ (withQueue [onLine (.passEntry 0) .offer] base).traffic.queue, e.onLine = true) ∧
    (let s : State := { base with line := { base.line with slot := .refused } }
     (∀ e ∈ s.traffic.queue, e.onLine = false) ∧ s.line.slot = .refused ∧ some 100 ≠ none ∧
      some 164 = some 164) :=
  ⟨by decide, by decide, by decide, by decide, by decide, by decide, by decide, by decide, rfl,
    ⟨by decide, by decide, by simp⟩,
    ⟨fun ⟨_, _, _, h⟩ => Bool.noConfusion (h 0 (by omega)), fun _ _ _ h => Bool.noConfusion h.2⟩,
    ⟨_, .head _, rfl⟩, by decide⟩

theorem witness_OneBitWrongFails :
    lastFrame.cls < 4 ∧ lastFrame.source < 32 ∧ lastFrame.kind < 16 ∧ lastFrame.dest.number < 32 ∧
    lastFrame.payload.length ≤ 40 ∧ 358 < 39 + 8 * lastFrame.payload.length ∧ 23 ≤ 358 ∧ 0 < 17 := by
  decide

/-- A state whose front row answers a next state. -/
def waiting : State := { base with pending := [.tendTimerExpiry] }

set_option maxRecDepth 10000 in
theorem witness_SignalsAgree : waiting.signalsAgree ∧ ∃ t, step waiting = .next t :=
  ⟨by unfold State.signalsAgree; decide, _, rfl⟩

theorem witness_LinkAgrees : waiting.linkAgrees ∧ ∃ t, step waiting = .next t :=
  ⟨by unfold State.linkAgrees; decide, _, rfl⟩

theorem witness_PortServes :
    let s : State :=
      { waiting with port := { waiting.port with
          busy := some (access .readText 3), slip := some (access (.slipRead 1) 3) } }
    s.portServes ∧ s.portOwned ∧ ∃ t, step s = .next t :=
  ⟨by unfold State.portServes; decide, fun q a h => by cases q <;> cases h; rfl, _, rfl⟩

theorem witness_MemoryKeepsForm :
    let s : State := { waiting with store := { waiting.store with text := text5 } }
    s.memoryWf ∧ ∃ t, step s = .next t := ⟨by unfold State.memoryWf; decide, _, rfl⟩

theorem witness_LineLegal :
    let s := withQueue [onLine (.passEntry 0) .offer] waiting
    s.lineLegal ∧ ∃ t, step s = .next t := ⟨by unfold State.lineLegal; decide, _, rfl⟩

theorem witness_AttemptsLeft :
    let s := withQueue [{ onLine (.passEntry 0) .offer with attempts := 1 }] waiting
    s.attemptsLeft ∧ ∃ t, step s = .next t :=
  ⟨by unfold State.attemptsLeft State.recordStands; decide, _, rfl⟩

theorem witness_TrafficLegal :
    let s := withQueue (onLine .page .pageHead :: full3)
      { waiting with traffic := { waiting.traffic with
          slots := List.replicate 4 (rx .take 7 []),
          counts := { waiting.traffic.counts with good := 65535 } } }
    (∃ t, step s = .next t) ∧ s.sharesKept ∧ s.slotsLegal ∧ s.countsSaturate ∧ s.tablesWhole :=
  ⟨⟨_, rfl⟩,
    ⟨by decide, by decide, fun n => by
      simp [withQueue, onLine, full3, newEntry, Traffic.held, List.replicate]⟩,
    by unfold State.slotsLegal; decide, by unfold State.countsSaturate; decide, rfl, rfl⟩

theorem witness_ClockLegal : waiting.clockLegal ∧ ∃ t, step waiting = .next t :=
  ⟨by unfold State.clockLegal; decide, _, rfl⟩

theorem witness_RefusedChangesNothing :
    commandFields (.clearPlan 4) = some (.clearPlan, [0x04#8]) ∧ base.desk.ready = true ∧
    base.desk.response = none ∧
    ∃ t r, exec (.clearPlan 4) base = .next t ∧ t.desk.response = some r ∧ r.result ≠ .done :=
  ⟨rfl, rfl, rfl, _, _, rfl, rfl, by decide⟩

theorem witness_QueueUntouched : ∃ t, exec .tendTimerExpiry waiting = .next t := ⟨_, rfl⟩

theorem witness_TransferWhileBusyDiscarded :
    ([] : List Byte).head? ≠ some 0x52#8 ∧ [0x43#8].head? ≠ some 0x52#8 ∧
    (after .lineRetry base).desk.ready = false ∧ (commandFields .status).isSome = true := by decide

theorem witness_CommandsScreened :
    (Instr.wellFormed (.dropStory ⟨9, 1⟩) = true ∧ State.reset.desk.ready = true ∧
      State.reset.desk.state = .start ∧ base.desk.ready = true ∧ base.desk.state ≠ .start ∧
      Instr.wellFormed (.settle spec28) = true) ∧
    readMessage [0x43#8, 0x21#8, 0x00#8, 0x00#8] = none ∧
    readMessage [] = none ∧ (List.replicate 7 true).length < 8 := by decide

theorem witness_ResponseTransferred :
    let s := after (.dropStory ⟨9, 7⟩) base
    base.desk.response = none ∧ ∃ r, s.desk.response = some r ∧ r.bytes.length = 6 :=
  ⟨rfl, _, rfl, by decide⟩

theorem witness_TablesReported :
    let s := with1 story base
    s.hearsHost ∧ (∃ d, s.desk.record = some d) ∧ (∃ r, s.story ⟨9, 1⟩ = some r) ∧
    s.story ⟨9, 2⟩ = none ∧
    ((∀ c, story.custody ≠ .doubt c) ∧ story.lock = none ∧ story.fit = none ∧
      story.receivedFrom = none) :=
  ⟨⟨rfl, by decide⟩, ⟨_, rfl⟩, ⟨_, rfl⟩, rfl, fun c => by cases c <;> decide, rfl, rfl, rfl⟩

theorem witness_OpenStoryOpens :
    let sound (slug : List Byte) (e : Nat) : Prop :=
      (1 ≤ slug.length ∧ slug.length ≤ 12 ∧ ∀ c ∈ slug, 0x20 ≤ c.toNat ∧ c.toNat ≤ 0x7E) ∧
      1 ≤ e ∧ e ≤ 8 ∧ e ≤ 2
    base.hearsHost ∧ (∃ d, base.desk.record = some d ∧ d.editions.length = 2) ∧
    (¬sound [] 1 ∧ ¬sound [0x7F#8] 1 ∧ ¬sound [0x41#8] 3) ∧
    (sound (List.replicate 12 0x7E#8) 2 ∧ sound [0x20#8] 1) ∧
    (with1 story base).clock.editions[1]? ≠ some .closed ∧
    ({ base.clock with editions := [.opened, .closed] } : Clock).editions[1]? = some .closed ∧
    ¬64 ≤ base.store.stories.length + base.store.reserved ∧
    64 ≤ (List.replicate 63 story).length + (withInbound inbound7 base).store.reserved :=
  ⟨⟨rfl, by decide⟩, ⟨_, rfl, rfl⟩, by decide, by decide, by decide, by decide, by decide, by decide⟩

theorem witness_OpenSerialFree :
    let s : State := { with1 story base with store := { (with1 story base).store with serial := 4095 } }
    1 ≤ s.store.serial ∧ s.store.serial ≤ 4095 ∧
    s.store.stories.length + (s.pass.inbound.filter Option.isSome).length ≤ 64 := by decide

theorem witness_PlaceBegins :
    let s := with1 story base
    let long : Story := { story with length := 32 }
    s.hearsHost ∧ 32 < (List.replicate 33 0x41#8 : List Byte).length ∧ s.story ⟨9, 2⟩ = none ∧
    s.story ⟨9, 1⟩ = some story ∧ { story with custody := .carbon }.custody ≠ .held ∧
    story.custody = .held ∧ { story with lock := some 0 }.lock ≠ none ∧ story.lock = none ∧
    ¬(2 ≤ 1) ∧ ¬(4 ≤ story.length) ∧ (3 ≤ 3 ∧ 3 ≤ story.length) ∧
    ¬(0x1A#8 = 0x0A#8 ∨ (0x20 ≤ (0x1A#8).toNat ∧ (0x1A#8).toNat ≤ 0x7F)) ∧
    (List.replicate 32 0x7F#8 : List Byte).length ≤ 32 ∧
    (∀ c ∈ (List.replicate 32 0x7F#8 : List Byte),
      c = 0x0A#8 ∨ (0x20 ≤ c.toNat ∧ c.toNat ≤ 0x7F)) ∧
    16384 < 16384 - (0 - 0) + 1 ∧ ({ s.store with pool := [] } : Store).pool.length < 1 ∧
    (35 + 31) / 32 - (3 + 31) / 32 ≤ s.store.pool.length ∧ 3 / 32 < (story.length + 31) / 32 ∧
    (¬32 / 32 < (long.length + 31) / 32 ∧ 32 / 32 < (64 + 31) / 32) ∧ s.desk.response = none :=
  ⟨⟨rfl, by decide⟩, by decide⟩

/-- The rewrite that appends X to the three characters of `story`. -/
def rewrite3 : Rewrite :=
  { key := ⟨9, 1⟩, start := 3, stop := 3, text := [0x58#8], oldLength := 3, newLength := 4, held := [],
    next := 0 }

def rewritten : Rewrite := { rewrite3 with held := [(0, [0x47#8, 0x4F#8, 0x7F#8])] }

def rewriting (r : Rewrite) (p : Purpose) (count : Nat) : State :=
  let s := withBusy (access p count) (with1 { story with inEdit := true } base)
  { s with desk := { s.desk with ready := false, command := some 0x02#8, op := .rewriting r } }

theorem witness_RewriteBlockRight :
    let r := rewritten
    let old : List Byte := [0x47#8, 0x4F#8, 0x7F#8]
    r.start ≤ r.stop ∧ r.stop ≤ old.length ∧ r.oldLength = old.length ∧
    r.newLength = (old.take r.start ++ r.text ++ old.drop r.stop).length ∧ r.start / 32 ≤ r.next ∧
    32 * r.next < 4 ∧ r.nextRead = none ∧
    (∀ h ∈ r.held, h.2 = (old.drop (32 * h.1)).take 32) ∧
    (r.start / 32 ≤ 0 ∧ 0 ≤ r.next ∧ 32 * 0 < old.length) := by decide

theorem witness_DeskAccessServed :
    (let p := Port.reset
     let waits : Port :=
      { p with busy := some (access .readText 3), desk := some (access .readText 3),
               fit := some (access .fitRead 3) }
     (p.busy = none ∧ ∀ q, p.waiting q = none) ∧ waits.busy ≠ none ∧
      waits.waiting .desk = some (access .readText 3) ∧ waits.waiting .slip = none ∧
      ({ p with row := some (access .walkRead 3) }.waiting .row = some (access .walkRead 3) ∧
        ∀ q, q ≠ .row → { p with row := some (access .walkRead 3) }.waiting q = none)) ∧
    (let s := rewriting rewrite3 (.rewriteRead 0) 3
     s.desk.op = .rewriting rewrite3 ∧ (∃ a, s.port.busy = some a ∧ a.purpose = .rewriteRead 0) ∧
      ({ rewrite3 with held := [(0, [0x47#8])] }.nextRead = none → 32 * 0 < 4)) ∧
    (let r : Rewrite := { rewrite3 with text := List.replicate 32 0x58#8, newLength := 35,
                                        held := [(0, [0x47#8, 0x4F#8, 0x7F#8])] }
     { r with next := 1 }.nextRead = none ∧ 32 * 1 < r.newLength) ∧
    (let s : State := { withBusy (access .readText 2) (with1 story base) with
        desk := { base.desk with op := .reading { key := ⟨9, 1⟩, offset := 1, count := 2, got := [] } } }
     (∃ r, s.desk.op = .reading r) ∧ ∃ a, s.port.busy = some a ∧ a.purpose = .readText) :=
  ⟨⟨⟨rfl, fun q => by cases q <;> rfl⟩, by decide, rfl, rfl, rfl,
      fun q h => by cases q <;> first | rfl | exact absurd rfl h⟩,
    ⟨rfl, ⟨_, rfl, rfl⟩, fun _ => by decide⟩, by decide, ⟨_, rfl⟩, _, rfl, rfl⟩

theorem witness_PlaceCompletes :
    let s := rewriting rewritten (.rewriteWrite 0) 4
    let cut : Rewrite := { rewrite3 with start := 0, text := [], newLength := 0 }
    let t := rewriting cut (.rewriteRead 0) 3
    let u := with1 { story with length := 32 } base
    ((∃ a, s.port.busy = some a ∧ a.purpose = .rewriteWrite 0) ∧ s.desk.op = .rewriting rewritten ∧
      (∃ q, s.story ⟨9, 1⟩ = some q) ∧ { rewritten with next := 1 }.nextRead = none ∧
      rewritten.newLength ≤ 32 * 1) ∧
    ((∃ a, t.port.busy = some a ∧ a.purpose = .rewriteRead 0) ∧ t.desk.op = .rewriting cut ∧
      { cut with held := [(0, [0x47#8, 0x4F#8, 0x7F#8])] }.nextRead = none ∧
      cut.newLength ≤ 32 * cut.next) ∧
    u.hearsHost ∧ ∃ r, u.story ⟨9, 1⟩ = some r ∧ r.custody = .held ∧ r.lock = none ∧
      32 = r.length ∧ r.length % 32 = 0 ∧ r.length ≤ 16384 :=
  ⟨⟨⟨_, rfl, rfl⟩, rfl, ⟨_, rfl⟩, by decide⟩, ⟨⟨_, rfl, rfl⟩, rfl, by decide⟩, ⟨rfl, by decide⟩, _, rfl, rfl,
    rfl, rfl, rfl, by decide⟩

theorem witness_ParityKept :
    let s : State := { base with store := { base.store with text := text5 } }
    s.store.text.wf = true ∧ 5 ∉ s.store.marks ∧
    s.desk.op ≠ .restarting ∧ ({ s.desk with op := .restarting } : Desk).op = .restarting ∧
    (∀ v ∈ readCells 5 0 3 (applyUpsets 5 [] s.store.text), goodParity v = true) ∧
    (∃ v ∈ readCells 5 0 3 (applyUpsets 5 [⟨2, 0x100#9⟩] s.store.text), goodParity v = false) ∧
    5 ∈ ({ s.store with marks := [5] } : Store).marks := by decide

theorem witness_ReadTextBegins :
    let s := with1 story base
    s.hearsHost ∧ s.story ⟨9, 2⟩ = none ∧ s.story ⟨9, 1⟩ = some story ∧ ¬3 < story.length ∧
    2 < story.length := ⟨⟨rfl, by decide⟩, by decide⟩

theorem witness_StoryLeaves :
    let s (c : Custody) (l : Option Nat) := with1 { story with custody := c, lock := l } base
    (s .held none).hearsHost ∧ (s .held none).story ⟨9, 2⟩ = none ∧
    (∃ r, (s .outbound none).story ⟨9, 1⟩ = some r ∧ r.custody = .outbound) ∧
    (∃ r, (s .carbon (some 3)).story ⟨9, 1⟩ = some r ∧ r.custody ≠ .outbound ∧ r.lock ≠ none) ∧
    (∃ r, (s .held none).story ⟨9, 1⟩ = some r ∧ r.custody ≠ .outbound ∧ r.lock = none) ∧
    (∃ r, (s .held none).story ⟨9, 1⟩ = some r ∧ ∀ c, r.custody ≠ .doubt c) ∧
    (∃ r, (s (.doubt true) none).story ⟨9, 1⟩ = some r ∧ r.custody = .doubt true) ∧
    ∃ r, (s (.doubt false) none).story ⟨9, 1⟩ = some r ∧ r.custody = .doubt false :=
  ⟨⟨rfl, by decide⟩, rfl, ⟨_, rfl, rfl⟩, ⟨_, rfl, by decide, by decide⟩, ⟨_, rfl, by decide, rfl⟩,
    ⟨_, rfl, fun c => by cases c <;> decide⟩, ⟨_, rfl, rfl⟩, _, rfl, rfl⟩

/-- A pass of story (9, 1) stands at entry 0. -/
theorem passes0 (p : Pass) (h : p.phase ≠ .ended) (k : p.key = ⟨9, 1⟩) (s : State) :
    (withPass p s).passes ⟨9, 1⟩ 0 p :=
  ⟨rfl, k, h, fun m _ h => absurd h (Nat.not_lt_zero m)⟩

theorem witness_PassBegins :
    let s (c : Custody) (l : Option Nat) (d : Bool) :=
      with1 { story with custody := c, lock := l, damaged := d } base
    let t := s .held none false
    t.hearsHost ∧
    State.portOwned { t with port := { t.port with slip := some (access (.slipRead 1) 3) } } ∧
    t.story ⟨9, 2⟩ = none ∧ (s .carbon none false).story ⟨9, 1⟩ ≠ none ∧
    (s .held (some 0) false).story ⟨9, 1⟩ ≠ none ∧ (s .held none true).story ⟨9, 1⟩ ≠ none ∧
    ¬(9 ≠ t.desk.station) ∧ (1 ≤ 30 ∧ 30 ≤ 30 ∧ 30 ≠ t.desk.station) ∧ (1 ≤ 15 ∧ 15 ≤ 15) ∧
    0 < story.length ∧ { story with length := 0, chain := [] }.length = 0 ∧
    t.traffic.held (.passEntry 0) = 0 ∧ t.passEntryChoice = some 0 ∧ t.pass.outbound.length = 4 ∧
    (t.port.slip = none ∧ t.slipWriterWants = none ∧ t.port.busy = none) ∧
    ({ t.port with slip := some (access (.slipRead 1) 3) } : Port).slip ≠ none ∧
    (withPass { passOf .ended with outcome := some .delivered } t).passEntryChoice = some 1 ∧
    State.passEntryChoice { t with pass := { t.pass with
        outbound := List.replicate 4 (some (passOf .offering)) } } = none :=
  ⟨⟨rfl, by decide⟩, fun q a h => by cases q <;> cases h; rfl, by decide⟩

theorem witness_PassEndsHeld :
    let last := { passOf .sending with nextSlip := 0 }
    let s := withPass (passOf .offering) (with1 { story with custody := .outbound } base)
    let x := rx .decline 7 [0x09#8, 0x00#8, 0x01#8, 0x06#8]
    s.hearsHost ∧ base.pass.outbound = [none, none, none, none] ∧
    s.passes ⟨9, 1⟩ 0 (passOf .offering) ∧
    (withPass last s).passes ⟨9, 1⟩ 0 last ∧ last.nextSlip = last.slipTotal - 1 ∧
    (s.pass.outbound[0]? = some (some (passOf .offering)) ∧ (passOf .offering).timer = true) ∧
    (withSlot x s).traffic.slots = x :: [] ∧ x.kind = .decline ∧
    (withSlot x s).passes (keyAt x.payload 0) 0 (passOf .offering) ∧
    (passOf .offering).dest = { form := .station, number := x.source } ∧
    DeclineReason.desk.code = byteAt x.payload 3 :=
  ⟨⟨rfl, by decide⟩, rfl, passes0 _ (by decide) rfl _, passes0 _ (by decide) rfl _, rfl, ⟨rfl, rfl⟩, rfl, rfl,
    passes0 _ (by decide) rfl _, rfl, rfl⟩

/-- An OFFER of story (7, 12): slug A, edition 1, length 40, slip total 2. -/
def offerRx : RxSlot :=
  rx .offer 7 (keyBytes ⟨7, 12⟩ ++ slugBytes [0x41#8] ++ [1#8, 0#8, 40#8, 0#8, 2#8, 0#8, 0#8])

theorem witness_OfferTested :
    let s := withSlot offerRx base
    let o := offerFields offerRx.payload
    let carbon (l : Option Nat) :=
      with1 { story with key := ⟨7, 12⟩, custody := .carbon, lock := l } s
    s.traffic.slots = offerRx :: [] ∧ offerRx.kind = .offer ∧ s.desk.record = some record9 ∧
    o = { offer7 with storyCheck := 0#16 } ∧ o.slipTotal = max 1 ((o.length + 31) / 32) ∧
    s.story ⟨7, 12⟩ = none ∧ s.inboundOf ⟨7, 12⟩ = none ∧ s.queuedOffer ⟨7, 12⟩ = none ∧
    record9.ask = false ∧ s.pass.inbound[0]? = some none ∧ s.traffic.heldShared < 3 ∧
    s.store.stories.length + s.store.reserved < 64 ∧ o.slipTotal ≤ s.store.pool.length ∧
    (offerFields (rx .offer 7 []).payload).edition < 1 ∧
    (∃ r, (carbon (some 0)).story ⟨7, 12⟩ = some r ∧ r.custody = .carbon ∧ r.lock ≠ none) ∧
    (∃ r, (with1 { story with key := ⟨7, 12⟩ } s).story ⟨7, 12⟩ = some r ∧ r.custody ≠ .carbon) ∧
    ((withInbound inbound7 s).inboundOf ⟨7, 12⟩).map (fun y => y.2.sender) = some offerRx.source ∧
    ((withOffer { queued7 with source := 8 } s).queuedOffer ⟨7, 12⟩).map (·.source) = some 8 ∧
    (∀ i ∈ [some inbound7, some inbound7], i ≠ none) ∧ (withQueue full3 s).traffic.heldShared = 3 ∧
    (List.replicate 4 queued7).length = 4 ∧ { record9 with ask := true }.ask = true :=
  ⟨rfl, rfl, rfl, by decide, by decide, by decide, by decide, by decide, by decide, by decide, by decide,
    by decide, by decide, by decide, ⟨_, rfl, rfl, by decide⟩, ⟨_, rfl, by decide⟩, by decide, by decide,
    by decide, by decide, by decide, by decide⟩

theorem witness_AnswersReceived :
    let x := rx .take 7 [0x09#8, 0x00#8, 0x01#8]
    let y := rx .decline 7 [0x09#8, 0x00#8, 0x01#8, 0x01#8]
    let role := { passOf .offering with dest := ⟨.role, 15⟩ }
    let s (p : Pass) := withPass p (withSlot x (with1 { story with custody := .outbound } base))
    (s (passOf .offering)).traffic.slots = x :: [] ∧ x.kind = .take ∧
    (withSlot x base).pass.outbound = [none, none, none, none] ∧
    (s (passOf .offering)).passes (keyAt x.payload 0) 0 (passOf .offering) ∧
    ((passOf .offering).phase = .offering ∧ (passOf .offering).offered = true ∧
      (passOf .offering).dest.number = x.source ∧
      ∃ r, (s (passOf .offering)).story ⟨9, 1⟩ = some r ∧ 0 < r.length) ∧
    (s (passOf .sending)).passes (keyAt x.payload 0) 0 (passOf .sending) ∧
    (passOf .sending).taker = some x.source ∧ (rx .take 8 x.payload).source ≠ 7 ∧
    (withPass role (withSlot y base)).passes (keyAt y.payload 0) 0 role ∧
    (withPass role (withSlot y base)).traffic.slots = y :: [] ∧
    DeclineReason.unattended.code = byteAt y.payload 3 :=
  ⟨rfl, rfl, rfl, passes0 _ (by decide) rfl _, ⟨rfl, rfl, rfl, _, rfl, by decide⟩,
    passes0 _ (by decide) rfl _, rfl, by decide, passes0 _ (by decide) rfl _, rfl, rfl⟩

theorem witness_OfferAnswered :
    let s := withOffer queued7 base
    s.hearsHost ∧ s.queuedOffer ⟨7, 13⟩ = none ∧ s.queuedOffer ⟨7, 12⟩ = some queued7 ∧
    s.story ⟨7, 12⟩ = none ∧ s.pass.inbound[0]? = some none ∧
    s.store.stories.length + s.store.reserved < 64 ∧ queued7.offer.slipTotal ≤ s.store.pool.length ∧
    s.traffic.heldShared < 3 ∧ (withQueue full3 s).traffic.heldShared = 3 ∧
    (∃ r, (with1 { story with key := ⟨7, 12⟩ } s).story ⟨7, 12⟩ = some r ∧ r.custody ≠ .carbon) ∧
    (∃ r, (with1 { story with key := ⟨7, 12⟩, custody := .carbon, lock := some 1 } s).story ⟨7, 12⟩ =
      some r ∧ r.custody = .carbon ∧ r.lock ≠ none) ∧
    (∀ i ∈ [some inbound7, some inbound7], i ≠ none) ∧
    ¬queued7.offer.slipTotal ≤ ({ s.store with pool := [0] } : Store).pool.length :=
  ⟨⟨rfl, by decide⟩, rfl, rfl, rfl, rfl, by decide, by decide, by decide, by decide,
    ⟨_, rfl, by decide⟩, ⟨_, rfl, rfl, by decide⟩, by decide, by decide⟩

theorem witness_InboundFreed :
    let x := rx .withdraw 7 [0x07#8, 0x00#8, 0x0C#8]
    let s := withSlot x (withInbound inbound7 base)
    let t := withSlot x (withOffer queued7 base)
    s.pass.inbound[0]? = some (some inbound7) ∧ s.store.reservations[0]? = some (some [6, 7]) ∧
    inbound7.complete = false ∧ inbound7.timer = true ∧
    s.traffic.slots = x :: [] ∧ x.kind = .withdraw ∧ x.inbound = none ∧
    s.inboundOf (keyAt x.payload 0) = some (0, inbound7) ∧ inbound7.sender = x.source ∧
    s.queuedOffer (keyAt x.payload 0) = none ∧
    t.traffic.slots = x :: [] ∧ t.inboundOf (keyAt x.payload 0) = none ∧
    t.queuedOffer (keyAt x.payload 0) = some queued7 := by decide

/-- The final slip of the pass, eight characters, handed to the slip writer. -/
def slipRx : RxSlot :=
  { rx .slip 7 (keyBytes ⟨7, 12⟩ ++ [0#8, 1#8] ++ List.replicate 8 0x41#8) with
    inbound := some { entry := 0, pass := 0 }, handed := true }

theorem witness_SlipsStored :
    let b := { inbound7 with expected := 2, complete := true }
    let s := withSlot slipRx (withInbound b base)
    let a := { access (.slipWrite 0 0 1 (List.replicate 8 0x41#8)) 8 with block := 7 }
    let y := { slipRx with handed := false }
    let empty := { y with payload := keyBytes ⟨7, 12⟩ ++ [0#8, 1#8] }
    let u := withSlot y s
    let t := withBusy a s
    let out := withPass { passOf .sending with reading := some 0 } (with1 story base)
    (∃ c, s.slipWriteAsked c) ∧ (∃ c, out.outboundReadAsked 0 c) ∧ out.traffic.slots = [] ∧
    (base.traffic.slots = [] ∧ ∀ p ∈ base.pass.outbound, p = none) ∧
    (u.traffic.slots = y :: [] ∧ y.kind = .slip ∧ y.handed = false ∧
      y.inbound = some { entry := 0, pass := 0 } ∧ 5 < y.payload.length ∧
      u.port.slip = none ∧ u.port.busy = none ∧ u.port.noneWaits = true ∧
      u.store.reservations[0]? = some (some [6, 7])) ∧
    ((withBusy (access .fitRead 3) u).port.busy ≠ none ∧
      ∀ c, (withBusy (access .fitRead 3) u).port.busy = some c → c.purpose ≠ a.purpose) ∧
    ((withSlot empty s).traffic.slots = empty :: [] ∧ empty.payload.length ≤ 5) ∧
    s.pass.inbound[0]? = some (some b) ∧ b.pass = 0 ∧
    (t.port.busy = some a ∧ a.aside = false ∧ a.first = 0 ∧ a.block = [6, 7].getD 1 0 ∧
      t.desk.op ≠ .restarting ∧ t.traffic.slots = slipRx :: [] ∧ slipRx.handed = true ∧
      twoAt slipRx.payload 3 = 1 ∧ t.store.reservations[0]? = some (some [6, 7])) ∧
    { a with aside := true }.aside = true ∧
    (b.complete = true ∧ 1 + 1 = b.offer.slipTotal ∧ ¬inbound7.complete = true) ∧
    (withInbound { inbound7 with pass := 1 } base).pass.inbound[0]? =
      some (some { inbound7 with pass := 1 }) ∧ { inbound7 with pass := 1 }.pass ≠ 0 :=
  ⟨⟨_, slipRx, [], ⟨0, 0⟩, _, rfl, rfl, rfl, rfl, rfl, rfl, fun c h => by cases h⟩,
    ⟨_, _, story, 0, rfl, rfl, rfl, rfl, fun c h => by cases h⟩, rfl, ⟨rfl, by decide⟩,
    by decide, ⟨by decide, fun c h => by cases h; decide⟩, by decide⟩

theorem witness_OutboundReadServed :
    let p := { passOf .offering with reading := some 0 }
    let q := { passOf .sending with reading := some 0 }
    let s (x : Pass) (y : Purpose) := withBusy (access y 3) (withPass x (with1 story base))
    (∃ a, (s p (.checkRead 0)).port.busy = some a ∧ a.aside = false ∧ a.purpose = .checkRead 0) ∧
    (s p (.checkRead 0)).pass.outbound[0]? = some (some p) ∧ p.reading = some 0 ∧
    (s p (.checkRead 0)).story p.key = some story ∧ story.length ≤ 32 * (0 + 1) ∧
    32 * (0 + 1) < { story with length := 33 }.length ∧
    (s p (.checkRead 0)).traffic.held (.passEntry 0) = 0 ∧
    (∃ a, (s q (.slipRead 0)).port.busy = some a ∧ a.purpose = .slipRead 0) ∧ q.taker = some 7 ∧
    (State.endRead (access (.checkRead 0) 3) [] (s p (.checkRead 0))).2.damaged = false ∧
    (State.endRead (access (.checkRead 0) 3) [⟨0, 1#9⟩] (s p (.checkRead 0))).2.damaged = true :=
  ⟨⟨_, rfl, rfl, rfl⟩, rfl, rfl, rfl, by decide, by decide, by decide, ⟨_, rfl, rfl⟩, rfl, by decide,
    by decide⟩

theorem witness_LinesLegal :
    screenMeasure.firstCap ≤ screenMeasure.capacity ∧
    (let lines := breakText screenMeasure [0x47#8, 0x0A#8, 0x6F#8]
     lines[0]?.isSome ∧ lines[1]?.isSome ∧ (lines[1 - 1]?.bind (·.mark)).isSome) ∧
    (∀ c : Byte, screenMeasure.width c ≤ screenMeasure.firstCap) ∧
    (let r : FitReading :=
      { table := none, capacity := 15, firstCap := 8, length := 2, block := 0,
        breaker := Breaker.start, lines := 0, overwide := false }
     r.breaker = Breaker.start ∧ r.lines = 0 ∧ r.measure.firstCap ≤ r.measure.capacity ∧
      (breakText r.measure [0x47#8, 0x6F#8]).length < 4095) :=
  ⟨by decide, by decide, fun _ => by simp [Measure.width, screenMeasure], by decide⟩

def reading0 : FitReading :=
  { table := none, capacity := 108, firstCap := 90, length := 3, block := 0,
    breaker := Breaker.start, lines := 0, overwide := false }

def request0 : FitRequest := { key := ⟨9, 1⟩, setting := city, host := true, page := false }

/-- The run of the only request is in progress. -/
def withRun (r : Run) (s : State) : State :=
  { s with fit := { s.fit with queue := [request0], run := some r } }

theorem witness_FitRequested :
    let s := with1 story base
    let t := withRun (.reading reading0) s
    s.hearsHost ∧ s.fitStep = none ∧ t.fitStep = none ∧ s.story ⟨9, 2⟩ = none ∧
    s.story ⟨9, 1⟩ = some story ∧ ¬(59 : Nat) ≥ 60 ∧
    (3 ≤ 3 ∧ 60 ≤ 60 ∧ 400 ≤ 400 ∧ 10 ≤ 10 ∧ 144 ≤ 144) ∧
    (∃ q ∈ t.fit.queue, q.key = ⟨9, 1⟩ ∧ q.setting = city) ∧ t.fit.run ≠ none ∧
    (∀ q ∈ t.fit.queue, ¬(q.key = ⟨9, 1⟩ ∧ q.setting = { city with face := 0 })) ∧
    t.fit.queue.length < 4 ∧ t.fit.waiting = none ∧
    ¬(List.replicate 4 request0).length < 4 ∧
    s.fit.queue = [] ∧ s.fit.run = none ∧ s.fit.editKey ≠ some ⟨9, 1⟩ ∧ 0 < story.length :=
  ⟨⟨rfl, by decide⟩, by decide⟩

/-- The fit record of the known-face example. -/
def record2 : FitRecord :=
  { setting := city, lines := 2, flags := { estimated := false, overwide := false, saturated := false } }

theorem witness_FitDepthAnswered :
    let s := with1 { story with fit := some record2 } base
    s.hearsHost ∧ s.story ⟨9, 2⟩ = none ∧ s.story ⟨9, 1⟩ = some { story with fit := some record2 } ∧
    (with1 story base).story ⟨9, 1⟩ = some story ∧ story.fit = none ∧
    ¬(1 ≤ 0 ∧ 0 ≤ 6 ∧ 0 ≤ 2000) ∧ ¬(1 ≤ 7 ∧ 7 ≤ 6 ∧ 0 ≤ 2000) ∧ ¬(2001 ≤ 2000) ∧
    (1 ≤ 6 ∧ 6 ≤ 6 ∧ 2000 ≤ 2000) := ⟨⟨rfl, by decide⟩, by decide⟩

def widthsRx (face part : Nat) : RxSlot :=
  rx .widths 7 (oneByte face ++ oneByte part ++ List.replicate 32 0x09#8)

theorem witness_WidthsLearned :
    let s := withSlot (widthsRx 1 2) (withRun (.reading reading0) (with1 story base))
    s.traffic.slots = widthsRx 1 2 :: [] ∧ (widthsRx 1 2).kind = .widths ∧
    (byteAt (widthsRx 1 2).payload 0 ≤ 3 ∧ byteAt (widthsRx 1 2).payload 1 ≤ 2) ∧
    ¬byteAt (widthsRx 4 0).payload 0 ≤ 3 ∧ ¬byteAt (widthsRx 0 3).payload 1 ≤ 2 ∧
    s.page.sendOrder = [] ∧ s.fit.waiting = none ∧ s.fit.run = some (.reading reading0) ∧
    s.fit.queue = [request0] ∧ request0.setting.face = byteAt (widthsRx 1 2).payload 0 ∧
    (withRun (.storing record2 1 false false) s).fit.run = some (.storing record2 1 false false) := by decide

def placement0 : Placement :=
  { key := ⟨9, 1⟩, columns := 1, setting := city, budget := 100, stale := 0, result := none }

def planIn (st : PlanState) : Plan :=
  { page := 4, edition := 1, sendOverset := false, placements := [placement0], state := st, late := false }

/-- A plan stands in slot 0. -/
def withPlan (st : PlanState) (order : List Nat) (s : State) : State :=
  { s with page := { s.page with plans := [some (planIn st), none, none, none], sendOrder := order } }

theorem witness_FitRunServed :
    let s := withBusy (access .fitRead 3) (withRun (.reading reading0) (with1 story base))
    let t := withRun (.storing record2 1 false false) (with1 story base)
    (s.port.busy = some (access .fitRead 3) ∧ (access .fitRead 3).aside = false ∧
      s.fit.run = some (.reading reading0) ∧ s.fit.queue = request0 :: [] ∧ s.desk.op ≠ .restarting) ∧
    (let plan (n : Nat) : Plan :=
      { planIn .fitting with placements := [{ placement0 with stale := n }] }
     let q := { request0 with page := true }
     let u (n : Nat) (since : Bool) : State :=
      { t with
        fit := { t.fit with queue := [q], run := some (.storing record2 1 since false) },
        page := { t.page with plans := [some (plan n), none, none, none], sendOrder := [0],
                              outstanding := [0] } }
     (u 2 true).fit.queue = [q] ∧ (u 2 true).fit.waiting = none ∧ q.page = true ∧ q.host = true ∧
      (u 2 true).page.sendOrder = [0] ∧ (u 2 true).plan 0 = some (plan 2) ∧
      (plan 2).state = .fitting ∧ ((plan 2).placements.map (·.key)).Nodup ∧
      (∀ y ∈ (plan 2).placements, (u 2 true).story y.key ≠ none) ∧ (u 2 true).page.requests = [] ∧
      (u 2 true).page.outstanding = [0] ∧
      (∃ x, (plan 2).placements[0]? = some x ∧ x.key = q.key ∧ x.setting = q.setting ∧ x.stale < 3) ∧
      (∃ x, (plan 3).placements[0]? = some x ∧ 3 ≤ x.stale) ∧ record2.setting = q.setting ∧
      (u 0 false).fit.run = some (.storing record2 1 false false) ∧
      (with1 { story with fit := some record2 } base).needing (plan 0).placements = [] ∧
      base.needing (plan 0).placements = [0]) ∧
    t.fit.run = some (.storing record2 1 false false) ∧ t.fit.queue = [request0] ∧ t.fit.waiting = none ∧
    t.page.sendOrder = [] ∧ t.story request0.key = some story ∧ base.story request0.key = none :=
  ⟨by decide, ⟨rfl, rfl, rfl, rfl, rfl, rfl, rfl, by decide, by decide, rfl, rfl, ⟨_, rfl, rfl, rfl, by decide⟩,
    ⟨_, rfl, by decide⟩, rfl, rfl, by decide, by decide⟩, by decide⟩

def spec0 : PlacementSpec := { key := ⟨9, 1⟩, columns := 6, setting := city, budget := 2000 }

theorem witness_PlanSlotWritten :
    base.hearsHost ∧ base.desk.record = some record9 ∧ record9.editions.length = 2 ∧ 3 < 4 ∧
    (∃ p, (withPlan .sending [0] base).plan 0 = some p ∧ p.state = .sending) ∧
    base.plan 3 = none ∧ (∃ p, (withPlan .planned [] base).plan 0 = some p ∧ p.state = .planned) ∧
    planFault 2 97 1 [spec0] = some (.page, 0) ∧ planFault 2 96 3 [spec0] = some (.edition, 0) ∧
    planFault 2 96 2 [spec0, spec0] = some (.key, 1) ∧ planFault 2 96 2 [spec0] = none :=
  ⟨⟨rfl, by decide⟩, rfl, rfl, by decide, ⟨_, rfl, rfl⟩, rfl, ⟨_, rfl, rfl⟩, by decide, by decide,
    by decide, by decide⟩

theorem witness_PageSentOff :
    let s (r : Story) (o : List Nat) := withPlan .planned o (with1 r base)
    (s story []).hearsHost ∧ 3 < 4 ∧ base.plan 3 = none ∧
    (s story []).plan 0 = some (planIn .planned) ∧ (planIn .planned).state = .planned ∧
    (s story []).clock.editions[1 - 1]? = some .opened ∧
    ({ base.clock with editions := [.closed, .opened] } : Clock).editions[1 - 1]? = some .closed ∧
    (planIn .planned).placements[0]? = some placement0 ∧
    (withPlan .planned [] base).story placement0.key = none ∧
    (∃ q, (s { story with custody := .outbound } []).story placement0.key = some q ∧
      q.custody ≠ .held ∧ q.custody ≠ .carbon) ∧
    (∃ q, (s { story with damaged := true } []).story placement0.key = some q ∧ q.damaged = true) ∧
    (∃ q, (s { story with lock := some 2 } []).story placement0.key = some q ∧ q.lock ≠ none) ∧
    (∃ b, some b ∈ (withInbound { inbound7 with offer := { offer7 with key := ⟨9, 1⟩ } }
      (s story [])).pass.inbound ∧ b.offer.key = placement0.key) ∧
    ((s story [1]).page.sendOrder ≠ [] ∧ 0 ∉ (s story [1]).page.sendOrder ∧
      (s story [1]).fitStep = none ∧ (s story [1]).story placement0.key = some story ∧
      ∀ b ∈ (s story [1]).pass.inbound, b = none) ∧
    ((s story []).page.sendOrder = [] ∧ (s story []).fitStep = none ∧
      ((planIn .planned).placements.map (·.key)).Nodup ∧
      (s story []).needing (planIn .planned).placements = [0] ∧ (s story []).fit.waiting = none ∧
      (s story []).fit.queue.length ≤ 4 ∧
      (∀ q ∈ (withRun (.reading reading0) base).fit.queue, ∀ x ∈ [{ placement0 with key := ⟨9, 2⟩ }],
        q.key = x.key → q.setting ≠ x.setting)) ∧
    (let t := s { story with fit := some record2 } []
     t.needing (planIn .planned).placements = [] ∧ (planIn .planned).sendOverset = false ∧
      (∀ q ∈ t.checked (planIn .planned).placements, ∀ f, q.result = some f → f.overset = 0) ∧
      (∃ q ∈ t.checked [{ placement0 with budget := 1 }], ∃ f, q.result = some f ∧ 0 < f.overset) ∧
      t.page.transfer.drop = none ∧ t.traffic.held .page = 0) ∧
    (∃ q ∈ (planIn .planned).placements, some (⟨9, 1⟩ : Key) = some q.key ∧
      ∃ r, (s story []).story q.key = some r ∧ r.custody = .held) :=
  ⟨⟨rfl, by decide⟩, by decide, rfl, rfl, rfl, rfl, rfl, rfl, rfl, ⟨_, rfl, by decide, by decide⟩,
    ⟨_, rfl, rfl⟩, ⟨_, rfl, by decide⟩, ⟨_, List.mem_cons_self, rfl⟩, by decide, by decide,
    ⟨by decide, rfl, by decide, ⟨_, List.mem_cons_self, _, rfl, by decide⟩, rfl, by decide⟩, _,
    List.mem_cons_self, rfl, _, rfl, rfl⟩

theorem witness_PageCancelled :
    let s (st : PlanState) (o : List Nat) := withPlan st o (with1 { story with lock := some 0 } base)
    let t : State :=
      { s .sending [0] with
        page := { (s .sending [0]).page with
          transfer := { Transfer.clear with plan := some 0, step := .placement, frame := .queued } } }
    (s .queued [1, 0]).hearsHost ∧ 3 < 4 ∧ (∀ p, (s .sent []).plan 0 = some p → p.state = .sent) ∧
    (s .queued [1, 0]).plan 0 = some (planIn .queued) ∧
    ((s .queued [1, 0]).page.sendOrder = 1 :: [0] ∧ 1 ≠ 0 ∧ (s .queued [1, 0]).fitStep = none) ∧
    ((s .fitting [0]).plan 0 = some (planIn .fitting) ∧ (s .fitting [0]).page.sendOrder = [0] ∧
      ∀ q ∈ (s .fitting [0]).fit.queue, (s .fitting [0]).story q.key ≠ none) ∧
    (t.plan 0 = some (planIn .sending) ∧ t.page.sendOrder = [0] ∧ t.page.transfer.step ≠ .head ∧
      ∀ e ∈ t.traffic.queue, e.owner = .page → e.onLine = false ∧ e.withdrawing = false) :=
  ⟨⟨rfl, by decide⟩, by decide, fun p h => by cases h; rfl, rfl, ⟨rfl, by decide, by decide⟩,
    ⟨rfl, rfl, by decide⟩, rfl, rfl, by decide, by decide⟩

theorem witness_PageReadServed :
    let s : State :=
      withBusy (access .pageRead 3)
        { withPlan .sending [0] (with1 { story with lock := some 0 } base) with
          page := { (withPlan .sending [0] base).page with
            transfer := { Transfer.clear with plan := some 0, step := .text, frame := .preparing } } }
    s.port.busy = some (access .pageRead 3) ∧ (access .pageRead 3).purpose = .pageRead ∧
    (access .pageRead 3).aside = false ∧ s.page.transfer.plan = some 0 ∧
    s.page.transfer.step = .text ∧ s.plan 0 = some (planIn .sending) ∧
    (planIn .sending).state = .sending ∧ s.traffic.held .page = 0 ∧ s.desk.op ≠ .restarting ∧
    (s.endRead (access .pageRead 3) []).2.damaged = false ∧
    (s.endRead (access .pageRead 3) [⟨0, 1#9⟩]).2.damaged = true ∧
    (let e (k : FrameKind) := onLine .page k
     let t (k : FrameKind) (st : PageStep) (left : Nat) : State :=
      { withQueue [e k, onLine (.passEntry 0) .slip |> fun x => { x with onLine := false }] s with
        page := { s.page with
          transfer := { Transfer.clear with plan := some 0, step := st, left := left, frame := .queued } } }
     (t .pageHead .head 0).traffic.queue[0]? = some (e .pageHead) ∧
      ((e .pageHead).onLine = true ∧ (e .pageHead).owner = .page ∧ (e .pageHead).withdrawing = false) ∧
      (∀ x ∈ (t .pageHead .head 0).traffic.queue.tail, x.onLine = false ∧ x.owner ≠ .page) ∧
      (t .pageHead .head 0).page.sendOrder.head? = some 0 ∧
      (planIn .sending).placements[0]? = some placement0 ∧ s.story placement0.key ≠ none ∧
      0 < story.length ∧ (e .placement).frame.kind = .placement ∧ (e .setText).frame.kind = .setText ∧
      1 < (t .setText .text 2).page.transfer.left ∧ (t .setText .text 1).page.transfer.left ≤ 1 ∧
      (t .setText .text 1).page.transfer.step = .text ∧ (planIn .sending).placements.length ≤ 0 + 1) := by
  decide

/-- The clock at a time of day, set. -/
def atTime (n : Nat) (s : State) : State := { s with clock := { s.clock with time := n, isSet := true } }

theorem clockLegal_base28 (n : Nat) (h : n < 86400) : (atTime n base28).clockLegal := by
  unfold State.clockLegal
  exact ⟨h, (fun g => nomatch g), (by decide : 600 < 1440), rfl⟩

theorem witness_ClockSet :
    let s := with1 story base28
    base28.hearsHost ∧ base28.clockLegal ∧ (atTime 86399 base28).clockLegal ∧ 86400 ≤ 86400 ∧
    86399 < 86400 ∧ (s.setOutcome 73500).1 = .first ∧ s.story ⟨9, 1⟩ = some story ∧ story.lock = none ∧
    currentOf (s.setOutcome 73500).2.1 = some (2, .opened) ∧
    s.clockSource = s.desk.station ∧ (∀ e ∈ s.traffic.queue, e.owner ≠ .clock) ∧
    s.traffic.heldShared < 3 ∧
    (∃ e ∈ (withQueue [onLine .clock .timeMark] s).traffic.queue,
      e.owner = .clock ∧ e.onLine = true) ∧
    ¬({ record9 with clockSource := 8 }.clockSource = 9) :=
  ⟨⟨rfl, by decide⟩, by unfold State.clockLegal; decide, clockLegal_base28 _ (by decide), by decide⟩

/-- Plans of edition 1, with story (9, 1), and of edition 2, with story (9, 2), are under way, and every edition
stands before its close. The second plan overflows its budget. -/
def twoPlans (s : State) : State :=
  let p : Plan :=
    { planIn .queued with edition := 2, placements := [{ placement0 with key := ⟨9, 2⟩, budget := 0 }] }
  { s with
      store := { s.store with stories :=
        [{ story with lock := some 0 },
         { story with key := ⟨9, 2⟩, lock := some 1, fit := some record2 }] },
      page := { s.page with plans := [some (planIn .queued), some p, none, none], sendOrder := [0, 1] } }

set_option maxRecDepth 20000 in
/-- R137: the close of edition 1 ends its plan and rolls its story forward; the plan of edition 2 is the next
head, ends OVERSET at once, and its story, locked through the close, keeps edition 1. -/
theorem test_close_finds_locks :
    let s := twoPlans (atTime 73199 base28)
    let t := after .secondEvent s
    t.clock.editions[0]? = some .closed ∧
    t.store.stories.map (fun r => (r.edition, r.lock)) = [(2, none), (1, none)] ∧
    t.page.plans.map (fun o => o.map (·.state)) = [some .dropped, some .overset, none, none] ∧
    (after (.setClock 73500) (twoPlans base28)).store.stories.map (·.edition) = [2, 1] := by decide

/-- The plans and locks that the clauses on closes of SecondTicks and ClockSet speak of. -/
theorem witness_LocksAtClose :
    let s := twoPlans (atTime 73199 base28)
    let first := ((twoPlans base28).setOutcome 73500).2.1
    let after := (editionsAt s.editionTable s.dayStart 73200 (s.clock.editions, 0)).1
    let closing (i : Nat) : Prop := after[i]? = some .closed ∧ s.clock.editions[i]? ≠ some .closed
    s.clock.isSet = true ∧ ¬73200 = 60 * s.dayStart ∧ closing 0 ∧ ¬closing 1 ∧
    (∀ i j, closing i → closing j → i = j) ∧ first[0]? = some .closed ∧ first[1]? ≠ some .closed ∧
    (∃ p q, PlanUnderWay 0 p s ∧ PlanUnderWay 1 q s ∧ p.edition = 1 ∧ q.edition = 2 ∧
      (⟨9, 1⟩ : Key) ∈ p.placements.map (·.key) ∧ (⟨9, 2⟩ : Key) ∈ q.placements.map (·.key) ∧
      ∃ r, s.story ⟨9, 2⟩ = some r ∧ r.lock = some 1) ∧
    (∀ m q, PlanUnderWay m q s → (⟨9, 2⟩ : Key) ∈ q.placements.map (·.key) → m = 1) := by
  refine ⟨rfl, by decide, by decide, by decide, fun i j hi hj => ?_, by decide, by decide,
    ⟨_, _, ⟨by decide, rfl, .inl rfl⟩, ⟨by decide, rfl, .inl rfl⟩, rfl, rfl, by decide, by decide, _, rfl, rfl⟩,
    fun m q hq hk => ?_⟩
  · have only : ∀ i, (editionsAt (twoPlans (atTime 73199 base28)).editionTable 600 73200
        ([.opened, .opened, .opened, .opened], 0)).1[i]? = some .closed → i = 0 := by
      intro i h
      rw [show (editionsAt (twoPlans (atTime 73199 base28)).editionTable 600 73200
        ([.opened, .opened, .opened, .opened], 0)).1 = [.closed, .opened, .opened, .opened] by decide] at h
      match i with
      | 0 => rfl
      | 1 | 2 | 3 | _ + 4 => cases h
    exact (only i hi.1).trans (only j hj.1).symm
  · match m with
    | 0 => cases hq.2.1; exact absurd hk (by decide)
    | 1 => rfl
    | 2 | 3 => cases hq.2.1
    | _ + 4 => exact absurd hq.1 (by omega)

theorem witness_MarkApplied :
    let s (n src : Nat) := withSlot (rx .timeMark src (threeBytes n)) base
    (s 86399 9).traffic.slots = rx .timeMark 9 (threeBytes 86399) :: [] ∧ (s 86399 9).clockLegal ∧
    (1 ≤ (s 86399 9).clockSource ∧ (s 86399 9).clockSource ≤ 30 ∧
      (s 86399 9).clockSource = (rx .timeMark 9 []).source ∧
      threeAt (threeBytes 86399) 0 < 86400) ∧
    ¬threeAt (threeBytes 86400) 0 < 86400 ∧ (s 0 8).clockSource ≠ (rx .timeMark 8 []).source :=
  ⟨rfl, by unfold State.clockLegal; decide, by decide⟩

theorem witness_SecondTicks :
    let s := with1 story (atTime 86399 base28)
    let t := with1 story (atTime 73199 base28)
    base28.clockLegal ∧ base28.clock.isSet = false ∧ s.clockLegal ∧ s.clock.isSet = true ∧
    (s.clock.time + 1) % 86400 % 60 = 0 ∧ s.clockSource = s.desk.station ∧
    (∀ e ∈ s.traffic.queue, e.owner ≠ .clock) ∧ s.traffic.heldShared < 3 ∧
    s.story ⟨9, 1⟩ = some story ∧ story.lock = none ∧ t.clockLegal ∧
    (editionsAt t.editionTable t.dayStart 73200 (t.clock.editions, 0)).1[0]? = some .closed ∧
    currentOf (editionsAt t.editionTable t.dayStart 73200 (t.clock.editions, 0)).1 =
      some (2, .opened) ∧ ¬(36001 % 60 = 0) :=
  ⟨by unfold State.clockLegal; decide, rfl, clockLegal_base28 _ (by decide), rfl, by decide, rfl,
    by decide, by decide, rfl, rfl, clockLegal_base28 _ (by decide), by decide, by decide, by decide⟩

/-- Screen 0 shows story (9, 1). -/
def shown (mode : Mode) (lineMap : Option (List Nat)) : Window :=
  { key := some ⟨9, 1⟩, mode := mode, top := 0, cursor := none, dirty := List.replicate 21 false,
    staging := .empty, lineMap := lineMap, waiting := false }

def withWindow (w : Window) (s : State) : State :=
  { s with screen := { s.screen with windows := s.screen.windows.set 0 w } }

theorem witness_WindowsCommanded :
    let s := with1 story base
    let t (m : Option (List Nat)) := withWindow (shown .read m) s
    s.hearsHost ∧ s.screenCount = 1 ∧ (1 ≤ 1 ∨ 4095 < 4096) ∧ ¬(1 ≤ 0 ∨ 4095 < 4095) ∧
    s.story ⟨9, 2⟩ = none ∧ s.story ⟨9, 1⟩ = some story ∧ (story.custody = .held ∧ story.lock = none) ∧
    (with1 { story with custody := .carbon } base).story ⟨9, 1⟩ ≠ some story ∧
    (∃ w, s.screen.windows[0]? = some w ∧ w.key = none ∧ w.dirty.length = 21) ∧
    (t none).screen.windows[0]? = some (shown .read none) ∧ (shown .read none).key = some ⟨9, 1⟩ ∧
    (shown .read none).dirty.length = 21 ∧ (t none).story ⟨9, 1⟩ = some story ∧ 0 < story.length ∧
    (story.length < 4 ∧ 3 ≤ story.length) ∧ (shown .read (some [0])).lineMap ≠ none :=
  ⟨⟨rfl, by decide⟩, rfl, by decide, by decide, rfl, rfl, by decide, by decide, ⟨_, rfl, rfl, rfl⟩, rfl,
    rfl, rfl, rfl, by decide, by decide, by decide⟩

def flash0 : Flash := { text := [0x41#8], source := 9, arrival := none }

theorem witness_FlashShown :
    let x := rx .flash 7 [0x0A#8, 0x41#8]
    let text : List Byte := List.replicate 32 0x7E#8
    base.hearsHost ∧ ¬(1 ≤ ([] : List Byte).length) ∧ ¬(List.replicate 33 0x41#8 : List Byte).length ≤ 32 ∧
    (1 ≤ text.length ∧ text.length ≤ 32 ∧ 1 ≤ 15 ∧ 15 ≤ 15 ∧ 30 ≠ base.desk.station) ∧
    (∀ c ∈ text, 0x20 ≤ c.toNat ∧ c.toNat ≤ 0x7E) ∧
    ¬(∀ c ∈ [0x7F#8], 0x20 ≤ BitVec.toNat c ∧ c.toNat ≤ 0x7E) ∧
    (∃ e ∈ (withQueue [onLine .flash .flash] base).traffic.queue, e.frame.kind = .flash) ∧
    (∀ e ∈ (withQueue full3 base).traffic.queue, e.frame.kind ≠ .flash) ∧
    (withQueue full3 base).traffic.heldShared = 3 ∧ base.traffic.heldShared < 3 ∧
    (withSlot x base).traffic.slots = x :: [] ∧ x.kind = .flash ∧ base.screen.flash = none ∧
    ({ base.screen with flash := some flash0 } : Screen).flash ≠ none :=
  ⟨⟨rfl, by decide⟩, by decide⟩

theorem witness_RowsBuiltAndSent :
    let s (st : Staging) (b : Build) (p : Purpose) : State :=
      let s := withBusy (access p 3) (withWindow { shown .read (some [0]) with
        dirty := (List.replicate 21 false).set 1 true, staging := st } (with1 story base))
      { s with screen := { s.screen with build := some b } }
    let walk := s (.building 1) (walkAt 0 1 0 []) .walkRead
    let draw := s (.building 1) (renderAt 0 1 0 0 []) .renderRead
    let ready := s (.ready { number := 1, mode := .read, cursor := 0, codes := [] })
      (renderAt 0 1 0 0 []) .renderRead
    State.reset.screen.timer = false ∧ walk.screen.timer = true ∧
    (∃ l, walk.screen.lanes[0]? = some l ∧ l.last = none) ∧ 0 < walk.screenCount ∧
    walk.screenCount ≤ 1 ∧ (walk.screen.windows[0]?).map (·.staging) = some (.building 1) ∧
    (∃ w r, ready.screen.windows[0]? = some w ∧ w.staging = .ready r) ∧
    (LaneMessage.keep.chars[0]? = some 0x02#8 ∧ 10 * LaneMessage.keep.chars.length ≤ 10) ∧
    (∃ a, walk.port.busy = some a ∧ a.aside = false ∧ a.purpose = .walkRead ∧
      a.count = min 32 (story.length - 32 * 0)) ∧
    walk.desk.op ≠ .restarting ∧ walk.story ⟨9, 1⟩ = some story ∧
    (∃ w, walk.screen.windows[0]? = some w ∧ w.key = some ⟨9, 1⟩ ∧ w.top = 0) ∧
    walk.screen.build = some (walkAt 0 1 0 []) ∧ 32 * 0 < story.length ∧
    ((lineStarts []).drop 0).length < 20 ∧
    20 ≤ ((lineStarts (List.replicate 20 0x0A#8)).drop 0).length ∧
    ((lineStarts (List.replicate 19 0x0A#8)).drop 0).length < 20 ∧
    32 * (0 + 1) < { story with length := 33 }.length ∧ story.length ≤ 32 * (0 + 1) ∧
    (0 < ((breakText screenMeasure [0x41#8]).map (·.start)).length ∧
      ((breakText screenMeasure [0x41#8]).map (·.start)).length ≤ 1) ∧
    (∃ a, draw.port.busy = some a ∧ a.purpose = .renderRead) ∧
    draw.screen.build = some (renderAt 0 1 0 0 []) ∧ 0 / 32 ≤ 0 ∧
    ([] : List Byte).length = 32 * 0 - 0 ∧ (feedFrom screenMeasure 0 []).2 = [] ∧
    (feedFrom screenMeasure 0 [0x41#8, 0x0A#8]).2 ≠ [] ∧
    (feedFrom screenMeasure 0 [0x41#8, 0x42#8]).2 = [] :=
  ⟨rfl, rfl, ⟨_, rfl, rfl⟩, by decide, by decide, rfl, ⟨_, _, rfl, rfl⟩, by decide, ⟨_, rfl, rfl, rfl, rfl⟩,
    by decide, rfl, ⟨_, rfl, rfl, rfl⟩, rfl, by decide, by decide, by decide, by decide, by decide, by decide,
    by decide, ⟨_, rfl, rfl⟩, rfl, by decide, rfl, rfl, by decide, by decide⟩

set_option maxRecDepth 10000 in
theorem witness_Settled :
    let s : State := { State.reset with desk := Desk.reset 30 }
    s.desk.ready = true ∧ s.desk.state = .start ∧ s.line.state = .dormant ∧
    ¬(1 ≤ State.reset.desk.station - 1) ∧ (1 ≤ s.desk.station ∧ s.desk.station ≤ 30) ∧
    (spec28.rate ≤ 3 ∧ ¬{ spec28 with rate := 4 }.rate ≤ 3) ∧
    (spec28.roles.length ≤ 4 ∧ (∀ x ∈ spec28.roles, 1 ≤ x ∧ x ≤ 14) ∧ spec28.roles.Nodup) ∧
    ¬[4, 4].Nodup ∧ ¬(15 ≤ 14) ∧ (1 ≤ spec28.typesetRole ∧ spec28.typesetRole ≤ 14) ∧
    (spec28.policy ≤ 1 ∧ ¬{ spec28 with policy := 2 }.policy ≤ 1) ∧
    (spec28.clockSource ≤ 30 ∧ ¬{ spec28 with clockSource := 31 }.clockSource ≤ 30) ∧
    (spec28.dayStart ≤ 1439 ∧ ¬{ spec28 with dayStart := 1440 }.dayStart ≤ 1439) ∧
    (1 ≤ spec28.editionCount ∧ spec28.editionCount ≤ 8 ∧
      spec28.editions.length = spec28.editionCount) ∧
    ¬({ spec28 with editionCount := 9 }.editionCount ≤ 8) ∧
    (∀ i, i < 4 → ∀ e ∈ spec28.editions[i]?, e.deadline ≤ 1439 ∧
      ∀ b ∈ spec28.editions[i - 1]?, 1 ≤ i → b.deadline < e.deadline) ∧
    ¬((720 : Nat) < 720) ∧
    (1 ≤ spec28.screenCount ∧ spec28.screenCount ≤ 8 ∧ ¬{ spec28 with screenCount := 9 }.screenCount ≤ 8) := by
  decide

theorem witness_Tended :
    let slow : State := { base with desk := { base.desk with lamp := .slow } }
    let away := after .tendTimerExpiry base
    base.hearsHost ∧ base.desk.record = some record9 ∧
    ((List.range 8).filter fun i => (0x03#8 : Byte).getLsbD i).length % 2 = 0 ∧
    ¬((List.range 8).filter fun i => (0x80#8 : Byte).getLsbD i).length % 2 = 0 ∧
    State.reset.desk.tendTimer = none ∧ base.desk.tendTimer = some 10000 ∧ base.desk.state = .onLine ∧
    (away.desk.state ≠ .onLine ∧ away.desk.tendTimer = some 250 ∧ away.desk.record = some record9) ∧
    slow.desk.lamp = .slow ∧ (base.desk.lamp ≠ .fast ∧ base.desk.lamp ≠ .slow) :=
  ⟨⟨rfl, by decide⟩, by decide⟩

theorem witness_TimesReported :
    base.desk.ready = true ∧ base.hearsHost ∧ base.desk.record = some record9 :=
  ⟨rfl, ⟨rfl, by decide⟩, rfl⟩

theorem witness_Restarted :
    let p := passOf .sending
    let s := withWindow (shown .edit none) (withInbound inbound7 (withPass p
      (withPlan .planned [] (with1 { story with inEdit := false } base))))
    let t := withBusy (access .walkRead 3) s
    s.hearsHost ∧ (∀ record n b c, s.fit.run ≠ some (.storing record n b c)) ∧
    s.store.reservations = [some [6, 7], none] ∧ s.pass.outbound[0]? = some (some p) ∧
    p.phase ≠ .ended ∧ (passOf .ended).phase = .ended ∧ 0 < s.screenCount ∧
    s.screen.windows[0]? = some (shown .edit none) ∧
    (∀ p, some p ∈ s.page.plans → p.state = .planned) ∧ s.port.busy = none ∧ t.port.busy ≠ none ∧
    t.hearsHost ∧
    (let waits (p : Purpose) : State :=
      withBusy { access p 3 with aside := true }
        { s with desk := { s.desk with op := .restarting, ready := false, command := some 0x20#8 } }
     (∀ p, (waits p).port.busy = some { access p 3 with aside := true }) ∧
      (∀ p, ({ access p 3 with aside := true } : Access).first = 0) ∧
      ((waits .pageRead).desk.op = .restarting ∧ (waits .pageRead).desk.ready = false ∧
        (waits .pageRead).desk.command = some (nameByte .restart)) ∧
      (∀ y ∈ (waits (.slipWrite 0 0 1 [0x41#8])).traffic.slots,
        y.inbound ≠ some { entry := 0, pass := 0 })) := by
  refine ⟨⟨rfl, by decide⟩, fun _ _ _ _ h => (by cases h), rfl, rfl, by decide, rfl, by decide, rfl, ?_, rfl,
    by decide, ⟨rfl, by decide⟩, fun _ => rfl, fun _ => rfl, ⟨rfl, rfl, rfl⟩, by decide⟩
  intro p h
  simp only [withWindow, withInbound, withPass, withPlan, List.mem_cons, Option.some.injEq, reduceCtorEq,
    List.not_mem_nil, or_false] at h
  rw [h]
  rfl

def offerEntry : OutEntry := newEntry (.passEntry 0) { kind := .offer, dest := ⟨.station, 7⟩, payload := [] }

def onLine0 : OutEntry := onLine (.passEntry 0) .offer

/-- No entry stands before the first. -/
theorem none_before {P : Nat → OutEntry → Prop} (l : List OutEntry) :
    ∀ (j : Nat) (x : OutEntry), j < 0 → l[j]? = some x → P j x :=
  fun j _ h => absurd h (Nat.not_lt_zero j)

theorem witness_AttemptsBegin :
    let s := withQueue [offerEntry] base
    let t := withQueue [onLine0] base
    (s.line.state = .active ∧ s.line.receiving = false ∧ ∀ e ∈ s.traffic.queue, e.onLine = false) ∧
    s.traffic.queue[0]? = some offerEntry ∧
    (∀ (j : Nat) (x : OutEntry), s.traffic.queue[j]? = some x →
      offerEntry.frame.kind.cls < x.frame.kind.cls ∨
        (offerEntry.frame.kind.cls = x.frame.kind.cls ∧ 0 ≤ j)) ∧
    3 + 2 * offerEntry.frame.kind.cls + 2 * offerEntry.attempts = 5 ∧ base.traffic.queue = [] ∧
    (5 ≤ max { s.line with quiet := 7 }.quiet 0 ∧ max s.line.quiet 4 < 5) ∧
    t.traffic.queue[0]? = some onLine0 ∧ onLine0.onLine = true ∧ onLine0.withdrawing = false ∧
    { onLine0 with withdrawing := true }.withdrawing = true ∧
    (1 ≤ 2 ∧ 2 ≤ 7 ∧ (bodyBits (onLine0.frame.onLine t.desk.station))[2 - 1]? = some true) ∧
    (bodyBits (onLine0.frame.onLine t.desk.station))[1 - 1]? = some false ∧
    (∀ e ∈ s.traffic.queue, e.onLine = false) ∧
    (12 ≤ 12 ∧ 20 ≤ 20 ∧ 16 ≤ 16) ∧ ¬(21 ≤ 20) ∧ base.line.receiving = false ∧
    base.line.state = .active ∧ 64 < 65 ∧ 1 ≤ 64 ∧ ¬(64 < 64) ∧
    base.line.state ≠ .dormant ∧ State.reset.line.state = .dormant := by
  refine ⟨by decide, rfl, ?_, rfl, rfl, by decide, rfl, rfl, rfl, rfl, by decide, by decide, by decide,
    by decide, by decide, rfl, rfl, by decide, by decide, by decide, by decide, rfl⟩
  intro j x h
  match j with
  | 0 => cases h; exact .inr ⟨rfl, Nat.le_refl 0⟩
  | j + 1 => simp [withQueue] at h

/-- An entry with its attempts used up: base's retry limit is 1. -/
def used (e : OutEntry) : OutEntry := { e with attempts := 1 }

theorem witness_AttemptsEnd :
    let q (e : OutEntry) (s : State) := withQueue [e] s
    let slip := used (onLine (.passEntry 0) .slip)
    let p := passOf .sending
    (∀ e ∈ base.traffic.queue, e.onLine = false) ∧
    ((q onLine0 base).traffic.queue[0]? = some onLine0 ∧ onLine0.onLine = true) ∧
    (8 ≤ 10 ∧ (bodyBits (onLine0.frame.onLine 9))[10 - 1]? = some true) ∧
    (8 ≤ 8 ∧ (bodyBits (onLine0.frame.onLine 9))[8 - 1]? = some false) ∧
    ({ onLine0 with withdrawing := true }.withdrawing = true ∧ onLine0.owner ≠ .page ∧
      onLine0.owner ≠ .clock) ∧
    ({ onLine .clock .timeMark with withdrawing := true }.owner = .clock ∧
      ({ base.clock with nextMark := some 60 } : Clock).nextMark = some 60 ∧
      base.traffic.heldShared < 3) ∧
    (let ready : OutFrame := { kind := .pageDrop, dest := ⟨.role, 3⟩, payload := [4#8, 1#8] }
     let s : State := { base with page := { base.page with dropReady := some ready, ready := some ready } }
     ({ onLine .page .setText with withdrawing := true }.owner = .page ∧
      s.page.dropReady = some ready ∧ s.page.ready = some ready ∧ s.traffic.held .page = 0) ∧
      { passOf .offering with ready := some ready }.ready = some ready ∧
      s.traffic.held (.passEntry 0) = 0) ∧
    (onLine0.withdrawing = false ∧ onLine0.attempts < base.retryLimit ∧
      base.retryLimit ≤ (used onLine0).attempts) ∧
    (onLine0.owner = .passEntry 0 ∧ onLine0.frame.kind = .offer ∧ (passOf .offering).phase = .offering ∧
      (withPass (passOf .offering) (q onLine0 base)).pass.outbound[0]? = some (some (passOf .offering)) ∧
      (passOf .offering).ready = none) ∧
    ((onLine .answer .decline).owner = .answer ∧ (onLine .flash .flash).owner = .flash ∧
      (onLine (.take 0) .take).owner = .take 0 ∧
      (withInbound inbound7 base).pass.inbound[0]? = some (some inbound7)) ∧
    (slip.owner = .passEntry 0 ∧ slip.frame.kind = .slip ∧ p.phase = .sending ∧ p.ready = none ∧
      (withPass p (with1 story (q slip base))).story p.key = some story ∧
      p.nextSlip = p.slipTotal - 1 ∧ ¬p.nextSlip = { p with slipTotal := 2 }.slipTotal - 1 ∧
      0 < story.length) ∧
    (let s : State := { withPlan .sending [0] (q (used (onLine .page .pageEnd)) base) with
        page := { (withPlan .sending [0] base).page with
          transfer := { Transfer.clear with plan := some 0, step := .finish, frame := .queued } } }
     (used (onLine .page .pageEnd)).owner = .page ∧
      (used (onLine .page .pageEnd)).frame.kind = .pageEnd ∧ s.page.transfer.plan = some 0 ∧
      s.plan 0 = some (planIn .sending) ∧ s.clock.editions[1 - 1]? = some .opened ∧
      s.page.ready = none) ∧
    (onLine .page .pageDrop).frame.kind = .pageDrop ∧ base.page.ready = none := by decide

theorem witness_AttemptsEnd_drop :
    let q (e : OutEntry) (s : State) := withQueue [e] s
    let p := passOf .sending
    (let f : OutFrame := { kind := .pageHead, dest := ⟨.role, 3⟩, payload := [4#8, 1#8] }
     let drop := used (onLine .page .pageDrop)
     let s : State := q drop { base with page := { base.page with ready := some f } }
     drop.owner = .page ∧ drop.frame.kind = .pageDrop ∧ s.page.ready = some f ∧
      s.traffic.queue.length = 1) ∧
    ((onLine (.passEntry 0) .slip).attempts < base.retryLimit ∧
      (withPass p base).pass.outbound[0]? = some (some p) ∧ p.phase ≠ .offering) := by decide

def receiving : State := { base with line := { base.line with receiving := true } }

def frameOf (source kind : Nat) (payload : List Byte) : Frame :=
  { cls := 1, source := source, kind := kind, dest := ⟨.station, 9⟩, payload := payload }

set_option maxRecDepth 20000 in
theorem witness_FramesReceived :
    let f := frameOf 7 3 [0x09#8, 0x00#8, 0x01#8]
    let slip := frameOf 7 6 (keyBytes ⟨7, 12⟩ ++ [0#8, 1#8] ++ List.replicate 8 0x41#8)
    let s := withInbound inbound7 receiving
    ((receiving.line.state = .active ∧ receiving.line.receiving = true) ∧
      base.line.receiving = false ∧ AbandonCause.lengthOver40 ≠ .missingLead) ∧
    readBody (bodyBits f) = some (f, true) ∧
    (∃ g, readBody ((bodyBits f).set 0 true) = some (g, false)) ∧
    (frameOf 9 3 []).source = base.desk.station ∧
    (f.source ≠ 9 ∧ 1 ≤ f.source ∧ f.source ≤ 30 ∧ f.dest.form = .station ∧ f.dest.number = 9) ∧
    ¬(1 ≤ (frameOf 0 3 []).source) ∧ (frameOf 7 15 []).receiving = none ∧ f.receiving = some .take ∧
    receiving.traffic.slots.length < 4 ∧ ¬(List.replicate 4 (rx .take 7 [])).length < 4 ∧
    slip.receiving = some .slip ∧ keyAt slip.payload 0 = inbound7.offer.key ∧
    twoAt slip.payload 3 = inbound7.expected ∧ inbound7.complete = false ∧
    (s.pass.inbound[0]? = some (some inbound7) ∧ inbound7.sender = slip.source) ∧
    (slip.payload.drop 5).length =
      inbound7.offer.length - 32 * (inbound7.offer.slipTotal - 1) ∧
    inbound7.expected + 1 = inbound7.offer.slipTotal ∧
    { inbound7 with expected := 0 }.expected + 1 ≠ inbound7.offer.slipTotal ∧
    crcCodes inbound7.running (slip.payload.drop 5) ≠ inbound7.offer.storyCheck ∧
    twoAt slip.payload 3 < { inbound7 with expected := 2 }.expected ∧
    ({ inbound7 with expected := 0 }.expected < twoAt slip.payload 3) ∧
    receiving.pass.inbound = [none, none] ∧
    (∃ r x, (with1 { story with key := ⟨7, 12⟩, receivedFrom := some ⟨7, 2⟩ } receiving).story ⟨7, 12⟩ =
      some r ∧ r.custody = .held ∧ r.receivedFrom = some x ∧ x.station = slip.source ∧
      twoAt slip.payload 3 + 1 = x.slips) := by
  refine ⟨by decide, by decide, ⟨_, rfl⟩, rfl, by decide, by decide, by decide, by decide, by decide,
    by decide, by decide, by decide, by decide, rfl, ⟨rfl, rfl⟩, by decide, by decide, by decide,
    by decide, by decide, by decide, rfl, _, _, rfl, rfl, rfl, rfl, by decide⟩

theorem witness_LineFaults :
    let s := withQueue [onLine0] base
    let slotted : State := { base with line := { base.line with slot := .taken } }
    let stuck : State := { base with line := { base.line with state := .stuck, recorded := some .active } }
    let joining : State := { base with line := { base.line with state := .joining } }
    let only : State := { base with line := { base.line with state := .listenOnly } }
    (∀ e ∈ base.traffic.queue, e.onLine = false) ∧ base.line.slot = .neither ∧
    (slotted.line.state = .active ∧ slotted.line.slot ≠ .neither) ∧
    { slotted.line with state := .listenOnly }.state = .listenOnly ∧ (onLine .answer .decline).owner = .answer ∧
    (s.line.state = .active ∧ s.traffic.queue[0]? = some onLine0 ∧ onLine0.onLine = true ∧
      onLine0.withdrawing = false ∧ onLine0.attempts < s.retryLimit ∧
      s.retryLimit ≤ (used onLine0).attempts ∧ s.line.state ≠ .listenOnly) ∧
    (64 < 65 ∧ 1 ≤ 1 ∧ 64 ≤ 64 ∧ base.line.state = .active) ∧
    (8 ≤ 10 ∧ (bodyBits (onLine0.frame.onLine s.desk.station))[10 - 1]? = some true) ∧
    (stuck.line.state = .stuck ∧ max stuck.line.recessive 15 < 16 ∧ 16 ≤ max stuck.line.recessive 16 ∧ stuck.line.recorded = some .active) ∧
    (joining.line.state = .joining ∧ joining.line.receiving = false ∧ max joining.line.join 23 < 24 ∧
      24 ≤ max { joining.line with join := 24 }.join 0) ∧
    base.hearsHost ∧ base.line.state ≠ .listenOnly ∧ only.hearsHost ∧ only.line.state = .listenOnly :=
  ⟨by decide, rfl, by decide, rfl, rfl, by decide, by decide, by decide, by decide, by decide,
    ⟨rfl, by decide⟩,
    by decide, ⟨rfl, by decide⟩, rfl⟩

/-! ## Slots, counts and outputs -/

/-- R61: the write of a slip whose entry is freed in mid-write is not asked for again, and its completion
frees the slot. -/
theorem test_freed_slip_written_once :
    let s := withSlot slipRx (withInbound inbound7 base)
    let s := withBusy { access (.slipWrite 0 0 1 (List.replicate 8 0x41#8)) 8 with block := 7 } s
    let t := after (.gapTimerExpiry 0) s
    t.port.slip = none ∧ t.port.busy.map (·.aside) = some true ∧
    (after .slipWriteCompletion t).port.busy = none ∧
    (after .slipWriteCompletion t).traffic.slots = [] := by decide

/-- R33: what is asserted in the slots ends with the slot end, or with a lead that does not come. -/
theorem test_slots_end :
    let s : State := { base with line := { base.line with slot := .taken } }
    (after (.slotEnd false false) s).line.slot = .neither ∧
    (after (.frameAbandoned .missingLead) s).line.slot = .neither ∧
    after .driveFault (after (.slotEnd false false) s) = after (.slotEnd false false) s := by decide

/-- R37, R44: the quiet count after joining is 24, so a frame may begin at once. -/
theorem test_begins_after_joining :
    let s : State := { withQueue [offerEntry] base with line := { Line.reset with state := .joining } }
    let t := after (.startMarkBegin 0) (after (.joinComplete 24) s)
    t.traffic.queue.map (·.onLine) = [true] ∧ t.line.quiet = 0 := by decide

/-- R200: KEEP is 0x02, least significant bit first after its start bit, then mark. -/
theorem test_lane_levels :
    let l : Lane := { rows := 0, keeps := 1, last := some .keep }
    (List.range 12).map (fun bit => l.levelAt bit) =
      [false, false, true, false, false, false, false, false, false, true, true, true] := by decide

/-- R203: a bit is sampled at each rising edge, each byte most significant bit first: 0x52 and two more
bytes are a response transfer of two. -/
theorem test_wires :
    rowOfWires true
      ([false, true, false, true, false, false, true, false].flatMap (fun b => [(false, b), (true, b)]) ++
        (List.replicate 16 [(false, false), (true, false)]).flatten) = .responseTransfer 2 := by decide

end Sys2Proof.Tests
end

/-!
OPEN STORY (R2, R14): how a taken command reaches its owner, the checks of OPEN STORY one by one, and
the record it makes.
-/

namespace Sys2Proof.Machine

/-! ## A command taken from the host (R180, R184) -/

/-- A settled desk that is READY hands every command but SETTLE to its owner. -/
theorem State.command_of_hearsHost {c : CommandName} {owner : State → State} {s : State}
    (hears : s.hearsHost) (notSettle : c ≠ .settle) :
    s.command c owner = owner (s.takeTransfer (nameByte c)) := by
  obtain ⟨ready, settled⟩ := hears
  refine State.command_taken ready ?_
  cases hs : s.desk.state with
  | start => exact absurd hs settled
  | onLine | unattended => exact decide_eq_true notSettle

/-- A taken command that is refused leaves the reply and nothing else. -/
theorem State.takeTransfer_refuse (c : CommandName) (r : Result) (s : State) :
    (s.takeTransfer (nameByte c)).refuse r = s.replied c r none .nothing := rfl

/-! ## The field checks (R14) -/

theorem within_iff {lo hi n : Nat} : within lo hi n = true ↔ lo ≤ n ∧ n ≤ hi := by
  simp [within]

theorem goodSlug_iff (slug : List Byte) :
    goodSlug slug = true ↔
      1 ≤ slug.length ∧ slug.length ≤ 12 ∧ ∀ c ∈ slug, 0x20 ≤ c.toNat ∧ c.toNat ≤ 0x7E := by
  simp [goodSlug, printable, within_iff, and_assoc]

theorem State.editionTable_of_record {s : State} {d : StartRecord} (hd : s.desk.record = some d) :
    s.editionTable = d.editions := by
  simp [State.editionTable, hd]

/-- For an edition number that can stand in the table, CLOSED is read at its place. -/
theorem State.editionClosed_iff {s : State} {edition : Nat} (h : 1 ≤ edition) :
    s.editionClosed edition = true ↔ s.clock.editions[edition - 1]? = some .closed := by
  simp [State.editionClosed, State.editionState, Nat.ne_of_gt h]

theorem Store.freeEntries_lt_one_iff (st : Store) :
    st.freeEntries < 1 ↔ 64 ≤ st.stories.length + st.reserved := by
  unfold Store.freeEntries
  omega

/-- What R14 asks of the fields of OPEN STORY against a start record. -/
def soundOpening (slug : List Byte) (edition : Nat) (d : StartRecord) : Prop :=
  (1 ≤ slug.length ∧ slug.length ≤ 12 ∧ ∀ c ∈ slug, 0x20 ≤ c.toNat ∧ c.toNat ≤ 0x7E) ∧
  1 ≤ edition ∧ edition ≤ 8 ∧ edition ≤ d.editions.length

/-- The field test of `State.openRefusal` passes exactly for sound fields. -/
theorem openFields_iff {s : State} {d : StartRecord} (hd : s.desk.record = some d)
    (slug : List Byte) (edition : Nat) :
    (goodSlug slug && within 1 8 edition && decide (edition ≤ s.editionTable.length)) = true ↔
      soundOpening slug edition d := by
  simp only [Bool.and_eq_true, decide_eq_true_eq, goodSlug_iff, within_iff,
    State.editionTable_of_record hd, soundOpening, and_assoc]

/-! ## The checks in their order (R14) -/

section Checks

variable {slug : List Byte} {edition : Nat} {s : State} {d : StartRecord}

theorem State.openRefusal_badField (hd : s.desk.record = some d)
    (unsound : ¬soundOpening slug edition d) : s.openRefusal slug edition = some .badField := by
  rw [← openFields_iff hd, Bool.not_eq_true] at unsound
  simp only [State.openRefusal, unsound, Bool.not_false, if_true]

/-- With sound fields the edition and the free entries decide. -/
theorem State.openRefusal_of_sound (hd : s.desk.record = some d)
    (sound : soundOpening slug edition d) :
    s.openRefusal slug edition =
      if s.clock.editions[edition - 1]? = some .closed then some .closed
      else if 64 ≤ s.store.stories.length + s.store.reserved then some .full
      else none := by
  have ⟨_, edition_pos, _⟩ := sound
  simp only [State.openRefusal, (openFields_iff hd slug edition).mpr sound, Bool.not_true,
    Bool.false_eq_true, if_false, State.editionClosed_iff edition_pos, Store.freeEntries_lt_one_iff]

end Checks

/-! ## The serial (R2) -/

/-- Taking a command leaves the serial to be given: it is looked for among the same keys in use. -/
theorem State.takeTransfer_freeSerial (n : Byte) (s : State) :
    ∀ tries c, (s.takeTransfer n).freeSerial tries c = s.freeSerial tries c
  | 0, _ => rfl
  | tries + 1, c => by
      have same_key : (s.takeTransfer n).keyInUse ((s.takeTransfer n).ownKey c) =
          s.keyInUse (s.ownKey c) := rfl
      simp only [State.freeSerial, same_key, State.takeTransfer_freeSerial n s tries]

theorem State.takeTransfer_openSerial (n : Byte) (s : State) :
    (s.takeTransfer n).openSerial = s.openSerial :=
  State.takeTransfer_freeSerial n s 65 s.store.serial

/-! ## OPEN STORY whole (R14) -/

/-- In a state that takes the command, its checks are made on the state as it stood. -/
theorem exec_openStory_of_hearsHost {slug : List Byte} {edition : Nat} {s : State}
    (hears : s.hearsHost) :
    exec (.openStory slug edition) s =
      .next ((s.takeTransfer (nameByte .openStory)).unless (s.openRefusal slug edition)
        (State.openStory slug edition)) :=
  congrArg Host.Outcome.next (State.command_of_hearsHost hears (by decide))

theorem exec_openStory_refused {slug : List Byte} {edition : Nat} {s : State} {r : Result}
    (hears : s.hearsHost) (refused : s.openRefusal slug edition = some r) :
    exec (.openStory slug edition) s = .next (s.replied .openStory r none .nothing) := by
  rw [exec_openStory_of_hearsHost hears, refused, State.unless, State.takeTransfer_refuse]

/-- A story opened: one new record, the serial counter one on, and the reply with the key. -/
theorem exec_openStory_opened {slug : List Byte} {edition : Nat} {s : State}
    (hears : s.hearsHost) (passed : s.openRefusal slug edition = none) :
    exec (.openStory slug edition) s =
      .next
        { s.replied .openStory .done none (.opened (s.ownKey s.openSerial)) with
            store :=
              { s.store with
                  stories := s.store.stories ++ [newStory (s.ownKey s.openSerial) slug edition],
                  serial := nextSerial s.openSerial } } := by
  rw [exec_openStory_of_hearsHost hears, passed, State.unless, State.openStory,
    State.takeTransfer_openSerial]
  rfl

/-- Settles O21: each clause is one outcome of the checks, in R14's order. -/
theorem openStoryOpens : Obligations.OpenStoryOpens := by
  intro slug edition s d hears hd sound closed full k
  refine ⟨fun unsound => ?badField, fun hs hc => ?closed, fun hs hc hf => ?full,
    fun hs hc hf => ?opened⟩
  case badField => exact exec_openStory_refused hears (State.openRefusal_badField hd unsound)
  case closed =>
    refine exec_openStory_refused hears ?_
    rw [State.openRefusal_of_sound hd hs, if_pos hc]
  case full =>
    refine exec_openStory_refused hears ?_
    rw [State.openRefusal_of_sound hd hs, if_neg hc, if_pos hf]
  case opened =>
    refine exec_openStory_opened hears ?_
    rw [State.openRefusal_of_sound hd hs, if_neg hc, if_neg hf]

end Sys2Proof.Machine

/-!
FIT DEPTH (R112, R116): its checks one by one, and the figures it answers.
-/

namespace Sys2Proof.Machine

/-! ## A command taken and answered (R181) -/

/-- A taken command that is done leaves the reply and nothing else. -/
theorem State.takeTransfer_done (c : CommandName) (d : ResponseData) (s : State) :
    (s.takeTransfer (nameByte c)).done d = s.replied c .done none d := rfl

@[simp] theorem State.takeTransfer_story (n : Byte) (s : State) (k : Key) :
    (s.takeTransfer n).story k = s.story k := rfl

/-! ## The figures (R112) -/

theorem columnLines_eq (lines columns : Nat) :
    columnLines lines columns = (lines + columns - 1) / columns := rfl

/-- Points are half-points halved, rounded up. -/
theorem points_eq (t : Setting) (lines columns : Nat) :
    points t lines columns = (halfPoints t lines columns + 1) / 2 := by
  simp only [points, ceilDiv, Nat.add_succ_sub_one]

/-- The figures of `depthOf`, written out in the record's lines and setting. -/
theorem depthOf_eq (f : FitRecord) (columns budget : Nat) :
    depthOf f columns budget =
      let lines := (f.lines + columns - 1) / columns
      let half := min 65535 (lines * (f.setting.size + f.setting.lead))
      .depth f lines half ((half + 1) / 2) ((half + 1) / 2 - budget) := by
  simp only [depthOf, oversetOf, points_eq, halfPoints, columnLines_eq]

/-! ## The checks in their order (R116) -/

/-- What R116 asks of the fields of FIT DEPTH. -/
def soundDepth (columns budget : Nat) : Prop := 1 ≤ columns ∧ columns ≤ 6 ∧ budget ≤ 2000

/-- The field test of `State.fitDepth` passes exactly for sound fields. -/
theorem depthFields_iff (columns budget : Nat) :
    (within 1 6 columns && within 0 2000 budget) = true ↔ soundDepth columns budget := by
  simp only [Bool.and_eq_true, within_iff, Nat.zero_le, true_and, and_assoc, soundDepth]

section Checks

variable {k : Key} {columns budget : Nat} {s : State} {r : Story}

theorem State.fitDepth_noStory (absent : s.story k = none) :
    s.fitDepth k columns budget = s.refuse .noStory := by
  simp only [State.fitDepth, absent]

theorem State.fitDepth_badField (stands : s.story k = some r) (unsound : ¬soundDepth columns budget) :
    s.fitDepth k columns budget = s.refuse .badField := by
  rw [← depthFields_iff, Bool.not_eq_true] at unsound
  simp only [State.fitDepth, stands, unsound, Bool.not_false, if_true]

theorem State.fitDepth_wrongState (stands : s.story k = some r) (sound : soundDepth columns budget)
    (unfitted : r.fit = none) : s.fitDepth k columns budget = s.refuse .wrongState := by
  simp only [State.fitDepth, stands, (depthFields_iff columns budget).mpr sound, unfitted,
    Bool.not_true, Bool.false_eq_true, if_false]

theorem State.fitDepth_done {f : FitRecord} (stands : s.story k = some r)
    (sound : soundDepth columns budget) (fitted : r.fit = some f) :
    s.fitDepth k columns budget = s.done (depthOf f columns budget) := by
  simp only [State.fitDepth, stands, (depthFields_iff columns budget).mpr sound, fitted,
    Bool.not_true, Bool.false_eq_true, if_false]

end Checks

/-! ## FIT DEPTH whole (R116) -/

theorem exec_fitDepth_of_hearsHost {k : Key} {columns budget : Nat} {s : State}
    (hears : s.hearsHost) :
    exec (.fitDepth k columns budget) s =
      .next ((s.takeTransfer (nameByte .fitDepth)).fitDepth k columns budget) :=
  congrArg Host.Outcome.next (State.command_of_hearsHost hears (by decide))

/-- Settles O40: each clause is one outcome of the checks, in R116's order; a command taken keeps the
stories they read. -/
theorem fitDepthAnswered : Obligations.FitDepthAnswered := by
  intro k n b s hears
  rw [exec_fitDepth_of_hearsHost hears]
  have story_kept := State.takeTransfer_story (nameByte .fitDepth) s k
  refine ⟨fun absent => ?noStory, fun r stands =>
    ⟨fun unsound => ?badField, fun columns_pos columns_le budget_le unfitted => ?wrongState,
      fun f columns_pos columns_le budget_le fitted => ?done⟩⟩
  case noStory =>
    rw [State.fitDepth_noStory (story_kept.trans absent), State.takeTransfer_refuse]
  case badField =>
    rw [State.fitDepth_badField (story_kept.trans stands) unsound, State.takeTransfer_refuse]
  case wrongState =>
    rw [State.fitDepth_wrongState (story_kept.trans stands) ⟨columns_pos, columns_le, budget_le⟩
      unfitted, State.takeTransfer_refuse]
  case done =>
    rw [State.fitDepth_done (story_kept.trans stands) ⟨columns_pos, columns_le, budget_le⟩ fitted,
      State.takeTransfer_done, depthOf_eq]

end Sys2Proof.Machine

/-!
A transfer begun while READY is low (R183): what raising a notice leaves unchanged, and why every host
command and every unreadable command ends in the discard.
-/

namespace Sys2Proof.Machine

/-! ## A notice raised (R191, R193, R196) -/

/-- The flags are numbered in the table's order, so a flag's place names it. -/
theorem Notice.ofNat_bit (n : Notice) : Notice.ofNat n.bit = n := by
  cases n <;> rfl

theorem Notice.bit_injective : Function.Injective Notice.bit :=
  Function.LeftInverse.injective Notice.ofNat_bit

/-- Raising a notice leaves every other flag as it was. -/
theorem State.raise_latched_of_ne {m n : Notice} (other : m ≠ n) (s : State) :
    (s.raise n).desk.latched m = s.desk.latched m := by
  have other_bit : n.bit ≠ m.bit := fun same => other (Notice.bit_injective same).symm
  have clear_at_other : (BitVec.ofNat 18 (2 ^ n.bit)).getLsbD m.bit = false := by
    rw [BitVec.getLsbD_ofNat, Nat.testBit_two_pow_of_ne other_bit, Bool.and_false]
  simp only [State.raise_desk, Desk.latched, Desk.refresh_notices, BitVec.getLsbD_or,
    clear_at_other, Bool.or_false]

/-- A refresh writes ATTENTION, the lamp and its phase, and nothing else. -/
theorem Desk.refresh_eq (d : Desk) :
    d.refresh =
      { d with attention := d.refresh.attentionLevel, lamp := d.refresh.lampPattern,
               lit := d.refresh.lit } := by
  obtain ⟨attention_eq, lamp_eq⟩ := Desk.refresh_agrees d
  rw [← attention_eq, ← lamp_eq]
  unfold Desk.refresh
  split <;> rfl

/-- Raising a notice changes the flags and the outputs computed from them, and nothing else. -/
theorem State.raise_eq (n : Notice) (s : State) :
    s.raise n =
      { s with
          desk :=
            { s.desk with
                notices := (s.raise n).desk.notices, attention := (s.raise n).desk.attentionLevel,
                lamp := (s.raise n).desk.lampPattern, lit := (s.raise n).desk.lit } } := by
  have flag_kept := Desk.refresh_notices
    { s.desk with notices := s.desk.notices ||| BitVec.ofNat 18 (2 ^ n.bit) }
  rw [State.raise_desk, flag_kept]
  exact congrArg (fun d => { s with desk := d }) (Desk.refresh_eq _)

/-! ## Transfers while READY is low (R183) -/

/-- A row that is a host command goes through the gate of `State.command`, except a PLACE whose text is
too long, which is answered as an unreadable command (R181, log entry 14). -/
theorem exec_of_commandFields {i : Instr} {c : CommandName} {f : List Byte}
    (command : commandFields i = some (c, f)) :
    (∃ owner, ∀ s, exec i s = .next (s.command c owner)) ∨
      ∀ s, exec i s = .next (s.unreadable (nameByte c)) := by
  cases i with
  | place k start stop text =>
      cases command
      by_cases tooLong : 32 < text.length
      · exact .inr fun _ => congrArg Host.Outcome.next (if_pos tooLong)
      · exact .inl ⟨_, fun _ => congrArg Host.Outcome.next (if_neg tooLong)⟩
  | openStory | readText | dropStory | storyState | resolve | lineRetry | lineCounts | pass
  | cancelPass | answerOffer | passTable | fit | fitStatus | fitDepth | planPage | clearPlan
  | sendPage | cancelPage | pageTable | setClock | clockStatus | view | scroll | cursor
  | sendFlash | screenStatus | settle | tend | report | status | restart =>
      cases command
      exact .inl ⟨_, fun _ => rfl⟩
  | _ => cases command

/-- A command transfer that cannot be read is discarded too when READY is low. -/
theorem State.unreadable_notReady {s : State} (notReady : s.desk.ready = false) (name : Byte) :
    s.unreadable name = s.discardTransfer := by
  simp [State.unreadable, notReady]

/-- No free value is used for the name of a discarded transfer. -/
theorem exec_unreadableCommand_notReady {s : State} (notReady : s.desk.ready = false)
    (name : Option CommandName) :
    exec (.unreadableCommand name) s = .next s.discardTransfer := by
  refine congrArg Host.Outcome.next ?_
  cases name with
  | none => simp [State.unreadableCommand, notReady]
  | some c => exact State.unreadable_notReady notReady (nameByte c)

theorem exec_command_notReady {i : Instr} {s : State} (notReady : s.desk.ready = false)
    (command : (commandFields i).isSome = true) : exec i s = .next s.discardTransfer := by
  obtain ⟨⟨c, f⟩, fields⟩ := Option.isSome_iff_exists.mp command
  obtain ⟨owner, gated⟩ | unreadable := exec_of_commandFields fields
  · rw [gated, State.command_notReady notReady]
  · rw [unreadable, State.unreadable_notReady notReady]

/-- A transfer begun while READY was low is the discarded row unless its first byte makes it a response
transfer. -/
theorem rowOfTransfer_notReady {bytes : List Byte} (notResponse : bytes.head? ≠ some 0x52#8) :
    rowOfTransfer false bytes = .discardedCommandTransfer := by
  simp [rowOfTransfer, notResponse]

/-- Settles O17: each of the rows is the discard of R183, which only raises LINK OVERRUN. -/
theorem transferWhileBusyDiscarded : Obligations.TransferWhileBusyDiscarded := by
  refine ⟨fun _ notResponse => rowOfTransfer_notReady notResponse, fun i s row => ?_⟩
  have discarded : exec i s = .next (s.raise .linkOverrun) := by
    obtain rfl | ⟨notReady, ⟨name, rfl⟩ | command⟩ := row
    · rfl
    · exact exec_unreadableCommand_notReady notReady name
    · exact exec_command_notReady notReady command
  exact ⟨s.raise .linkOverrun, discarded, State.raise_latched .linkOverrun s,
    fun _ other => State.raise_latched_of_ne other s, State.raise_eq .linkOverrun s⟩

end Sys2Proof.Machine


/-!
Every step keeps the invariants (R11, R42, R50, R54, R141, R193, R196). `Inner s t` gathers what all the
changes within the part have in common: they leave the desk link, the desk state, the start record, the line
section's state and the time as they stand, and keep every other invariant. Each operation of the model that
is such a change has one lemma, in the order of the model's definitions.
-/

namespace Sys2Proof.Machine

/-! ## Queues but for what changes during an attempt -/

/-- What the invariants read of an out queue entry. -/
def OutEntry.tag (e : OutEntry) : Owner × Bool × Nat := (e.owner, e.onLine, e.attempts)

theorem Traffic.heldShared_eq (t : Traffic) :
    t.heldShared = (t.queue.map OutEntry.tag).countP fun x => x.1.shared := by
  rw [List.countP_map, List.countP_eq_length_filter]; rfl

theorem Traffic.held_eq (o : Owner) (t : Traffic) :
    t.held o = (t.queue.map OutEntry.tag).countP fun x => decide (x.1 = o) := by
  rw [List.countP_map, List.countP_eq_length_filter]; rfl

theorem Traffic.onLineCount_eq (t : Traffic) :
    t.onLineCount = (t.queue.map OutEntry.tag).countP fun x => x.2.1 := by
  rw [List.countP_map, List.countP_eq_length_filter]; rfl

theorem Traffic.sending_iff (t : Traffic) : t.sending = true ↔ 0 < t.onLineCount := by
  simp [Traffic.sending, Traffic.onLineCount, List.length_pos_iff_exists_mem]

/-- No share holds more than R50 gives it. -/
def Traffic.sharesKept (t : Traffic) : Prop :=
  t.heldShared ≤ 3 ∧ t.held .page ≤ 1 ∧ ∀ n, t.held (.passEntry n) ≤ 1

/-- The seven line counts stay in 16 bits. -/
def LineCounts.saturate (c : LineCounts) : Prop :=
  c.good ≤ 65535 ∧ c.checkFailures ≤ 65535 ∧ c.unknownKinds ≤ 65535 ∧ c.refusedFull ≤ 65535 ∧
  c.sent ≤ 65535 ∧ c.failed ≤ 65535 ∧ c.arbLosses ≤ 65535

/-- The counts of each lane stay in 16 bits. -/
def Screen.saturates (c : Screen) : Prop := ∀ l ∈ c.lanes, l.rows ≤ 65535 ∧ l.keeps ≤ 65535

theorem State.countsSaturate_iff (s : State) :
    s.countsSaturate ↔ s.traffic.counts.saturate ∧ s.store.substitutions ≤ 65535 ∧
      s.clock.ignored ≤ 65535 ∧ s.desk.missed ≤ 255 ∧ s.screen.saturates := by
  simp only [State.countsSaturate, LineCounts.saturate, Screen.saturates, and_assoc]

theorem bump_le (limit n : Nat) : bump limit n ≤ limit := by
  unfold bump; split <;> omega

theorem bump16_le (n : Nat) : bump16 n ≤ 65535 := bump_le _ _

theorem add16_le (n k : Nat) : add16 n k ≤ 65535 := Nat.min_le_left _ _

/-! ## Inner changes -/

/-- From `s` to `t` the desk link, the desk state, the start record, the line section's state and the time are
as they were, the out queue has no more entries ON LINE, and every other invariant is kept. -/
structure Inner (s t : State) : Prop where
  pending : t.pending = s.pending
  signals : s.signalsAgree → t.signalsAgree
  ready : t.desk.ready = s.desk.ready
  command : t.desk.command = s.desk.command
  response : t.desk.response = s.desk.response
  op : t.desk.op = s.desk.op
  state : t.desk.state = s.desk.state
  record : t.desk.record = s.desk.record
  missed : t.desk.missed = s.desk.missed
  serves : s.port.leavesNoneWaiting → t.port.leavesNoneWaiting
  owned : s.port.requestsOwned → t.port.requestsOwned
  memory : s.memoryWf → t.memoryWf
  substitutions : s.store.substitutions ≤ 65535 → t.store.substitutions ≤ 65535
  lineState : t.line.state = s.line.state
  onLineCount : t.traffic.onLineCount ≤ s.traffic.onLineCount
  attempts : ∀ n, (∀ e ∈ s.traffic.queue, e.attempts ≤ n) → ∀ e ∈ t.traffic.queue, e.attempts ≤ n
  shares : s.traffic.sharesKept → t.traffic.sharesKept
  slots : t.traffic.slots.length ≤ s.traffic.slots.length
  lineCounts : s.traffic.counts.saturate → t.traffic.counts.saturate
  tables : s.tablesWhole → t.tablesWhole
  time : t.clock.time = s.clock.time
  isSet : t.clock.isSet = s.clock.isSet
  editions : t.clock.editions.length = s.clock.editions.length
  ignored : t.clock.ignored = s.clock.ignored
  lanes : s.screen.saturates → t.screen.saturates

theorem Inner.refl (s : State) : Inner s s where
  pending := rfl
  signals := id
  ready := rfl
  command := rfl
  response := rfl
  op := rfl
  state := rfl
  record := rfl
  missed := rfl
  serves := id
  owned := id
  memory := id
  substitutions := id
  lineState := rfl
  onLineCount := Nat.le_refl _
  attempts := fun _ => id
  shares := id
  slots := Nat.le_refl _
  lineCounts := id
  tables := id
  time := rfl
  isSet := rfl
  editions := rfl
  ignored := rfl
  lanes := id

section Blocks

variable {u s : State}

theorem Inner.trans {t : State} (h : Inner u s) (k : Inner s t) : Inner u t where
  pending := k.pending.trans h.pending
  signals := k.signals ∘ h.signals
  ready := k.ready.trans h.ready
  command := k.command.trans h.command
  response := k.response.trans h.response
  op := k.op.trans h.op
  state := k.state.trans h.state
  record := k.record.trans h.record
  missed := k.missed.trans h.missed
  serves := k.serves ∘ h.serves
  owned := k.owned ∘ h.owned
  memory := k.memory ∘ h.memory
  substitutions := k.substitutions ∘ h.substitutions
  lineState := k.lineState.trans h.lineState
  onLineCount := k.onLineCount.trans h.onLineCount
  attempts := fun n => k.attempts n ∘ h.attempts n
  shares := k.shares ∘ h.shares
  slots := k.slots.trans h.slots
  lineCounts := k.lineCounts ∘ h.lineCounts
  tables := k.tables ∘ h.tables
  time := k.time.trans h.time
  isSet := k.isSet.trans h.isSet
  editions := k.editions.trans h.editions
  ignored := k.ignored.trans h.ignored
  lanes := k.lanes ∘ h.lanes

theorem Inner.ite {c : Prop} [Decidable c] {a b : State} (yes : c → Inner u a) (no : ¬c → Inner u b) :
    Inner u (if c then a else b) := by
  split
  · next hc => exact yes hc
  · next hc => exact no hc

theorem Inner.foldl {α : Type} {f : State → α → State} (h : Inner u s)
    (each : ∀ t a, Inner u t → Inner u (f t a)) (l : List α) : Inner u (l.foldl f s) := by
  induction l generalizing s with
  | nil => exact h
  | cons a l ih => exact ih (each s a h)

/-! ### Changes of one block -/

theorem Inner.onScreen (h : Inner u s) (f : Screen → Screen)
    (lanes : (f s.screen).lanes = s.screen.lanes) : Inner u (s.onScreen f) :=
  { h with lanes := fun x l hl => h.lanes x l (lanes ▸ hl) }

theorem Inner.onWindow (h : Inner u s) (n : Nat) (f : Window → Window) : Inner u (s.onWindow n f) :=
  h.onScreen _ rfl

theorem Inner.onFit (h : Inner u s) (f : FitEngine → FitEngine) : Inner u (s.onFit f) := { h with }

theorem Inner.onPage (h : Inner u s) (f : PageEngine → PageEngine) : Inner u (s.onPage f) := { h with }

theorem Inner.onPlan (h : Inner u s) (slot : Nat) (f : Plan → Plan) : Inner u (s.onPlan slot f) :=
  h.onPage _

theorem Inner.request (h : Inner u s) (a : Access) : Inner u (s.onPort (Port.request a)) :=
  { h with
    serves := fun x => Port.request_serves a (h.serves x)
    owned := fun x => Port.request_owned a (h.owned x) }

theorem Inner.requestChain (h : Inner u s) (p : Purpose) (chain : List Nat) (length i : Nat) :
    Inner u (s.requestChain p chain length i) := h.request _

theorem Inner.abandon (h : Inner u s) (mine : Purpose → Bool) : Inner u (s.onPort (Port.abandon mine)) :=
  { h with
    serves := fun x => Port.abandon_serves mine (h.serves x)
    owned := fun x => Port.abandon_owned mine (h.owned x) }

theorem Inner.complete (h : Inner u s) : Inner u (s.onPort Port.complete) :=
  { h with
    serves := fun _ => Port.complete_serves _
    owned := fun x => Port.complete_owned (h.owned x) }

theorem Inner.onStore (h : Inner u s) (f : Store → Store)
    (text : s.store.text.wf = true → (f s.store).text.wf = true)
    (substitutions : s.store.substitutions ≤ 65535 → (f s.store).substitutions ≤ 65535) :
    Inner u (s.onStore f) :=
  { h with
    memory := text ∘ h.memory
    substitutions := substitutions ∘ h.substitutions }

theorem Inner.onPass (h : Inner u s) (f : PassEngine → PassEngine)
    (outbound : (f s.pass).outbound.length = s.pass.outbound.length)
    (inbound : (f s.pass).inbound.length = s.pass.inbound.length) : Inner u (s.onPass f) :=
  { h with
    tables := fun x => ⟨outbound.trans (h.tables x).1, inbound.trans (h.tables x).2⟩ }

theorem Inner.onOutbound (h : Inner u s) (n : Nat) (f : Pass → Pass) : Inner u (s.onOutbound n f) :=
  h.onPass _ (by simp) rfl

theorem Inner.onInbound (h : Inner u s) (n : Nat) (f : Inbound → Inbound) : Inner u (s.onInbound n f) :=
  h.onPass _ rfl (by simp)

theorem Inner.onClock (h : Inner u s) (f : Clock → Clock) (time : (f s.clock).time = s.clock.time)
    (isSet : (f s.clock).isSet = s.clock.isSet)
    (editions : (f s.clock).editions.length = s.clock.editions.length)
    (ignored : (f s.clock).ignored = s.clock.ignored) : Inner u (s.onClock f) :=
  { h with
    time := time.trans h.time
    isSet := isSet.trans h.isSet
    editions := editions.trans h.editions
    ignored := ignored.trans h.ignored }

/-- A change of the line section that keeps its state. -/
theorem Inner.onLine (h : Inner u s) (f : Line → Line) (state : (f s.line).state = s.line.state) :
    Inner u (s.onLine f) :=
  { h with lineState := state.trans h.lineState }

/-- A change that keeps entries of the out queue, in order, as the invariants read them. -/
theorem Inner.onTraffic (h : Inner u s) (f : Traffic → Traffic)
    (queue : ((f s.traffic).queue.map OutEntry.tag).Sublist (s.traffic.queue.map OutEntry.tag))
    (slots : (f s.traffic).slots.length ≤ s.traffic.slots.length)
    (counts : s.traffic.counts.saturate → (f s.traffic).counts.saturate) : Inner u (s.onTraffic f) :=
  { h with
    onLineCount := by
      rw [Traffic.onLineCount_eq, State.onTraffic_traffic]
      exact queue.countP_le.trans (by rw [← Traffic.onLineCount_eq]; exact h.onLineCount)
    attempts := fun n hn e he => by
      have tagged : e.tag ∈ s.traffic.queue.map OutEntry.tag :=
        queue.subset (List.mem_map_of_mem he)
      obtain ⟨e', he', same⟩ := List.mem_map.mp tagged
      have : e.attempts = e'.attempts := congrArg (·.2.2) same.symm
      exact this ▸ h.attempts n hn e' he'
    shares := fun x => by
      obtain ⟨shared, page, pass⟩ := h.shares x
      simp only [Traffic.sharesKept, Traffic.heldShared_eq, Traffic.held_eq,
        State.onTraffic_traffic] at shared page pass ⊢
      exact ⟨queue.countP_le.trans shared, queue.countP_le.trans page,
        fun n => queue.countP_le.trans (pass n)⟩
    slots := slots.trans h.slots
    lineCounts := counts ∘ h.lineCounts }

theorem Inner.count (h : Inner u s) (f : LineCounts → LineCounts)
    (counts : s.traffic.counts.saturate → (f s.traffic.counts).saturate) : Inner u (s.count f) :=
  h.onTraffic _ (List.Sublist.refl _) (Nat.le_refl _) counts

theorem Inner.removeEntry (h : Inner u s) (i : Nat) : Inner u (s.removeEntry i) :=
  h.onTraffic _ ((List.eraseIdx_sublist _ _).map _) (Nat.le_refl _) id

theorem Inner.freeOldest (h : Inner u s) : Inner u s.freeOldest :=
  h.onTraffic _ (List.Sublist.refl _) (by simp) id

theorem Inner.withdraw (h : Inner u s) (o : Owner) : Inner u (s.withdraw o) := by
  refine h.onTraffic _ ?_ (Nat.le_refl _) id
  have tags : ((s.traffic.withdraw o).queue.map OutEntry.tag) =
      (s.traffic.queue.filter fun e => !(e.heldBy o && !e.onLine)).map OutEntry.tag := by
    simp only [Traffic.withdraw, List.map_map]
    refine List.map_congr_left fun e _ => ?_
    simp only [Function.comp]
    split <;> rfl
  rw [tags]
  exact List.filter_sublist.map _

/-- A share with room for another entry holds one more within its limit. -/
theorem Traffic.insert_sharesKept {o : Owner} {t : Traffic} (f : OutFrame) (room : t.hasRoom o = true)
    (h : t.sharesKept) : (t.insert o f).sharesKept := by
  obtain ⟨shared, page, pass⟩ := h
  have none_held (no : o.shared = false) : t.held o = 0 := by
    simpa [Traffic.hasRoom, no, Traffic.held] using room
  refine ⟨?_, ?_, fun n => ?_⟩
  · cases hs : o.shared with
    | true =>
        have : t.heldShared < 3 := by simpa [Traffic.hasRoom, hs, Traffic.heldShared] using room
        simp only [Traffic.heldShared, Traffic.insert, List.filter_append, List.length_append] at this ⊢
        simp [hs]; omega
    | false =>
        simpa [Traffic.heldShared, Traffic.insert, hs] using shared
  · by_cases ho : o = .page
    · have := none_held (by rw [ho]; rfl)
      subst ho
      simp only [Traffic.held, Traffic.insert, List.filter_append, List.length_append] at this ⊢
      simp [this]
    · simpa [Traffic.held, Traffic.insert, ho] using page
  · by_cases ho : o = .passEntry n
    · have := none_held (by rw [ho]; rfl)
      subst ho
      simp only [Traffic.held, Traffic.insert, List.filter_append, List.length_append] at this ⊢
      simp [this]
    · simpa [Traffic.held, Traffic.insert, ho] using pass n

theorem Inner.send (h : Inner u s) (o : Owner) (f : OutFrame) : Inner u (s.send o f) := by
  unfold State.send
  split
  · next room =>
      exact { h with
        onLineCount := by simpa [Traffic.onLineCount, Traffic.insert] using h.onLineCount
        attempts := fun n hn e he => by
          rcases List.mem_append.mp he with he | he
          · exact h.attempts n hn e he
          · rw [List.mem_singleton.mp he]; exact Nat.zero_le _
        shares := fun x => Traffic.insert_sharesKept f room (h.shares x) }
  · exact h

theorem Inner.raise (h : Inner u s) (n : Notice) : Inner u (s.raise n) :=
  { h with
    signals := fun _ => Desk.refresh_agrees _
    ready := by simpa using h.ready
    command := by simpa using h.command
    response := by simpa using h.response
    op := by simpa using h.op
    state := by simpa using h.state
    record := by simpa using h.record
    missed := by simpa using h.missed }

theorem Inner.tellDesk (h : Inner u s) (f : LampInputs → LampInputs) : Inner u (s.tellDesk f) :=
  { h with
    signals := fun _ => Desk.refresh_agrees _
    ready := by simpa using h.ready
    command := by simpa using h.command
    response := by simpa using h.response
    op := by simpa using h.op
    state := by simpa using h.state
    record := by simpa using h.record
    missed := by simpa using h.missed }

end Blocks

end Sys2Proof.Machine


namespace Sys2Proof.Machine

section FollowUps

variable {u s : State}

/-! ### Rows and windows (R166 to R172, R176) -/

theorem Inner.stageAtOnce (h : Inner u s) (n : Nat) : Inner u (s.stageAtOnce n) := by
  unfold State.stageAtOnce
  repeat' split
  all_goals first
    | exact h
    | exact h.onWindow n _

theorem Inner.eachWindow (h : Inner u s) {f : Nat → State → State}
    (each : ∀ t n, Inner u t → Inner u (f n t)) : Inner u (s.eachWindow f) :=
  h.foldl each _

theorem Inner.beginRender (h : Inner u s) (n r start : Nat) (q : Story) :
    Inner u (s.beginRender n r start q) :=
  (h.onScreen _ rfl).requestChain ..

theorem Inner.stageBuilt (h : Inner u s) (n : Nat) (row : Row) :
    Inner u ((s.onScreen fun c => { c with build := none }).onWindow n (Window.stage row)) :=
  (h.onScreen _ rfl).onWindow n _

theorem Inner.renderOrBlank (h : Inner u s) (n r : Nat) (q : Story) :
    Inner u (s.renderOrBlank n r q) := by
  unfold State.renderOrBlank
  repeat' split
  · exact h
  · exact h.beginRender ..
  · exact h.stageBuilt ..
  · exact h.stageBuilt ..

theorem Inner.takeLane (h : Inner u s) (n r : Nat) (w : Window) : Inner u (s.takeLane n r w) := by
  have begun := (h.onScreen (fun c => { c with lastServed := n }) rfl).onWindow n
    fun w => { w with staging := .building r }
  unfold State.takeLane
  dsimp only
  repeat' split
  · exact begun.onWindow n _
  · exact begun.renderOrBlank ..
  · exact (begun.onWindow n _).renderOrBlank ..
  · exact (begun.onScreen _ rfl).requestChain ..

theorem Inner.chooseLane (h : Inner u s) : Inner u s.chooseLane := by
  unfold State.chooseLane
  repeat' split
  all_goals first
    | exact h
    | exact h.takeLane ..

theorem Inner.settleRows (h : Inner u s) : Inner u s.settleRows :=
  h.foldl (fun _ _ ht => (ht.eachWindow fun _ n hx => hx.stageAtOnce n).chooseLane) _

theorem Inner.abandonBuild (h : Inner u s) : Inner u s.abandonBuild :=
  (h.abandon _).onScreen _ rfl

theorem Inner.dirty (h : Inner u s) (n : Nat) (rows : Nat → Bool) : Inner u (s.dirty n rows) :=
  (Inner.ite (fun _ => h.abandonBuild) fun _ => h).onWindow n _

theorem Inner.dirtyStatus (h : Inner u s) : Inner u s.dirtyStatus :=
  h.eachWindow fun _ n ht => ht.dirty n _

theorem Inner.tellStatus (h : Inner u s) (f : Status → Status) : Inner u (s.tellStatus f) :=
  (h.onScreen _ rfl).dirtyStatus

theorem Inner.tellLine (h : Inner u s) (st : LineState) : Inner u (s.tellLine st) :=
  (h.tellStatus _).tellDesk _

theorem Inner.tellOffers (h : Inner u s) : Inner u s.tellOffers :=
  (h.tellStatus fun x => { x with offers := s.pass.offers.length }).tellDesk
    fun i => { i with offers := s.pass.offers.length }

theorem Inner.tellCurrent (h : Inner u s) (c : Current) : Inner u (s.tellCurrent c) :=
  (h.tellStatus _).tellDesk _

theorem Inner.eachWindowOn (h : Inner u s) (k : Key) {f : Nat → State → State}
    (each : ∀ t n, Inner u t → Inner u (f n t)) : Inner u (s.eachWindowOn k f) :=
  h.foldl (fun t n ht => Inner.ite (fun _ => each t n ht) fun _ => ht) _

theorem Inner.windowsInEdit (h : Inner u s) (k : Key) : Inner u (s.windowsInEdit k) :=
  h.eachWindowOn k fun _ n ht => (ht.dirty n _).onWindow n _

theorem Inner.windowsTextChanged (h : Inner u s) (k : Key) (length : Nat) :
    Inner u (s.windowsTextChanged k length) :=
  h.eachWindowOn k fun _ n ht => (ht.dirty n _).onWindow n _

theorem Inner.windowsEditBarred (h : Inner u s) (k : Key) : Inner u (s.windowsEditBarred k) :=
  h.eachWindowOn k fun _ n ht => Inner.ite (fun _ => (ht.dirty n _).onWindow n _) fun _ => ht

theorem Inner.windowsStoryFreed (h : Inner u s) (k : Key) : Inner u (s.windowsStoryFreed k) :=
  h.eachWindowOn k fun _ n ht => (ht.dirty n _).onWindow n _

/-! ### Store records (R3, R6 to R8, R21) -/

theorem Inner.change (h : Inner u s) (k : Key) (f : Story → Story) :
    Inner u (s.onStore (Store.change k f)) := h.onStore _ id id

theorem Inner.takeLock (h : Inner u s) (k : Key) (slot : Nat) : Inner u (s.takeLock k slot) :=
  Inner.ite (fun _ => (h.change k _).windowsEditBarred k) fun _ => h.change k _

theorem Inner.releaseLock (h : Inner u s) (k : Key) : Inner u (s.releaseLock k) := h.change k _

theorem Store.free_text (k : Key) (order : List Nat → List Nat) (st : Store) :
    (st.free k order).text = st.text := by
  unfold Store.free; split <;> rfl

theorem Store.free_substitutions (k : Key) (order : List Nat → List Nat) (st : Store) :
    (st.free k order).substitutions = st.substitutions := by
  unfold Store.free; split <;> rfl

theorem Store.release_text (n : Nat) (st : Store) : (st.release n).text = st.text := by
  unfold Store.release; split <;> rfl

theorem Store.release_substitutions (n : Nat) (st : Store) :
    (st.release n).substitutions = st.substitutions := by
  unfold Store.release; split <;> rfl

theorem Inner.freeRecord (h : Inner u s) (k : Key) (order : List Nat → List Nat) :
    Inner u (s.onStore (Store.free k order)) :=
  h.onStore _ (by rw [Store.free_text]; exact id) (by rw [Store.free_substitutions]; exact id)

theorem Inner.release (h : Inner u s) (n : Nat) : Inner u (s.onStore (Store.release n)) :=
  h.onStore _ (by rw [Store.release_text]; exact id) (by rw [Store.release_substitutions]; exact id)

/-! ### Pages and fits (R101 to R106, R119 to R134) -/

theorem Inner.sendPageFrame (h : Inner u s) (f : OutFrame) : Inner u (s.sendPageFrame f) :=
  (h.send _ f).onPage _

theorem Inner.preparePage (h : Inner u s) : Inner u s.preparePage := by
  unfold State.preparePage
  dsimp only
  repeat' split
  all_goals first
    | exact h
    | exact h.sendPageFrame _
    | exact h.onPage _
    | exact (h.onPage _).requestChain ..

theorem Inner.stopTransfer (h : Inner u s) (r : DropReason) (p : Plan) : Inner u (s.stopTransfer r p) :=
  have gone := h.abandon Purpose.isPage
  Inner.ite
    (fun _ => Inner.ite (fun _ => ((gone.withdraw .page).onPage _).send _ _)
      fun _ => ((gone.withdraw .page).onPage _).onPage _)
    fun _ => gone.onPage _

theorem Inner.endTransfer (h : Inner u s) (o : PlanState) (p : Plan) : Inner u (s.endTransfer o p) := by
  unfold State.endTransfer
  split
  · exact h.stopTransfer ..
  · exact h.onPage _

theorem Inner.planLeaves (h : Inner u s) (edition : Nat) : Inner u (s.planLeaves edition) := h.tellDesk _

theorem Inner.planEnters (h : Inner u s) (edition : Nat) : Inner u (s.planEnters edition) := h.tellDesk _

theorem Inner.endPlan (h : Inner u s) (slot : Nat) (o : PlanState) : Inner u (s.endPlan slot o) := by
  unfold State.endPlan
  split
  · exact h
  · next p hp =>
      have ended := h.onPlan slot fun p => { p with state := o }
      have unlocked := Inner.ite (c := p.state.underWay = true)
        (fun _ => ended.foldl (fun _ q ht => ht.releaseLock q.key) p.placements) fun _ => ended
      have withdrawn := Inner.ite (c := p.state = .fitting)
        (fun _ => (unlocked.onFit FitEngine.withdrawPage).onPage
          fun e => { e with requests := [], outstanding := [] }) fun _ => unlocked
      have stopped := Inner.ite (c := p.state = .sending)
        (fun _ => withdrawn.endTransfer o p) fun _ => withdrawn
      have told := Inner.ite (c := p.state = .planned)
        (fun _ => (stopped.onPage fun e => { e with sendOrder := e.sendOrder.filter (· ≠ slot) }).planLeaves
          p.edition) fun _ => stopped.onPage fun e => { e with sendOrder := e.sendOrder.filter (· ≠ slot) }
      dsimp only
      split
      · exact told.raise _
      · exact told

theorem Inner.placementStale (h : Inner u s) (slot i : Nat) : Inner u (s.placementStale slot i) := by
  unfold State.placementStale
  repeat' split
  · exact h
  · exact (h.onPlan slot _).onPage _
  · exact h.endPlan ..

theorem Inner.tellPage (h : Inner u s) (k : Key) (t : Setting) (o : FitOutcome) :
    Inner u (s.tellPage k t o) := by
  unfold State.tellPage
  repeat' split
  all_goals first
    | exact h
    | exact h.onPage _
    | exact h.placementStale ..

theorem Inner.endRun (h : Inner u s) (o : FitOutcome) : Inner u (s.endRun o) := by
  unfold State.endRun
  split
  · exact h.onFit _
  · next q _ _ =>
      have told := Inner.ite (c := q.host = true)
        (fun _ => ((h.onFit FitEngine.leave).onFit
          fun e => { e with last := some { key := q.key, setting := q.setting, outcome := o } }).raise
          .fitDone) fun _ => h.onFit FitEngine.leave
      exact Inner.ite (fun _ => told.tellPage ..) fun _ => told

theorem Inner.stopRun (h : Inner u s) (o : FitOutcome) : Inner u (s.stopRun o) := (h.abandon _).endRun o

theorem Inner.beginRun (h : Inner u s) (q : FitRequest) : Inner u (s.beginRun q) := by
  unfold State.beginRun
  dsimp only
  repeat' split
  · exact h.endRun _
  · exact h.onFit _
  · exact h.onFit _
  · exact (h.onFit _).requestChain ..

theorem Inner.enterSending (h : Inner u s) (slot : Nat) : Inner u (s.enterSending slot) :=
  ((h.onPlan slot _).onPage _).preparePage

theorem Inner.fitCheck (h : Inner u s) (slot : Nat) (p : Plan) : Inner u (s.fitCheck slot p) := by
  unfold State.fitCheck
  dsimp only
  repeat' split
  · exact h.foldl (fun _ i ht => Inner.ite (fun _ => ht.placementStale slot i) fun _ => ht) _
  · exact h.endPlan ..
  · exact (h.onPlan slot _).endPlan ..
  · exact (h.onPlan slot _).enterSending slot

theorem Inner.fitStep (h : Inner u s) {t : State} (stepped : s.fitStep = some t) : Inner u t := by
  unfold State.fitStep at stepped
  repeat' split at stepped
  all_goals cases stepped
  · exact h.beginRun _
  · exact (h.onPlan _ _).onPage _
  · exact h.onPage _
  · exact (h.onFit _).onPage _
  · exact h.fitCheck ..

theorem Inner.settleFits (h : Inner u s) : Inner u s.settleFits := by
  suffices ∀ fuel t, Inner u t → Inner u (State.settleFitsFor fuel t) from this 512 s h
  intro fuel
  induction fuel with
  | zero => exact fun _ ht => ht
  | succ fuel ih =>
      intro t ht
      unfold State.settleFitsFor
      split
      · exact ht
      · next stepped => exact ih _ (ht.fitStep stepped)

theorem Inner.fitInEdit (h : Inner u s) (k : Key) : Inner u (s.fitInEdit k) :=
  (Inner.ite (fun _ => (h.onFit _).stopRun _) fun _ => h.onFit _).settleFits

theorem Inner.fitTextChanged (h : Inner u s) (k : Key) : Inner u (s.fitTextChanged k) :=
  (Inner.ite (fun _ => (h.onFit _).onFit _) fun _ =>
    Inner.ite (fun _ => (h.onFit _).stopRun _) fun _ => h.onFit _).settleFits

theorem Inner.fitStoryFreed (h : Inner u s) (k : Key) : Inner u (s.fitStoryFreed k) :=
  (Inner.ite (fun _ => (h.onFit _).stopRun _) fun _ => h.onFit _).settleFits

theorem Inner.notifyInEdit (h : Inner u s) (k : Key) : Inner u (s.notifyInEdit k) :=
  (h.windowsInEdit k).fitInEdit k

theorem Inner.notifyTextChanged (h : Inner u s) (k : Key) : Inner u (s.notifyTextChanged k) :=
  (h.windowsTextChanged k _).fitTextChanged k

theorem Inner.freeStory (h : Inner u s) (k : Key) : Inner u (s.freeStory k) :=
  ((h.freeRecord k id).windowsStoryFreed k).fitStoryFreed k

/-! ### Editions (R137, R142 to R149, R156) -/

theorem Inner.onEditions (h : Inner u s) (f : List EditionState → List EditionState)
    (length : ∀ l, (f l).length = l.length) : Inner u (s.changeEditions f) :=
  have changed := h.onClock (fun c => { c with editions := f c.editions }) rfl rfl (length _) rfl
  Inner.ite (fun _ => changed) fun _ => changed.tellCurrent _

theorem Inner.closePlans (h : Inner u s) (edition : Nat) : Inner u (s.closePlans edition) :=
  h.foldl (fun _ _ ht => Inner.ite (fun _ => ht.endPlan ..) fun _ => ht) _

theorem Inner.rollForward (h : Inner u s) : Inner u s.rollForward := by
  unfold State.rollForward
  split
  · exact h
  · exact h.onStore _ id id

theorem Inner.closeEnds (h : Inner u s) : Inner u s.closeEnds := h.rollForward.settleFits

theorem Inner.transition {x : State × Nat} (h : Inner u x.1) (edition : Nat) (target : EditionState) :
    Inner u (State.transition edition target x).1 := by
  unfold State.transition
  split
  · exact h
  · split
    · have moved := ((h.onEditions (fun l => l.set (edition - 1) target) fun _ => List.length_set).raise
        .editionStep).dirtyStatus
      exact Inner.ite (fun _ => (moved.closePlans edition).closeEnds) fun _ => moved
    · exact h

theorem Inner.rollover {x : State × Nat} (h : Inner u x.1) : Inner u (State.rollover x).1 :=
  ((h.onEditions _ fun _ => List.length_map _).raise .editionStep).dirtyStatus

theorem Inner.editionInstant {x : State × Nat} (h : Inner u x.1) (p edition : Nat) (e : EditionSpec) :
    Inner u (State.editionInstant p edition e x).1 := by
  unfold State.editionInstant
  dsimp only
  repeat' split
  · exact ((h.transition ..).transition ..).transition ..
  · exact (h.transition ..).transition ..
  · exact (h.transition ..).transition ..
  · exact h.transition ..
  · exact (h.transition ..).transition ..
  · exact h.transition ..
  · exact h.transition ..
  · exact h

theorem Inner.instant {x : State × Nat} (h : Inner u x.1) (t : Nat) : Inner u (State.instant t x).1 := by
  have each (l : List (EditionSpec × Nat)) (p : Nat) : ∀ y : State × Nat, Inner u y.1 →
      Inner u (l.foldl (fun x e => State.editionInstant p (e.2 + 1) e.1 x) y).1 := by
    induction l with
    | nil => exact fun _ hy => hy
    | cons e l ih => exact fun y hy => ih _ (hy.editionInstant ..)
  refine each _ _ _ ?_
  split
  · exact h.rollover
  · exact h

theorem Inner.sendMark (h : Inner u s) (t : Nat) : Inner u (s.sendMark t) :=
  Inner.ite (fun _ => (h.withdraw .clock).onClock _ rfl rfl rfl rfl) fun _ =>
    (h.withdraw .clock).send _ _

theorem Inner.minuteChange (h : Inner u s) : Inner u s.minuteChange :=
  Inner.ite (fun _ => h.dirtyStatus.sendMark _) fun _ => h.dirtyStatus

theorem Inner.commitEdition (h : Inner u s) (k : Key) : Inner u (s.commitEdition k) := by
  unfold State.commitEdition
  repeat' split
  · exact h.change k _
  · exact h
  · exact h

/-! ### Passes (R66 to R78) -/

theorem Inner.beginPass (h : Inner u s) (k : Key) : Inner u (s.beginPass k) :=
  (h.change k _).windowsEditBarred k

theorem Inner.returnStory (h : Inner u s) (k : Key) : Inner u (s.returnStory k) := h.change k _

theorem Inner.carbonStory (h : Inner u s) (k : Key) : Inner u (s.carbonStory k) := h.change k _

theorem Inner.doubtStory (h : Inner u s) (k : Key) (keep : Bool) : Inner u (s.doubtStory k keep) :=
  h.change k _

theorem Inner.endPass (h : Inner u s) (n : Nat) (o : PassOutcome) : Inner u (s.endPass n o) :=
  have ended := (((h.onOutbound n _).onPass _ rfl rfl).abandon (Purpose.ofOutbound n)).withdraw
    (.passEntry n)
  Inner.ite (fun _ => ended) fun _ => ended.raise _

theorem Inner.endReturn (h : Inner u s) (n : Nat) (p : Pass) (o : PassOutcome) :
    Inner u (s.endReturn n p o) := (h.endPass n o).returnStory _

theorem Inner.passFrame (h : Inner u s) (n : Nat) (f : OutFrame) : Inner u (s.passFrame n f) :=
  Inner.ite (fun _ => (h.send _ f).onOutbound n _) fun _ => h.onOutbound n _

theorem Inner.buildOffer (h : Inner u s) (n : Nat) : Inner u (s.buildOffer n) := by
  unfold State.buildOffer
  repeat' split
  · exact h
  · exact h
  · exact h.passFrame ..

theorem Inner.prepareOffer (h : Inner u s) (n : Nat) (k : Key) : Inner u (s.prepareOffer n k) :=
  Inner.ite (fun _ => h.buildOffer n) fun _ => h.onOutbound n _

theorem Inner.buildSlip (h : Inner u s) (n : Nat) (codes : List Byte) : Inner u (s.buildSlip n codes) := by
  unfold State.buildSlip
  split
  · exact h
  · exact h.passFrame ..

theorem Inner.prepareSlip (h : Inner u s) (n : Nat) : Inner u (s.prepareSlip n) := by
  unfold State.prepareSlip
  repeat' split
  · exact h
  · exact h.buildSlip ..
  · exact h.onOutbound n _

theorem Inner.slipWriterRequest (h : Inner u s) : Inner u s.slipWriterRequest := by
  unfold State.slipWriterRequest
  repeat' split
  · exact h
  · exact h
  · exact h.request _

theorem Inner.settleSlips (h : Inner u s) : Inner u s.settleSlips := h.slipWriterRequest.slipWriterRequest

theorem Inner.settle (h : Inner u s) : Inner u s.settle := h.settleFits.settleSlips.settleRows

/-! ### Inbound entries, offers and answers (R79 to R88) -/

theorem Inner.dropSlipWrite (h : Inner u s) (entry pass : Nat) : Inner u (s.dropSlipWrite entry pass) := by
  unfold State.dropSlipWrite
  split
  · next x rest slots =>
      dsimp only
      refine Inner.ite (fun _ => Inner.ite (fun _ => h.abandon _) fun _ => ?_) fun _ => h
      exact (h.abandon _).onTraffic _ (List.Sublist.refl _) (by simp [slots]) id
  · exact h

theorem Inner.freeInbound (h : Inner u s) (n : Nat) : Inner u (s.freeInbound n) := by
  unfold State.freeInbound
  split
  · exact h
  · exact (((h.release n).withdraw _).dropSlipWrite ..).onPass _ rfl List.length_set

theorem Inner.loseInbound (h : Inner u s) (n : Nat) : Inner u (s.loseInbound n) := (h.freeInbound n).raise _

theorem Inner.decline (h : Inner u s) (station : Nat) (k : Key) (r : DeclineReason) :
    Inner u (s.decline station k r) := h.send _ _

theorem Inner.sendWithdraw (h : Inner u s) (dest : Address) (k : Key) : Inner u (s.sendWithdraw dest k) :=
  h.send _ _

/-- A reservation moves blocks from the pool and changes nothing else of the store that the invariants read. -/
theorem Store.reserve_kept {n k : Nat} {st st' : Store} (h : st.reserve n k = some st') :
    st'.text = st.text ∧ st'.substitutions = st.substitutions := by
  unfold Store.reserve at h
  split at h
  · cases h; exact ⟨rfl, rfl⟩
  · cases h

theorem Inner.takeOffer (h : Inner u s) (o : Offer) (source : Nat) (byHost : Bool) :
    Inner u (s.takeOffer o source byHost).1 := by
  unfold State.takeOffer
  repeat' split
  · exact h
  · exact h
  · next store reserved room =>
      obtain ⟨text, substitutions⟩ := Store.reserve_kept reserved
      exact ((h.onStore (fun _ => store) (by rw [text]; exact id)
        (by rw [substitutions]; exact id)).onPass _ rfl List.length_set).send _ _
  · exact h

theorem Inner.removeOffer (h : Inner u s) (k : Key) : Inner u (s.removeOffer k) :=
  (h.onPass _ rfl rfl).tellOffers

theorem Inner.declineOffer (h : Inner u s) (q : QueuedOffer) (r : DeclineReason) :
    Inner u (s.declineOffer q r) := (h.decline ..).removeOffer _

theorem Inner.testOffer (h : Inner u s) (o : Offer) (source : Nat) : Inner u (s.testOffer o source) := by
  unfold State.testOffer
  dsimp only
  repeat' split
  all_goals first
    | exact h
    | exact h.decline ..
    | exact h.takeOffer ..
    | exact ((h.onPass _ rfl rfl).raise _).tellOffers

theorem Inner.receiveTake (h : Inner u s) (k : Key) (source : Nat) : Inner u (s.receiveTake k source) := by
  unfold State.receiveTake
  repeat' split
  · exact ((h.onOutbound _ _).withdraw _).prepareSlip _
  · exact h
  · exact h.sendWithdraw ..
  · exact h.sendWithdraw ..

theorem Inner.receiveDecline (h : Inner u s) (k : Key) (source : Nat) (r : DeclineReason) :
    Inner u (s.receiveDecline k source r) := by
  unfold State.receiveDecline
  repeat' split
  all_goals first
    | exact h
    | exact h.onOutbound _ _
    | exact (h.onOutbound _ _).endReturn ..

theorem Inner.receiveWithdraw (h : Inner u s) (k : Key) (source : Nat) :
    Inner u (s.receiveWithdraw k source) := by
  unfold State.receiveWithdraw
  extract_lets t
  have freed : Inner u t := by
    unfold t
    repeat' split
    all_goals first
      | exact h
      | exact (h.freeInbound _).raise _
  repeat' split
  · exact (freed.removeOffer k).raise _
  · exact freed
  · exact freed

theorem Inner.slipTaken (h : Inner u s) (n : Nat) (confirmed : Bool) (f : Inbound → Inbound) :
    Inner u (s.slipTaken n confirmed f) :=
  Inner.ite (fun _ => h.onInbound n _) fun _ => (h.onInbound n _).withdraw _

theorem Inner.acceptSlip (h : Inner u s) (k : Key) (source i : Nat) (codes : List Byte) (free : Bool) :
    Inner u (s.acceptSlip k source i codes free).1 := by
  unfold State.acceptSlip
  dsimp only
  repeat' split
  all_goals try dsimp only
  all_goals first
    | exact h
    | exact h.slipTaken ..
    | exact h.loseInbound _

/-! ### Commit (R8, R90) -/

theorem Inner.commit (h : Inner u s) (n : Nat) : Inner u (s.commit n) := by
  unfold State.commit
  split
  · exact h
  · next b _ =>
      have stored := ((h.freeRecord b.offer.key List.reverse).onStore
        (fun st => Store.giveBack ((s.store.reservation n).drop (blocksFor b.offer.length))
          { st with
              stories := st.stories ++ [b.record ((s.store.reservation n).take (blocksFor b.offer.length))],
              reservations := st.reservations.set n none,
              substitutions := add16 st.substitutions (substitute printable b.offer.slug).2 })
        id fun _ => add16_le _ _).onPass
          (fun e => { e with inbound := e.inbound.set n none }) rfl List.length_set
      have told := Inner.ite (c := (s.story b.offer.key).isSome = true)
        (fun _ => stored.notifyTextChanged b.offer.key) fun _ => stored
      exact (told.raise .inboundDone).commitEdition b.offer.key

theorem Inner.commitIfFinal (h : Inner u s) (r : InboundRef) (i : Nat) : Inner u (s.commitIfFinal r i) := by
  unfold State.commitIfFinal
  repeat' split
  · exact h.commit _
  · exact h
  · exact h

/-! ### What the out queue tells each owner (R54, R55) -/

theorem Inner.offerTold (h : Inner u s) (n : Nat) (p : Pass) (r : Report) : Inner u (s.offerTold n p r) := by
  unfold State.offerTold
  dsimp only
  split
  · exact h.onOutbound n _
  · exact (h.onOutbound n _).withdraw _
  · exact h.onOutbound n _
  · exact h.endReturn ..
  · exact h
  · exact h

theorem Inner.slipTold (h : Inner u s) (n : Nat) (p : Pass) (r : Report) : Inner u (s.slipTold n p r) := by
  unfold State.slipTold
  dsimp only
  repeat' split
  · exact (h.endPass ..).carbonStory _
  · exact (h.endPass ..).freeStory _
  · exact (h.onOutbound n _).prepareSlip n
  · exact (h.endPass ..).doubtStory ..
  · exact h.endReturn ..
  · exact h
  · exact h

theorem Inner.sendReady (h : Inner u s) (n : Nat) : Inner u (s.sendReady n) := by
  unfold State.sendReady
  repeat' split
  · exact h.passFrame ..
  · exact h
  · exact h

theorem Inner.passTold (h : Inner u s) (n : Nat) (kind : FrameKind) (r : Report) :
    Inner u (s.passTold n kind r) := by
  unfold State.passTold
  extract_lets t
  have told : Inner u t := by
    unfold t
    repeat' split
    · exact h
    · exact h.offerTold ..
    · exact h.slipTold ..
    · exact h
  exact Inner.ite (fun _ => told.sendReady n) fun _ => told

theorem Inner.takeTold (h : Inner u s) (n : Nat) (r : Report) : Inner u (s.takeTold n r) := by
  unfold State.takeTold
  repeat' split
  · exact h.onInbound n _
  · exact h.loseInbound n
  · exact h
  · exact h
  · exact h

theorem Inner.pageDelivered (h : Inner u s) (slot : Nat) (p : Plan) (kind : FrameKind) :
    Inner u (s.pageDelivered slot p kind) := by
  unfold State.pageDelivered
  dsimp only
  repeat' split
  all_goals first
    | exact h
    | exact (h.onPage _).preparePage
    | exact (h.onPlan slot _).endPlan ..

theorem Inner.planTold (h : Inner u s) (kind : FrameKind) (r : Report) : Inner u (s.planTold kind r) := by
  unfold State.planTold
  repeat' split
  all_goals first
    | exact h
    | exact h.pageDelivered ..
    | exact h.endPlan ..

theorem Inner.sendHead (h : Inner u s) : Inner u s.sendHead := by
  unfold State.sendHead
  split
  · exact (h.sendPageFrame _).onPage _
  · exact h

theorem Inner.pageTold (h : Inner u s) (kind : FrameKind) (r : Report) : Inner u (s.pageTold kind r) := by
  unfold State.pageTold
  repeat' split
  · exact (h.send _ _).onPage _
  · exact h
  · exact (h.onPage _).sendHead
  · exact h
  · exact (h.planTold ..).settleFits

theorem Inner.flashTold (h : Inner u s) (r : Report) : Inner u (s.flashTold r) := by
  unfold State.flashTold
  split
  · exact h.onScreen _ rfl
  · exact h.onScreen _ rfl
  · exact h
  · exact h

theorem Inner.clockTold (h : Inner u s) (r : Report) : Inner u (s.clockTold r) := by
  unfold State.clockTold
  split
  · exact (h.onClock _ rfl rfl rfl rfl).send _ _
  · exact h

theorem Inner.tellOwner (h : Inner u s) (e : OutEntry) (r : Report) : Inner u (s.tellOwner e r) := by
  unfold State.tellOwner
  split
  · exact h.passTold ..
  · exact h.pageTold ..
  · exact h.takeTold ..
  · exact h
  · exact h.flashTold r
  · exact h.clockTold r

end FollowUps

end Sys2Proof.Machine


namespace Sys2Proof.Machine

/-! ## Steps -/

/-- From `s` to `t` the invariants are kept that every single change of a step keeps. -/
structure Steady (s t : State) : Prop where
  pending : t.pending = s.pending
  signals : s.signalsAgree → t.signalsAgree
  serves : s.portServes → t.portServes
  owned : s.portOwned → t.portOwned
  memory : s.memoryWf → t.memoryWf
  shares : s.sharesKept → t.sharesKept
  slots : s.slotsLegal → t.slotsLegal
  counts : s.countsSaturate → t.countsSaturate
  tables : s.tablesWhole → t.tablesWhole

/-- The desk link: READY, the command in progress, its response, its operation. -/
def Desk.link (d : Desk) : Bool × Option Byte × Option Response × LinkOp :=
  (d.ready, d.command, d.response, d.op)

/-- From `s` to `t` the invariants are kept, but for the desk link's; where `L` holds the desk link is as it
was. -/
structure Keeps (L : Prop) (s t : State) : Prop extends Steady s t where
  link : L → t.desk.link = s.desk.link
  line : s.lineLegal → t.lineLegal
  attempts : s.attemptsLeft → t.attemptsLeft
  clock : s.clockLegal → t.clockLegal

theorem Steady.refl (s : State) : Steady s s := ⟨rfl, id, id, id, id, id, id, id, id⟩

theorem Keeps.refl {L : Prop} (s : State) : Keeps L s s := ⟨Steady.refl s, fun _ => rfl, id, id, id⟩

theorem Steady.trans {s t u : State} (h : Steady s t) (k : Steady t u) : Steady s u where
  pending := k.pending.trans h.pending
  signals := k.signals ∘ h.signals
  serves := k.serves ∘ h.serves
  owned := k.owned ∘ h.owned
  memory := k.memory ∘ h.memory
  shares := k.shares ∘ h.shares
  slots := k.slots ∘ h.slots
  counts := k.counts ∘ h.counts
  tables := k.tables ∘ h.tables

theorem Keeps.trans {L : Prop} {s t u : State} (h : Keeps L s t) (k : Keeps L t u) : Keeps L s u where
  toSteady := h.toSteady.trans k.toSteady
  link := fun x => (k.link x).trans (h.link x)
  line := k.line ∘ h.line
  attempts := k.attempts ∘ h.attempts
  clock := k.clock ∘ h.clock

theorem Inner.steady {s t : State} (h : Inner s t) : Steady s t where
  pending := h.pending
  signals := h.signals
  serves := h.serves
  owned := h.owned
  memory := h.memory
  shares := h.shares
  slots := h.slots.trans
  counts := fun x => by
    rw [State.countsSaturate_iff] at x ⊢
    obtain ⟨lines, substitutions, ignored, missed, lanes⟩ := x
    exact ⟨h.lineCounts lines, h.substitutions substitutions, h.ignored ▸ ignored,
      h.missed ▸ missed, h.lanes lanes⟩
  tables := h.tables

theorem Inner.link {s t : State} (h : Inner s t) : t.desk.link = s.desk.link := by
  simp only [Desk.link, h.ready, h.command, h.response, h.op]

theorem Inner.keeps {L : Prop} {s t : State} (h : Inner s t) : Keeps L s t where
  toSteady := h.steady
  link := fun _ => h.link
  line := fun ⟨start, count, sending⟩ => by
    refine ⟨?_, h.onLineCount.trans count, fun onLine => ?_⟩
    · rw [h.state, h.lineState]; exact start
    · rw [h.lineState]
      rw [Traffic.sending_iff] at onLine sending
      exact sending (onLine.trans_le h.onLineCount)
  attempts := fun ⟨stands, left⟩ => by
    refine ⟨?_, ?_⟩
    · unfold State.recordStands; rw [h.state, h.record]; exact stands
    · unfold State.retryLimit; rw [h.record]; exact h.attempts _ left
  clock := fun ⟨day, unset, dayStart, editions⟩ => by
    unfold State.clockLegal State.dayStart State.editionTable
    rw [h.time, h.isSet, h.editions, h.record]
    exact ⟨day, unset, dayStart, editions⟩

section Rows

variable {L : Prop} {u s : State}

theorem Steady.inner (h : Steady u s) {t : State} (k : Inner s t) : Steady u t := h.trans k.steady

theorem Keeps.inner (h : Keeps L u s) {t : State} (k : Inner s t) : Keeps L u t := h.trans k.keeps

theorem Keeps.ite {c : Prop} [Decidable c] {a b : State} (yes : c → Keeps L u a) (no : ¬c → Keeps L u b) :
    Keeps L u (if c then a else b) := by
  split
  · next hc => exact yes hc
  · next hc => exact no hc

theorem Keeps.foldl {α : Type} {f : State → α → State} (h : Keeps L u s)
    (each : ∀ t a, Keeps L u t → Keeps L u (f t a)) (l : List α) : Keeps L u (l.foldl f s) := by
  induction l generalizing s with
  | nil => exact h
  | cons a l ih => exact ih (each s a h)

/-! ### The desk link (R180 to R184) -/

/-- What the invariants read of the desk unit, the desk link left out. -/
def Desk.office (d : Desk) :
    BitVec 18 × Option StartRecord × DeskState × LampInputs × Bool × LampPattern × Nat :=
  (d.notices, d.record, d.state, d.inputs, d.attention, d.lamp, d.missed)

/-- A change of the desk link, or of an output the invariants do not read. -/
theorem Keeps.onLink (h : Keeps False u s) (f : Desk → Desk) (same : (f s.desk).office = s.desk.office) :
    Keeps False u (s.onDesk f) := by
  refine h.trans ?_
  obtain ⟨notices, record, state, inputs, attention, lamp, missed⟩ :
      (f s.desk).notices = s.desk.notices ∧ (f s.desk).record = s.desk.record ∧
      (f s.desk).state = s.desk.state ∧ (f s.desk).inputs = s.desk.inputs ∧
      (f s.desk).attention = s.desk.attention ∧ (f s.desk).lamp = s.desk.lamp ∧
      (f s.desk).missed = s.desk.missed := by
    simpa only [Desk.office, Prod.mk.injEq] using same
  have level := Desk.attentionLevel_congr notices record
  have pattern := Desk.lampPattern_congr notices state inputs
  exact { (Keeps.refl s : Keeps False s s) with
    link := False.elim
    signals := fun ⟨a, b⟩ => ⟨attention.trans (a.trans level.symm), lamp.trans (b.trans pattern.symm)⟩
    counts := fun x => by
      rw [State.countsSaturate_iff] at x ⊢
      rw [State.onDesk_desk, missed]; exact x
    line := fun x => by
      unfold State.lineLegal; rw [State.onDesk_desk, state]; exact x
    attempts := fun x => by
      unfold State.attemptsLeft State.recordStands State.retryLimit
      rw [State.onDesk_desk, state, record]; exact x
    clock := fun x => by
      unfold State.clockLegal State.dayStart State.editionTable
      rw [State.onDesk_desk, record]; exact x }

theorem Keeps.takeTransfer (h : Keeps False u s) (name : Byte) : Keeps False u (s.takeTransfer name) :=
  h.onLink _ rfl

theorem Keeps.respond (h : Keeps False u s) (r : Result) (x : Option (FieldName × Nat)) (d : ResponseData) :
    Keeps False u (s.respond r x d) := h.onLink _ rfl

theorem Keeps.done (h : Keeps False u s) (d : ResponseData) : Keeps False u (s.done d) := h.respond ..

theorem Keeps.refuse (h : Keeps False u s) (r : Result) : Keeps False u (s.refuse r) := h.respond ..

theorem Keeps.useFree (h : Keeps L u s) : Keeps L u s.useFree :=
  h.trans { (Keeps.refl s : Keeps L s s) with }

/-- A command keeps what its owner keeps; the owner finds a desk state that takes it. -/
theorem Keeps.command {c : CommandName} {owner : State → State}
    (owned : ∀ t, t = s.takeTransfer (nameByte c) → taken c s.desk.state = true →
      Keeps False s t → Keeps False s (owner t)) :
    Keeps False s (s.command c owner) := by
  have begun := (Keeps.refl s).takeTransfer (nameByte c)
  unfold State.command
  dsimp only
  split
  · split
    · next accepted => exact owned _ rfl accepted begun
    · exact begun.refuse _
  · exact (Inner.refl s).raise _ |>.keeps

theorem Keeps.unless (h : Keeps False u s) (refusal : Option Result) {go : State → State}
    (carried : Keeps False u (go s)) : Keeps False u (s.unless refusal go) := by
  unfold State.unless
  split
  · exact h.refuse _
  · exact carried

/-! ### The desk unit (R185 to R195) -/

/-- A refreshed change of the desk unit that stays outside START and keeps the start record. -/
theorem Keeps.refresh (h : Keeps L u s) (f : Desk → Desk)
    (state : (f s.desk).state = s.desk.state ∨ s.desk.state ≠ .start ∧ (f s.desk).state ≠ .start)
    (record : (f s.desk).record = s.desk.record) (link : (f s.desk).link = s.desk.link)
    (missed : s.desk.missed ≤ 255 → (f s.desk).missed ≤ 255) :
    Keeps L u (s.onDesk fun d => Desk.refresh (f d)) := by
  refine h.trans ?_
  have start : (f s.desk).state = .start ↔ s.desk.state = .start := by
    rcases state with same | ⟨before, after⟩
    · rw [same]
    · exact ⟨fun x => absurd x after, fun x => absurd x before⟩
  exact { (Keeps.refl s : Keeps L s s) with
    link := fun _ => by simpa [Desk.link] using link
    signals := fun _ => Desk.refresh_agrees _
    counts := fun x => by
      rw [State.countsSaturate_iff] at x ⊢
      obtain ⟨lines, substitutions, ignored, missed', lanes⟩ := x
      exact ⟨lines, substitutions, ignored, by simpa using missed missed', lanes⟩
    line := fun x => by
      unfold State.lineLegal; rw [State.onDesk_desk, Desk.refresh_state, start]; exact x
    attempts := fun x => by
      unfold State.attemptsLeft State.recordStands State.retryLimit
      rw [State.onDesk_desk, Desk.refresh_state, Desk.refresh_record, start, record]; exact x
    clock := fun x => by
      unfold State.clockLegal State.dayStart State.editionTable
      rw [State.onDesk_desk, Desk.refresh_record, record]; exact x }

theorem Keeps.enterDesk (h : Keeps L u s) (st : DeskState) (before : s.desk.state ≠ .start)
    (after : st ≠ .start) : Keeps L u (s.enterDesk st) :=
  (h.refresh (fun d => { d with state := st }) (.inr ⟨before, after⟩) rfl rfl id).inner
    ((Inner.refl _).tellStatus _)

/-- The tend timer and the missed count. -/
theorem Keeps.onTend (h : Keeps L u s) (timer : Option Nat) (missed : Nat) (le : missed ≤ 255) :
    Keeps L u (s.onDesk fun d => { d with tendTimer := timer, missed := missed }) :=
  h.trans { (Keeps.refl s : Keeps L s s) with
    counts := fun x => by
      rw [State.countsSaturate_iff] at x ⊢
      obtain ⟨lines, substitutions, ignored, _, lanes⟩ := x
      exact ⟨lines, substitutions, ignored, le, lanes⟩ }

/-! ### The line section (R40 to R48) -/

/-- The line section's state is set: it is DORMANT still in START, and keeps ACTIVE under a frame. -/
theorem Keeps.setLine (h : Keeps L u s) (f : Line → Line)
    (legal : s.lineLegal → (s.onLine f).lineLegal) : Keeps L u (s.onLine f) :=
  h.trans { (Keeps.refl s : Keeps L s s) with line := legal }

/-- The line section enters a state and tells it. -/
theorem Keeps.enterLine (h : Keeps L u s) (st : LineState)
    (legal : s.lineLegal → (s.onLine fun l => { l with state := st }).lineLegal) :
    Keeps L u (s.enterLine st) :=
  Keeps.ite (fun _ => h.setLine _ legal) fun _ => (h.setLine _ legal).inner ((Inner.refl _).tellLine _)

/-- Outside START, with no frame of the station on the line, the line section may enter any state. -/
theorem State.lineLegal_enter {st : LineState} (started : s.desk.state ≠ .start)
    (quiet : s.traffic.sending = true → st = .active) :
    s.lineLegal → (s.onLine fun l => { l with state := st }).lineLegal :=
  fun ⟨_, count, _⟩ => ⟨fun x => absurd x started, count, quiet⟩

/-- In a legal line section state other than DORMANT the desk is not in START. -/
theorem State.lineLegal.started (h : s.lineLegal) (st : s.line.state ≠ .dormant) : s.desk.state ≠ .start :=
  fun x => st (h.1 x)

/-- In a legal line section state other than ACTIVE no frame of the station is on the line. -/
theorem State.lineLegal.notSending (h : s.lineLegal) (st : s.line.state ≠ .active) :
    s.traffic.sending = false := by
  cases hs : s.traffic.sending with
  | false => rfl
  | true => exact absurd (h.2.2 hs) st

theorem Keeps.enterJoining (h : Keeps L u s)
    (legal : s.lineLegal → s.desk.state ≠ .start ∧ s.traffic.sending = false) :
    Keeps L u s.enterJoining :=
  (h.inner ((Inner.refl s).onLine
      (fun l => { l with quiet := 0, join := 0, recessive := 0 }) rfl)).enterLine _ fun x =>
    State.lineLegal_enter (legal x).1 (fun y => absurd y (by simp [(legal x).2])) x

/-! ### The out queue during an attempt (R51 to R55) -/

/-- The shares are kept where the owners in the queue are the same. -/
theorem Traffic.sharesKept_of_owners {t t' : Traffic}
    (owners : t'.queue.map (·.owner) = t.queue.map (·.owner)) (h : t.sharesKept) : t'.sharesKept := by
  have held (p : Owner → Bool) : (t'.queue.filter fun e => p e.owner).length =
      (t.queue.filter fun e => p e.owner).length := by
    have := congrArg (List.countP p) owners
    rwa [List.countP_map, List.countP_map, List.countP_eq_length_filter,
      List.countP_eq_length_filter] at this
  obtain ⟨shared, page, pass⟩ := h
  exact ⟨(held Owner.shared).trans_le shared, (held fun o => decide (o = .page)).trans_le page,
    fun n => (held fun o => decide (o = .passEntry n)).trans_le (pass n)⟩

/-- One entry changed that goes on waiting, its share the same and its attempts within the limit. -/
theorem Keeps.onEntry (h : Keeps L u s) {i : Nat} {e : OutEntry} {f : OutEntry → OutEntry}
    (here : s.traffic.queue[i]? = some e) (owner : (f e).owner = e.owner) (onLine : (f e).onLine = false)
    (attempts : (f e).attempts = e.attempts ∨ (f e).attempts ≤ s.retryLimit) :
    Keeps L u (s.onEntry i f) := by
  refine h.trans ?_
  have lt : i < s.traffic.queue.length := (List.getElem?_eq_some_iff.mp here).1
  have at_i : s.traffic.queue[i] = e := (List.getElem?_eq_some_iff.mp here).2
  have queue : (s.onEntry i f).traffic.queue = s.traffic.queue.set i (f e) := by
    show s.traffic.queue.modify i f = _
    rw [List.modify_eq_set_getElem?, here]; rfl
  have owners : (s.onEntry i f).traffic.queue.map (·.owner) = s.traffic.queue.map (·.owner) := by
    rw [queue, List.map_set, owner, ← at_i]
    conv_rhs => rw [← List.set_getElem_self (as := s.traffic.queue.map (·.owner)) (i := i) (by simpa)]
    simp
  have count : (s.onEntry i f).traffic.onLineCount ≤ s.traffic.onLineCount := by
    simp only [Traffic.onLineCount, ← List.countP_eq_length_filter, queue,
      List.countP_set lt, onLine]
    simp
  exact { (Keeps.refl s : Keeps L s s) with
    shares := Traffic.sharesKept_of_owners owners
    line := fun ⟨start, one, sending⟩ => by
      refine ⟨start, count.trans one, fun x => sending ?_⟩
      rw [Traffic.sending_iff] at x ⊢
      exact x.trans_le count
    attempts := fun ⟨stands, left⟩ => by
      refine ⟨stands, fun a ha => ?_⟩
      rw [queue] at ha
      rcases List.mem_or_eq_of_mem_set ha with ha | rfl
      · exact left a ha
      · rcases attempts with same | le
        · rw [same]; exact left e (List.mem_of_getElem? here)
        · exact le }

/-- An entry goes ON LINE in ACTIVE while no frame of the station is on the line. -/
theorem Keeps.begin (h : Keeps L u s) (i : Nat) (active : s.line.state = .active)
    (quiet : s.traffic.sending = false) : Keeps L u (s.onTraffic (Traffic.begin i)) := by
  refine h.trans ?_
  have none_yet : s.traffic.onLineCount = 0 := by
    by_contra more
    have := (Traffic.sending_iff s.traffic).mpr (Nat.pos_of_ne_zero more)
    rw [quiet] at this; cases this
  have shares : ((s.traffic.begin i).queue.map fun e => (e.owner, e.attempts)) =
      s.traffic.queue.map fun e => (e.owner, e.attempts) := map_modify_eq _ (fun e : OutEntry => { e with onLine := true }) (fun _ => rfl) _ _
  have owners : (s.traffic.begin i).queue.map (·.owner) = s.traffic.queue.map (·.owner) := by
    simpa [Function.comp_def] using congrArg (List.map Prod.fst) shares
  exact { (Keeps.refl s : Keeps L s s) with
    shares := Traffic.sharesKept_of_owners owners
    line := fun ⟨start, _, _⟩ => by
      refine ⟨start, ?_, fun _ => active⟩
      show (s.traffic.begin i).onLineCount ≤ 1
      have : ∀ (l : List OutEntry) (i : Nat), (l.filter fun e => e.onLine).length = 0 →
          ((l.modify i fun e => { e with onLine := true }).filter fun e => e.onLine).length ≤ 1 := by
        intro l
        induction l with
        | nil => intro i _; simp
        | cons e l ih =>
            intro i none_on
            have off : e.onLine = false ∧ (l.filter fun e => e.onLine) = [] := by
              cases he : e.onLine <;> simp_all
            cases i with
            | zero => simp [off.2]
            | succ i => simpa [off.1] using ih i (by simp [off.2])
      exact this _ _ none_yet
    attempts := fun ⟨stands, left⟩ => by
      refine ⟨stands, fun a ha => ?_⟩
      have : (a.owner, a.attempts) ∈ s.traffic.queue.map fun e => (e.owner, e.attempts) := by
        rw [← shares]; exact List.mem_map_of_mem ha
      obtain ⟨b, hb, same⟩ := List.mem_map.mp this
      have : a.attempts = b.attempts := congrArg Prod.snd same.symm
      exact this ▸ left b hb }

/-- A frame placed in a free receive slot. -/
theorem Keeps.placeFrame (h : Keeps L u s) (k : FrameKind) (f : Frame) (r : Option InboundRef)
    (free : s.traffic.slotFree = true) : Keeps L u (s.placeFrame k f r) :=
  h.trans { (Keeps.refl s : Keeps L s s) with
    slots := fun _ => by
      have : s.traffic.slots.length < 4 := by simpa [Traffic.slotFree] using free
      simp only [State.slotsLegal, State.placeFrame, State.onTraffic_traffic, List.length_append,
        List.length_singleton]
      omega }

/-! ### The clock (R141 to R155) -/

theorem Keeps.onClock (h : Keeps L u s) (f : Clock → Clock)
    (ignored : s.clock.ignored ≤ 65535 → (f s.clock).ignored ≤ 65535)
    (legal : s.clockLegal → (s.onClock f).clockLegal) : Keeps L u (s.onClock f) :=
  h.trans { (Keeps.refl s : Keeps L s s) with
    counts := fun x => by
      rw [State.countsSaturate_iff] at x ⊢
      obtain ⟨lines, substitutions, ignored', missed, lanes⟩ := x
      exact ⟨lines, substitutions, ignored ignored', missed, lanes⟩
    clock := legal }

/-- A running clock set to a time of day. -/
theorem Keeps.moveTime (h : Keeps L u s) (n : Nat) (day : n < daySeconds) (set : s.clock.isSet = true) :
    Keeps L u (s.onClock fun c => { c with time := n }) :=
  h.onClock _ id fun ⟨_, _, dayStart, editions⟩ =>
    ⟨day, fun unset => absurd (set.symm.trans unset) (by decide), dayStart, editions⟩

end Rows

end Sys2Proof.Machine


namespace Sys2Proof.Machine

/-! ### The rows, in the order of the model's definitions -/

section Meanings

variable {L : Prop} {u s : State}

/-! #### Accesses (R9, R11, R16, R17) -/

theorem Keeps.endAccess (h : Keeps False u s) : Keeps False u s.endAccess :=
  have served := h.inner (Inner.refl s).complete
  Keeps.ite (fun _ => served.done _) fun _ => served

theorem Inner.readBlock (h : Inner u s) (a : Access) (upsets : List Upset) :
    Inner u (s.readBlock a upsets).1 := by
  have upset := h.onStore (fun st => { st with text := applyUpsets a.block upsets st.text })
    (wf_applyUpsets a.block upsets _) id
  unfold State.readBlock
  dsimp only
  repeat' split
  · exact upset
  · exact upset
  · exact (upset.onStore (Store.mark a.block) id id).raise _

theorem Inner.writeBlock (h : Inner u s) (a : Access) (codes : List Byte) (n : Nat) :
    Inner u (s.writeBlock a codes n) :=
  h.onStore _ (wf_writeCodes a.block codes a.first _) fun _ => add16_le _ _

theorem Keeps.endRead (h : Keeps False u s) (a : Access) (upsets : List Upset) :
    Keeps False u (s.endRead a upsets).1 :=
  h.endAccess.inner ((Inner.refl _).readBlock a upsets)

theorem Keeps.completePlace (h : Keeps False u s) (r : Rewrite) : Keeps False u (s.completePlace r) := by
  unfold State.completePlace
  refine Keeps.done (Keeps.inner (Keeps.onLink (h.inner ?_) _ rfl)
    (((Inner.refl _).notifyTextChanged _).settleRows)) _
  exact (Inner.refl s).onStore _ id id

theorem Keeps.continuePlace (h : Keeps False u s) (r : Rewrite) : Keeps False u (s.continuePlace r) := by
  have going := h.onLink (fun d => { d with op := .rewriting r }) rfl
  unfold State.continuePlace
  dsimp only
  repeat' split
  · exact going.inner ((Inner.refl _).requestChain ..)
  · exact going.inner ((Inner.refl _).requestChain ..)
  · exact going.completePlace r

theorem Keeps.rewriteCompleted (h : Keeps False u s) (upsets : List Upset) :
    Keeps False u (s.rewriteCompleted upsets) := by
  unfold State.rewriteCompleted
  repeat' split
  · exact (h.endRead ..).continuePlace _
  · exact (h.endAccess.inner ((Inner.refl _).writeBlock ..)).continuePlace _
  · exact h
  · exact h

theorem Keeps.continueRead (h : Keeps False u s) (r : ReadOp) : Keeps False u (s.continueRead r) :=
  Keeps.ite (fun _ => (h.onLink (fun d => { d with op := .reading r }) rfl).inner
    ((Inner.refl _).request _)) fun _ => h.done _

theorem Keeps.readTextCompleted (h : Keeps False u s) (upsets : List Upset) :
    Keeps False u (s.readTextCompleted upsets) := by
  unfold State.readTextCompleted
  split
  · exact (h.endRead ..).continueRead _
  · exact h

theorem Inner.freeWritten (h : Inner u s) (r : InboundRef) (i : Nat) :
    Inner u (s.onTraffic (Traffic.freeWritten r i)) := by
  refine h.onTraffic _ ?_ ?_ ?_ <;> (unfold Traffic.freeWritten; repeat' split)
  · exact List.Sublist.refl _
  · exact List.Sublist.refl _
  · exact List.Sublist.refl _
  · next slots _ => rw [slots]; exact Nat.le_succ _
  · exact Nat.le_refl _
  · exact Nat.le_refl _
  · exact id
  · exact id
  · exact id

/-- A completion is not the port's, or it ends the access and goes on with inner changes. -/
def Served (s t : State) : Prop := t = s ∨ Inner s.endAccess t

theorem Keeps.served (h : Keeps False u s) {t : State} (k : Served s t) : Keeps False u t := by
  obtain rfl | k := k
  · exact h
  · exact h.endAccess.inner k

theorem State.slipWriteCompleted_served (s : State) : Served s s.slipWriteCompleted := by
  unfold State.slipWriteCompleted
  split
  · split
    · have written (c : List Byte × Nat) (a : Access) (r : InboundRef) (i : Nat) :=
        ((Inner.refl s.endAccess).writeBlock a c.1 c.2).freeWritten r i
      exact .inr (Inner.ite (fun _ => written _ _ _ _) fun _ =>
        (written _ _ _ _).commitIfFinal ..).settleSlips.settleRows
    · exact .inl rfl
  · exact .inl rfl

theorem State.checkReadCompleted_served (upsets : List Upset) (s : State) :
    Served s (s.checkReadCompleted upsets) := by
  unfold State.checkReadCompleted
  split
  · split
    · next a _ _ n _ =>
        refine .inr ?_
        have read := (Inner.refl s.endAccess).readBlock a upsets
        dsimp only
        repeat' split
        · exact read.settleSlips
        · exact read.settleSlips
        · exact (read.endReturn ..).settleSlips
        · exact (read.onOutbound n _).settleSlips
        · exact ((read.onOutbound n _).buildOffer n).settleSlips
    · exact .inl rfl
  · exact .inl rfl

theorem State.slipReadCompleted_served (upsets : List Upset) (s : State) :
    Served s (s.slipReadCompleted upsets) := by
  unfold State.slipReadCompleted
  split
  · split
    · next a _ _ n _ =>
        refine .inr ?_
        have read := (Inner.refl s.endAccess).readBlock a upsets
        dsimp only
        repeat' split
        · exact read.settleSlips
        · exact read.settleSlips
        · exact (read.endReturn ..).settleSlips
        · exact (read.buildSlip ..).settleSlips
    · exact .inl rfl
  · exact .inl rfl

theorem State.pageReadCompleted_served (upsets : List Upset) (s : State) :
    Served s (s.pageReadCompleted upsets) := by
  unfold State.pageReadCompleted
  split
  · next a _ =>
      refine .inr ?_
      have read := (Inner.refl s.endAccess).readBlock a upsets
      dsimp only
      repeat' split
      · exact read
      · exact read
      · exact (read.endPlan ..).settleFits
      · exact read.sendPageFrame _
  · exact .inl rfl

theorem Inner.fitDelivered (h : Inner u s) (t : Setting) (k : Key) (r : FitReading) (codes : List Byte) :
    Inner u (s.fitDelivered t k r codes) :=
  Inner.ite (fun _ => h.onFit _) fun _ =>
    Inner.ite (fun _ => (h.onFit _).requestChain ..) fun _ => h.onFit _

theorem State.fitReadCompleted_served (upsets : List Upset) (s : State) :
    Served s (s.fitReadCompleted upsets) := by
  unfold State.fitReadCompleted
  split
  · next a _ =>
      refine .inr ?_
      have read := (Inner.refl s.endAccess).readBlock a upsets
      dsimp only
      repeat' split
      · exact read
      · exact read.fitDelivered ..
      · exact read
  · exact .inl rfl

theorem Inner.storeRecord (h : Inner u s) (k : Key) (f : FitRecord) (w t : Bool) :
    Inner u (s.storeRecord k f w t).1 := by
  unfold State.storeRecord
  repeat' split
  · exact h
  · exact h
  · exact h.change k _
  · exact h.change k _

theorem Inner.fitStored (h : Inner u s) : Inner u s.fitStored := by
  unfold State.fitStored
  split
  · exact ((h.storeRecord ..).endRun _).settleFits
  · exact h

theorem Inner.rowRendered (h : Inner u s) (n r : Nat) (items : List Item) :
    Inner u (s.rowRendered n r items) :=
  ((h.onScreen _ rfl).onWindow n _).settleRows

theorem State.walkCompleted_served (upsets : List Upset) (s : State) :
    Served s (s.walkCompleted upsets) := by
  unfold State.walkCompleted
  split
  · next a _ =>
      refine .inr ?_
      have read := (Inner.refl s.endAccess).readBlock a upsets
      dsimp only
      repeat' split
      · exact read
      · exact read
      · exact ((read.onWindow _ _).renderOrBlank ..).settleRows
      · exact (read.onScreen _ rfl).requestChain ..
      · exact ((read.onWindow _ _).renderOrBlank ..).settleRows
      · exact read
  · exact .inl rfl

theorem State.renderCompleted_served (upsets : List Upset) (s : State) :
    Served s (s.renderCompleted upsets) := by
  unfold State.renderCompleted
  split
  · next a _ =>
      refine .inr ?_
      have read := (Inner.refl s.endAccess).readBlock a upsets
      dsimp only
      repeat' split
      · exact read
      · exact read
      · exact read.rowRendered ..
      · exact (read.onScreen _ rfl).requestChain ..
      · exact read.rowRendered ..
      · exact read
  · exact .inl rfl

/-! #### Commands on stories (R14 to R20) -/

theorem Keeps.openStory (h : Keeps False u s) (slug : List Byte) (edition : Nat) :
    Keeps False u (s.openStory slug edition) :=
  Keeps.done (h.inner ((Inner.refl s).onStore (fun st =>
    { st with
        stories := st.stories ++ [newStory (s.ownKey s.openSerial) slug edition],
        serial := nextSerial s.openSerial }) id id)) _

theorem Keeps.place (h : Keeps False u s) (k : Key) (start stop : Nat) (text : List Byte) :
    Keeps False u (s.place k start stop text) :=
  (h.inner ((((Inner.refl s).onStore (Store.beginPlace k _) id id).notifyInEdit k).settleRows)).continuePlace _

theorem Keeps.resolve (h : Keeps False u s) (k : Key) (keep : Bool) : Keeps False u (s.resolve k keep) :=
  h.inner (Inner.ite (fun _ => (Inner.refl s).returnStory k) fun _ =>
    Inner.ite (fun _ => (Inner.refl s).carbonStory k) fun _ => ((Inner.refl s).freeStory k).settleRows)

/-! #### The line (R37 to R62) -/

theorem Inner.startMark (h : Inner u s) (dominant lead : Nat) : Inner u (s.startMark dominant lead) :=
  Inner.ite (fun _ => h.onLine _ rfl) fun _ => h

theorem LineCounts.saturate.checkFailure {c : LineCounts} (h : c.saturate) :
    ({ c with checkFailures := bump16 c.checkFailures } : LineCounts).saturate := by
  obtain ⟨good, _, unknown, full, sent, failed, losses⟩ := h
  exact ⟨good, bump16_le _, unknown, full, sent, failed, losses⟩

theorem Keeps.stuckLine (h : Keeps L u s) (dominant : Nat) : Keeps L u (s.stuckLine dominant) := by
  unfold State.stuckLine
  dsimp only
  refine Keeps.ite (fun _ => h) fun _ => Keeps.ite (fun _ => h.inner ((Inner.refl s).onLine _ rfl))
    fun _ => Keeps.ite (fun _ => h) fun listens => Keeps.ite (fun _ => Keeps.ite (fun _ => h) fun quiet => ?_)
      fun _ => h.inner ((Inner.refl s).onLine _ rfl)
  have counted : Inner s (if s.line.receiving then
      s.count fun c => { c with checkFailures := bump16 c.checkFailures } else s) :=
    Inner.ite (fun _ => (Inner.refl s).count _ LineCounts.saturate.checkFailure) fun _ => Inner.refl s
  have released := counted.onLine (fun l =>
    { l.fall.released with recorded := some l.state, receiving := false, slot := .neither }) rfl
  refine ((h.inner released).enterLine .stuck fun legal => ?_).inner ((Inner.refl _).raise _).settleRows
  have started : s.lineLegal → s.desk.state ≠ .start := fun x => x.started fun y => by
    simp [LineState.listens, y] at listens
  refine State.lineLegal_enter ?_ ?_ legal
  · intro x
    rw [released.state] at x
    have : s.line.state = .dormant := released.lineState ▸ legal.1 (released.state ▸ x)
    simp [LineState.listens, this] at listens
  · intro sending
    rw [Traffic.sending_iff] at sending
    exact absurd ((Traffic.sending_iff _).mpr (sending.trans_le released.onLineCount)) quiet

theorem Keeps.passedOver (h : Keeps L u s) (dominant : Nat) : Keeps L u (s.passedOver dominant) :=
  Keeps.ite (fun _ => h) fun _ => Keeps.ite (fun _ => h.stuckLine dominant) fun _ =>
    h.inner ((Inner.refl s).onLine _ rfl)

theorem Keeps.beginAttempt (h : Keeps L u s) (quiet : Nat) : Keeps L u (s.beginAttempt quiet) := by
  unfold State.beginAttempt
  split
  · next idle =>
      simp only [Bool.and_eq_true, decide_eq_true_eq, Bool.not_eq_true'] at idle
      obtain ⟨⟨active, _⟩, free⟩ := idle
      have waited := (Inner.refl s).onLine (Line.quietFor quiet) rfl
      dsimp only
      repeat' split
      · exact h.inner waited
      · exact (h.inner (waited.onLine (fun l => { l.fall with slot := .neither }) rfl)).begin _ active free
      · exact h.inner waited
  · exact h

theorem Keeps.joinCounted (h : Keeps L u s) (recessive : Nat) : Keeps L u (s.joinCounted recessive) := by
  unfold State.joinCounted
  split
  · next joining =>
      simp only [Bool.and_eq_true, decide_eq_true_eq] at joining
      have counted := (Inner.refl s).onLine
        (fun l => { l.quietFor recessive with join := max l.join recessive }) rfl
      refine Keeps.ite (fun _ => ?_) fun _ => h.inner counted
      refine ((h.inner (counted.onLine (fun l => { l with join := 0, quiet := 24 }) rfl)).enterLine
        .active fun legal => ?_).inner (Inner.refl _).settleRows
      refine State.lineLegal_enter (legal.started ?_) (fun _ => rfl) legal
      show s.line.state ≠ .dormant
      rw [joining.1]; decide
  · exact h

theorem State.onLineEntry_get {i : Nat} {e : OutEntry} (h : s.onLineEntry = some (i, e)) :
    s.traffic.queue[i]? = some e := by
  unfold State.onLineEntry at h
  obtain ⟨j, -, found⟩ := Option.bind_eq_some_iff.mp h
  obtain ⟨e', he, same⟩ := Option.map_eq_some_iff.mp found
  cases same
  exact he

theorem LineCounts.saturate.sentOne {c : LineCounts} (h : c.saturate) :
    ({ c with sent := bump16 c.sent } : LineCounts).saturate := by
  obtain ⟨good, check, unknown, full, _, failed, losses⟩ := h
  exact ⟨good, check, unknown, full, bump16_le _, failed, losses⟩

theorem LineCounts.saturate.failedOne {c : LineCounts} (h : c.saturate) :
    ({ c with failed := bump16 c.failed } : LineCounts).saturate := by
  obtain ⟨good, check, unknown, full, sent, _, losses⟩ := h
  exact ⟨good, check, unknown, full, sent, bump16_le _, losses⟩

theorem LineCounts.saturate.lostOne {c : LineCounts} (h : c.saturate) :
    ({ c with arbLosses := bump16 c.arbLosses } : LineCounts).saturate := by
  obtain ⟨good, check, unknown, full, sent, failed, _⟩ := h
  exact ⟨good, check, unknown, full, sent, failed, bump16_le _⟩

theorem Keeps.arbitrationLost (h : Keeps L u s) (bit : Nat) : Keeps L u (s.arbitrationLost bit) := by
  unfold State.arbitrationLost
  split
  · exact h
  · next i e found =>
      have here := State.onLineEntry_get found
      have counted := ((Inner.refl s).count (fun c => { c with arbLosses := bump16 c.arbLosses })
        LineCounts.saturate.lostOne).onLine
        (fun l => { l with receiving := true }) rfl
      refine Keeps.ite (fun _ => Keeps.ite (fun _ => ?_) fun _ => ?_) fun _ => h
      · exact h.inner (((counted.removeEntry i).tellOwner e .withdrawn).settle)
      · exact (h.inner counted).onEntry here rfl rfl (.inl rfl)

/-- The end of an attempt: the entry goes, or goes on waiting with an attempt left (R54). -/
theorem Keeps.endAttemptOf (h : Keeps L u s) {i : Nat} {e : OutEntry}
    (here : s.traffic.queue[i]? = some e) (outcome : Option Cause) :
    Keeps L u (s.endAttemptOf i e outcome) := by
  have sent := (Inner.refl s).count (fun c => { c with sent := bump16 c.sent }) LineCounts.saturate.sentOne
  unfold State.endAttemptOf
  dsimp only
  split
  · have counted := Inner.ite (c := outcome = none) (fun _ => sent) fun _ => Inner.refl s
    exact h.inner ((counted.removeEntry i).tellOwner ..).settle
  · split
    · exact h.inner ((sent.removeEntry i).tellOwner ..).settle
    · next c =>
        have failed := (Inner.refl s).count (fun c => { c with failed := bump16 c.failed })
          LineCounts.saturate.failedOne
        refine Keeps.ite (fun left => ?_) fun _ => h.inner ((failed.removeEntry i).tellOwner ..).settle
        have within_limit : (e.attempted (some c)).attempts ≤ s.retryLimit := Nat.lt_one_add_iff.mp left
        exact (h.onEntry (f := fun _ => { e.attempted (some c) with lastCause := some c }) here rfl rfl
          (.inr within_limit)).inner ((Inner.refl _).tellOwner ..).settle

theorem Keeps.endAttempt (h : Keeps L u s) (outcome : Option Cause) : Keeps L u (s.endAttempt outcome) := by
  unfold State.endAttempt
  split
  · exact h
  · next found => exact h.endAttemptOf (State.onLineEntry_get found) outcome

theorem Keeps.bitError (h : Keeps L u s) (bit : Nat) : Keeps L u (s.bitError bit) := by
  unfold State.bitError
  split
  · exact h
  · next found =>
      exact Keeps.ite (fun _ => (h.inner ((Inner.refl s).onLine Line.fall rfl)).endAttemptOf
        (State.onLineEntry_get found) _) fun _ => h

theorem Keeps.slotsRead (h : Keeps L u s) (taken refused : Bool) : Keeps L u (s.slotsRead taken refused) :=
  Keeps.ite (fun _ => (h.inner ((Inner.refl s).onLine
      (fun l => { l.released with quiet := 0 }) rfl)).endAttempt _)
    fun _ => h.inner ((Inner.refl s).onLine Line.slotsOver rfl)

theorem Keeps.stuckReleased (h : Keeps L u s) (recessive : Nat) : Keeps L u (s.stuckReleased recessive) := by
  unfold State.stuckReleased
  split
  · next stuck =>
      split
      · split
        · exact h
        · next st _ =>
            have cleared := (Inner.refl s).onLine (fun l =>
              { l.released with recorded := none, recessive := 0, join := 0,
                                quiet := if st = .active then 16 else 0 }) rfl
            refine ((h.inner cleared).enterLine st fun legal => ?_).inner (Inner.refl _).settleRows
            have here : s.line.state ≠ .dormant := by rw [stuck]; decide
            have quiet := legal.notSending (by show s.line.state ≠ _; rw [stuck]; decide)
            exact State.lineLegal_enter (legal.started here) (fun y => absurd (quiet.symm.trans y) Bool.false_ne_true)
              legal
      · exact h.inner ((Inner.refl s).onLine _ rfl)
  · exact h

theorem Inner.abandonFrame (h : Inner u s) (cause : AbandonCause) : Inner u (s.abandonFrame cause) := by
  unfold State.abandonFrame
  refine Inner.ite (fun _ => ?_) fun _ => Inner.ite (fun _ => h.onLine Line.slotsOver rfl) fun _ => h
  refine (h.onLine _ ?_).count _ LineCounts.saturate.checkFailure
  dsimp only
  split <;> rfl

theorem Inner.assert (h : Inner u s) (d : SlotDrive) : Inner u (s.assert d) := h.onLine _ rfl

theorem Inner.countFull (h : Inner u s) : Inner u s.countFull :=
  h.count _ fun ⟨good, check, unknown, _, sent, failed, losses⟩ =>
    ⟨good, check, unknown, bump16_le _, sent, failed, losses⟩

theorem Keeps.receiveFrame (h : Keeps L u s) (k : FrameKind) (f : Frame) : Keeps L u (s.receiveFrame k f) :=
  Keeps.ite (fun free => (h.placeFrame k f none free).inner ((Inner.refl _).assert _))
    fun _ => h.inner ((Inner.refl s).countFull.assert _)

/-- The acceptance test stores a slip only when a receive slot is free (R88). -/
theorem State.acceptSlip_store {k : Key} {source i : Nat} {codes : List Byte} {free : Bool}
    {entry pass : Nat} (h : (s.acceptSlip k source i codes free).2 = .store entry pass) : free = true := by
  unfold State.acceptSlip at h
  dsimp only at h
  repeat' split at h
  all_goals first
    | assumption
    | cases h

theorem Keeps.receiveSlip (h : Keeps L u s) (f : Frame) : Keeps L u (s.receiveSlip f) := by
  have accepted := (Inner.refl s).acceptSlip (keyAt f.payload 0) f.source (twoAt f.payload 3)
    (f.payload.drop 5) s.traffic.slotFree
  unfold State.receiveSlip
  dsimp only
  split
  · next stored =>
      have free := State.acceptSlip_store stored
      refine ((h.inner accepted).placeFrame .slip f _ ?_).inner ((Inner.refl _).assert _)
      have : s.traffic.slots.length < 4 := by simpa [Traffic.slotFree] using free
      exact decide_eq_true (accepted.slots.trans_lt this)
  · exact h.inner (accepted.assert _)
  · exact h.inner ((Inner.ite (fun _ => accepted.countFull) fun _ => accepted).assert _)

theorem Keeps.goodFrame (h : Keeps L u s) (f : Frame) : Keeps L u (s.goodFrame f) := by
  have counted := (Inner.refl s).count (fun c => { c with good := bump16 c.good })
    fun ⟨_, check, unknown, full, sent, failed, losses⟩ =>
      ⟨bump16_le _, check, unknown, full, sent, failed, losses⟩
  unfold State.goodFrame
  dsimp only
  repeat' split
  · exact h.inner (counted.raise _)
  · exact h.inner counted
  · exact h.inner (counted.count _ fun ⟨good, check, _, full, sent, failed, losses⟩ =>
      ⟨good, check, bump16_le _, full, sent, failed, losses⟩)
  · exact ((h.inner counted).receiveSlip f).inner (Inner.refl _).settle
  · exact (h.inner counted).receiveFrame _ f

theorem Keeps.frameEnded (h : Keeps L u s) (body : List Bool) : Keeps L u (s.frameEnded body) := by
  unfold State.frameEnded
  split
  · split
    · exact h
    · have ended := (Inner.refl s).onLine
        (fun l => { l.released with receiving := false, slot := .neither }) rfl
      exact Keeps.ite (fun _ => (h.inner ended).goodFrame _) fun _ =>
        h.inner (ended.count _ LineCounts.saturate.checkFailure)
  · exact h

theorem Keeps.lineRetry (h : Keeps False u s) : Keeps False u s.lineRetry := by
  refine Keeps.ite (fun listenOnly => ?_) fun _ => h.refuse _
  refine ((h.enterJoining fun legal => ⟨legal.started ?_, legal.notSending ?_⟩).inner
    (Inner.refl _).settleRows).done _ <;> (rw [listenOnly]; decide)

end Meanings

end Sys2Proof.Machine


namespace Sys2Proof.Machine

section Meanings

variable {L : Prop} {u s : State}

/-! #### A drive fault (R40) -/

/-- The count without one ON LINE entry. -/
theorem countP_eraseIdx_lt {α : Type} {p : α → Bool} {l : List α} {i : Nat} {a : α}
    (here : l[i]? = some a) (ha : p a = true) : (l.eraseIdx i).countP p + 1 = l.countP p := by
  obtain ⟨lt, rfl⟩ := List.getElem?_eq_some_iff.mp here
  rw [← (List.getElem_cons_eraseIdx_perm lt).countP_eq p, List.countP_cons_of_pos ha]

theorem State.onLineEntry_onLine {i : Nat} {e : OutEntry} (h : s.onLineEntry = some (i, e)) :
    e.onLine = true := by
  have here := State.onLineEntry_get h
  unfold State.onLineEntry Traffic.onLineIndex indexWhere at h
  obtain ⟨j, found, at_j⟩ := Option.bind_eq_some_iff.mp h
  obtain ⟨e', _, same⟩ := Option.map_eq_some_iff.mp at_j
  cases same
  dsimp only at found
  split at found
  · next lt =>
      cases found
      have := List.findIdx_getElem (w := lt)
      rwa [(List.getElem?_eq_some_iff.mp here).2] at this
  · cases found

theorem State.onLineEntry_isSome (sending : s.traffic.sending = true) : s.onLineEntry ≠ none := by
  intro h
  have lt : s.traffic.queue.findIdx (fun e => e.onLine) < s.traffic.queue.length := by
    rw [List.findIdx_lt_length]; simpa [Traffic.sending] using sending
  simp [State.onLineEntry, Traffic.onLineIndex, indexWhere, lt] at h

/-- When the attempt in progress ends, no frame of the station is left on the line; all else is an inner
change. -/
theorem State.endAttempt_quiet (one : s.traffic.onLineCount ≤ 1) (sending : s.traffic.sending = true)
    (outcome : Option Cause) :
    ∃ v : State, v.desk = s.desk ∧ v.traffic.onLineCount = 0 ∧ Inner v (s.endAttempt outcome) := by
  unfold State.endAttempt
  split
  · next h => exact absurd h (State.onLineEntry_isSome sending)
  · next i e found =>
      have here := State.onLineEntry_get found
      have onLine := State.onLineEntry_onLine found
      have removed {t : State} (queue : t.traffic.queue = s.traffic.queue) :
          (t.removeEntry i).traffic.onLineCount = 0 := by
        have := countP_eraseIdx_lt (p := fun e : OutEntry => e.onLine) here onLine
        simp only [Traffic.onLineCount, ← List.countP_eq_length_filter] at one ⊢
        simp only [State.removeEntry, State.onTraffic_traffic, queue]
        omega
      have waits (d : OutEntry) (off : d.onLine = false) :
          (s.onEntry i fun _ => d).traffic.onLineCount = 0 := by
        obtain ⟨lt, at_i⟩ := List.getElem?_eq_some_iff.mp here
        have queue : s.traffic.queue.modify i (fun _ => d) = s.traffic.queue.set i d := by
          rw [List.modify_eq_set_getElem?, here]; rfl
        simp only [Traffic.onLineCount, ← List.countP_eq_length_filter, State.onEntry,
          State.onTraffic_traffic, queue] at one ⊢
        rw [List.countP_set lt, at_i, onLine, off]
        simp
        omega
      unfold State.endAttemptOf
      dsimp only
      split
      · refine ⟨_, ?_, ?_, ((Inner.refl _).tellOwner ..).settle⟩
        · split <;> rfl
        · refine removed ?_
          split <;> rfl
      · split
        · refine ⟨_, ?_, ?_, ((Inner.refl _).tellOwner ..).settle⟩
          · rfl
          · exact removed rfl
        · split
          · refine ⟨_, ?_, ?_, ((Inner.refl _).tellOwner ..).settle⟩
            · rfl
            · exact waits _ rfl
          · refine ⟨_, ?_, ?_, ((Inner.refl _).tellOwner ..).settle⟩
            · rfl
            · exact removed rfl

/-- A drive fault keeps the invariants: in between, the faulted frame stands on a line that is LISTEN-ONLY. -/
theorem Keeps.driveFault (h : Keeps L u s) : Keeps L u s.driveFault := by
  unfold State.driveFault
  dsimp only
  refine Keeps.ite (fun driven => h.trans ?_) fun _ => h
  simp only [Bool.and_eq_true] at driven
  have here : s.line.state ≠ .dormant := fun x => by simp [LineState.listens, x] at driven
  let f := s.onLine fun l => { l.fall.released with slot := .neither, state := .listenOnly }
  generalize ht : ((s.onLine fun l => { l.fall.released with slot := .neither }).enterLine
    .listenOnly).raise .lineFault = t
  have told : Inner f t :=
    ht ▸ Inner.raise (Inner.ite (fun _ => Inner.refl f) fun _ => (Inner.refl f).tellLine _) _
  generalize he : (if s.traffic.sending then t.endAttempt (some .bitError) else t) = e
  have ended : Keeps L f e := he ▸ Keeps.ite (fun _ => told.keeps.endAttempt _) fun _ => told.keeps
  have settled := ended.inner (Inner.refl e).settleRows
  have outside (legal : s.lineLegal) : ∃ v, v.desk.state = s.desk.state ∧ v.traffic.onLineCount = 0 ∧
      Inner v e := by
    have one : t.traffic.onLineCount ≤ 1 := told.onLineCount.trans legal.2.1
    by_cases sending : t.traffic.sending = true
    · have mine : s.traffic.sending = true := by
        rw [Traffic.sending_iff] at sending ⊢
        exact sending.trans_le told.onLineCount
      obtain ⟨v, desk, quiet, after⟩ := State.endAttempt_quiet one sending (some .bitError)
      refine ⟨v, (congrArg Desk.state desk).trans told.state, quiet, ?_⟩
      rw [← he, if_pos mine]
      exact after
    · have quiet : t.traffic.onLineCount = 0 := by
        rw [Traffic.sending_iff] at sending; omega
      have same : e = t := by
        rw [← he]
        split
        · unfold State.endAttempt
          split
          · rfl
          · next found =>
              refine absurd ?_ sending
              exact List.any_eq_true.mpr
                ⟨_, List.mem_of_getElem? (State.onLineEntry_get found), State.onLineEntry_onLine found⟩
        · rfl
      exact ⟨t, told.state, quiet, same ▸ Inner.refl t⟩
  exact { settled with
    line := fun legal => by
      obtain ⟨v, state, quiet, after⟩ := outside legal
      have all := after.settleRows
      refine ⟨fun x => absurd ((all.state.trans state).symm.trans x) (legal.started here), ?_, fun x => ?_⟩
      · exact (all.onLineCount.trans (Nat.le_of_eq quiet)).trans (by decide)
      · rw [Traffic.sending_iff] at x
        exact absurd (all.onLineCount.trans (Nat.le_of_eq quiet)) (Nat.not_le.mpr x) }

/-! #### Passes and dispatches (R60 to R87) -/

theorem Inner.dispatch (h : Inner u s) (k : FrameKind) {owner : RxSlot → State → State}
    (owned : ∀ x, Inner u (owner x s)) : Inner u (s.dispatch k owner) := by
  unfold State.dispatch
  split
  · exact h
  · next x _ _ => exact Inner.ite (fun _ => (owned x).freeOldest.settle) fun _ => h

theorem Inner.declineOwner (h : Inner u s) (x : RxSlot) : Inner u (declineOwner x s) := by
  unfold Machine.declineOwner
  split
  · exact h
  · exact h.receiveDecline ..

theorem Inner.slipDispatched (h : Inner u s) : Inner u s.slipDispatched := by
  unfold State.slipDispatched
  split
  · exact h
  · next x rest slots =>
      refine Inner.ite (fun _ => ?_) fun _ => h
      repeat' split
      · exact h.freeOldest
      · exact h.freeOldest
      · exact (h.freeOldest.commitIfFinal ..).settle
      · exact (h.onTraffic _ (List.Sublist.refl _) (Nat.le_of_eq (by rw [slots]; rfl)) id).settleSlips

theorem Keeps.beginOutbound (h : Keeps False u s) (n : Nat) (k : Key) (dest : Address) (keep : Bool) :
    Keeps False u (s.beginOutbound n k dest keep) :=
  (h.inner (((((Inner.refl s).onPass _ List.length_set rfl).beginPass k).prepareOffer n k).settleSlips.settleRows)).done _

theorem Keeps.startPass (h : Keeps False u s) (k : Key) (dest : Address) (keep : Bool) :
    Keeps False u (s.startPass k dest keep) := by
  unfold State.startPass
  split
  · exact h.refuse _
  · exact h.beginOutbound ..

theorem Keeps.cancelPass (h : Keeps False u s) (k : Key) : Keeps False u (s.cancelPass k) := by
  unfold State.cancelPass
  split
  · exact h.refuse _
  · next n p _ =>
      have ended := (Inner.refl s).endReturn n p .cancelled
      exact Keeps.ite (fun _ => h.refuse _) fun _ =>
        (h.inner (Inner.ite (fun _ => ended.sendWithdraw ..) fun _ => ended).settleSlips).done _

theorem Keeps.declined (h : Keeps False u s) (q : QueuedOffer) (r : DeclineReason) :
    Keeps False u ((s.declineOffer q r).settleRows) :=
  h.inner ((Inner.refl s).declineOffer q r).settleRows

theorem Keeps.takeQueued (h : Keeps False u s) (q : QueuedOffer) : Keeps False u (s.takeQueued q) := by
  unfold State.takeQueued
  dsimp only
  repeat' split
  · exact (h.declined ..).refuse _
  · exact (h.declined ..).refuse _
  · exact (h.inner (((Inner.refl s).takeOffer ..).removeOffer _).settleRows).done _
  · exact (h.declined ..).refuse _
  · exact (h.declined ..).refuse _
  · exact h.refuse _

theorem Keeps.answerOffer (h : Keeps False u s) (k : Key) (take : Bool) : Keeps False u (s.answerOffer k take) := by
  unfold State.answerOffer
  repeat' split
  · exact h.refuse _
  · exact h.takeQueued _
  · exact (h.declined ..).done _

theorem Inner.answerTimerExpired (h : Inner u s) (n : Nat) : Inner u (s.answerTimerExpired n) := by
  unfold State.answerTimerExpired
  repeat' split
  · exact h
  · exact (h.endReturn ..).settleSlips
  · exact h

theorem Inner.offerTimerExpired (h : Inner u s) (k : Key) : Inner u (s.offerTimerExpired k) := by
  unfold State.offerTimerExpired
  split
  · exact h
  · exact ((h.declineOffer ..).raise _).settleRows

theorem Inner.gapTimerExpired (h : Inner u s) (n : Nat) : Inner u (s.gapTimerExpired n) := by
  unfold State.gapTimerExpired
  repeat' split
  · exact h
  · exact (h.loseInbound n).settleSlips
  · exact h

/-! #### Fits and pages (R97 to R102, R121 to R136) -/

theorem Keeps.requestFit (h : Keeps False u s) (k : Key) (t : Setting) : Keeps False u (s.requestFit k t) :=
  (h.inner ((Inner.refl s).onFit _).settleFits).done _

theorem Keeps.fitStatus (h : Keeps False u s) (face : Option Nat) : Keeps False u (s.fitStatus face) :=
  Keeps.ite (fun _ => h.refuse _) fun _ => h.done _

theorem Keeps.fitDepth (h : Keeps False u s) (k : Key) (columns budget : Nat) :
    Keeps False u (s.fitDepth k columns budget) := by
  unfold State.fitDepth
  repeat' split
  · exact h.refuse _
  · exact h.refuse _
  · exact h.refuse _
  · exact h.done _

theorem Inner.widthsAtRun (h : Inner u s) (face : Nat) : Inner u (s.widthsAtRun face) := by
  unfold State.widthsAtRun
  repeat' split
  · exact h.stopRun _
  · exact h
  · exact h.onFit _
  · exact h
  · exact h

theorem Inner.widthsOwner (h : Inner u s) (x : RxSlot) : Inner u (widthsOwner x s) :=
  Inner.ite (fun _ => ((Inner.ite (fun _ => (h.onFit _).raise _) fun _ => h.onFit _).onStore _ id
    id).widthsAtRun _) fun _ => h

theorem Inner.oldPlanLeaves (h : Inner u s) (slot : Nat) : Inner u (s.oldPlanLeaves slot) := by
  unfold State.oldPlanLeaves
  repeat' split
  · exact h.planLeaves _
  · exact h
  · exact h

theorem Keeps.planPage (h : Keeps False u s) (slot page edition : Nat) (send : Bool)
    (l : List PlacementSpec) : Keeps False u (s.planPage slot page edition send l) := by
  unfold State.planPage
  repeat' split
  · exact h.refuse _
  · exact h.refuse _
  · exact h.respond ..
  · exact (h.inner ((((Inner.refl s).oldPlanLeaves slot).onPage _).planEnters _)).done _

theorem Keeps.clearPlan (h : Keeps False u s) (slot : Nat) : Keeps False u (s.clearPlan slot) :=
  Keeps.ite (fun _ => h.refuse _) fun _ => Keeps.ite (fun _ => h.refuse _) fun _ =>
    (h.inner (((Inner.refl s).oldPlanLeaves slot).onPage _)).done _

theorem Keeps.queuePage (h : Keeps False u s) (slot : Nat) (p : Plan) : Keeps False u (s.queuePage slot p) := by
  have locked := (Inner.refl s).foldl (fun _ q ht => ht.takeLock q.key slot) p.placements
  exact (h.inner ((((locked.onPlan slot _).planLeaves p.edition).onPage _).settle)).done _

theorem Keeps.sendPage (h : Keeps False u s) (slot : Nat) : Keeps False u (s.sendPage slot) := by
  unfold State.sendPage
  repeat' split
  · exact h.refuse _
  · exact h.refuse _
  · exact h.refuse _
  · exact h.respond ..
  · exact h.queuePage ..

theorem Keeps.cancelPage (h : Keeps False u s) (slot : Nat) : Keeps False u (s.cancelPage slot) :=
  Keeps.ite (fun _ => h.refuse _) fun _ => Keeps.ite (fun _ => h.refuse _) fun _ =>
    (h.inner ((Inner.refl s).endPlan ..).settle).done _

/-! #### The clock (R141 to R155) -/

theorem Keeps.second (h : Keeps L u s) : Keeps L u s.second := by
  unfold State.second
  refine Keeps.ite (fun set => ?_) fun _ => h
  have moved := h.moveTime ((s.clock.time + 1) % daySeconds) (Nat.mod_lt _ (by decide)) set
  have passed := Inner.instant (x := (s.onClock fun c =>
    { c with time := (s.clock.time + 1) % daySeconds }, 0)) (Inner.refl _)
    ((s.clock.time + 1) % daySeconds)
  exact moved.inner (Inner.ite (fun _ => passed.minuteChange) fun _ => passed)

theorem Inner.passMinutes (count : Nat) : ∀ (minute : Nat) {x : State × Nat}, Inner u x.1 →
    Inner u (State.passMinutes minute count x).1 := by
  induction count with
  | zero => exact fun _ _ h => h
  | succ count ih => exact fun minute x h => ih (minute + 1) (h.instant _)

theorem Keeps.setTime (h : Keeps L u s) (n : Nat) (day : n < daySeconds) (set : s.clock.isSet = true) :
    Keeps L u (s.setTime n) :=
  Keeps.ite (fun _ => h.moveTime n day set) fun _ =>
    (h.moveTime n day set).inner (Inner.refl _).dirtyStatus

theorem Keeps.firstSet (h : Keeps L u s) (n : Nat) (day : n < daySeconds) : Keeps L u (s.firstSet n).1 := by
  unfold State.firstSet
  extract_lets before minute timed after set marked told closed ended
  have started : Keeps L u set := h.onClock (fun c => { c with time := n, isSet := true, editions := after })
    id fun ⟨_, _, dayStart, _⟩ => ⟨day, fun x : true = false => absurd x (by decide), dayStart, List.length_map _⟩
  have telling : Inner set told := (((Inner.refl set).raise .editionStep).dirtyStatus).tellCurrent _
  have closing : Inner set ended := (telling.foldl (f := fun s (e : EditionState × Nat) =>
      if e.1 = .closed then s.closePlans (e.2 + 1) else s)
    (fun _ _ ht => Inner.ite (fun _ => ht.closePlans _) fun _ => ht) after.zipIdx).closeEnds
  exact started.inner (Inner.ite (fun _ => closing.dirtyStatus) fun _ => closing)

theorem Keeps.setClock (h : Keeps L u s) (n : Nat) (day : n < daySeconds) : Keeps L u (s.setClock n).1 := by
  have running (k : s.setKind n ≠ .first) : s.clock.isSet = true := by
    unfold State.setKind at k
    cases hs : s.clock.isSet with
    | true => rfl
    | false => simp [hs] at k
  unfold State.setClock
  split
  · exact h.firstSet n day
  · exact h
  · next forward =>
      have passed := Inner.passMinutes ((s.clock.time % 60 + (n + daySeconds - s.clock.time) % daySeconds) / 60)
        (s.clock.time / 60 + 1) (x := (s, 0)) (Inner.refl s)
      exact (h.inner passed).setTime n day (passed.isSet.trans (running (by rw [forward]; decide)))
  · next backward => exact h.setTime n day (running (by rw [backward]; decide))

theorem Keeps.setClockCommand (h : Keeps False u s) (n : Nat) : Keeps False u (s.setClockCommand n) := by
  refine Keeps.ite (fun _ => h.refuse _) fun day => ?_
  have set := h.setClock n (Nat.not_le.mp day)
  exact (set.inner (Inner.ite (fun _ => (Inner.refl _).sendMark _) fun _ => Inner.refl _).settle).done _

theorem Keeps.markOwner (h : Keeps L u s) (x : RxSlot) : Keeps L u (markOwner x s) :=
  Keeps.ite (fun accepted => h.setClock _ (by
      simp only [State.acceptsMark, Bool.and_eq_true, decide_eq_true_eq] at accepted
      exact accepted.2)) fun _ =>
    h.onClock _ (fun _ => bump16_le _) id

theorem Keeps.dispatch (h : Keeps L u s) (k : FrameKind) {owner : RxSlot → State → State}
    (owned : ∀ x, Keeps L u (owner x s)) : Keeps L u (s.dispatch k owner) := by
  unfold State.dispatch
  split
  · exact h
  · next x _ _ => exact Keeps.ite (fun _ => (owned x).inner (Inner.refl _).freeOldest.settle) fun _ => h

/-! #### The screen unit (R161 to R177) -/

theorem Keeps.view (h : Keeps False u s) (n : Nat) (k : Option Key) (edit : Bool) (top : Nat) :
    Keeps False u (s.view n k edit top) :=
  (h.inner (((Inner.refl s).dirty n _).onWindow n _).settleRows).done _

theorem Keeps.scroll (h : Keeps False u s) (n top : Nat) : Keeps False u (s.scroll n top) :=
  (h.inner (((Inner.refl s).dirty n _).onWindow n _).settleRows).done _

theorem Keeps.setCursor (h : Keeps False u s) (n : Nat) (offset : Option Nat) : Keeps False u (s.setCursor n offset) :=
  (h.inner (((Inner.refl s).dirty n _).onWindow n _).settleRows).done _

theorem Inner.applyFlash (h : Inner u s) (text : List Byte) (source : Nat) :
    Inner u (s.applyFlash text source) :=
  Inner.ite (fun _ => h) fun _ => ((h.onScreen _ rfl).raise _).dirtyStatus

theorem Keeps.sendFlash (h : Keeps False u s) (text : List Byte) (dest : Address) :
    Keeps False u (s.sendFlash text dest) :=
  (h.inner (((Inner.refl s).send _ _).applyFlash ..).settleRows).done _

theorem Inner.holdExpired (h : Inner u s) : Inner u s.holdExpired :=
  Inner.ite (fun _ => (h.onScreen _ rfl).dirtyStatus.settleRows) fun _ => h

/-- A change of the lanes that keeps their counts in 16 bits. -/
theorem Inner.onLanes (h : Inner u s) (f : Screen → Screen)
    (lanes : s.screen.saturates → (f s.screen).saturates) : Inner u (s.onScreen f) :=
  { h with lanes := lanes ∘ h.lanes }

theorem Lane.send_saturates (m : LaneMessage) (l : Lane) (h : l.rows ≤ 65535 ∧ l.keeps ≤ 65535) :
    (l.send m).rows ≤ 65535 ∧ (l.send m).keeps ≤ 65535 := by
  unfold Lane.send
  split
  · exact ⟨bump16_le _, h.2⟩
  · exact ⟨h.1, bump16_le _⟩

theorem Inner.slotAtLane (h : Inner u s) (n : Nat) : Inner u (s.slotAtLane n) := by
  unfold State.slotAtLane
  split
  · exact h
  · refine (h.onLanes _ fun x l hl => ?_).onWindow n _
    obtain ⟨i, hi⟩ := List.mem_iff_getElem?.mp hl
    rw [List.getElem?_modify] at hi
    obtain ⟨l', hl', rfl⟩ := Option.map_eq_some_iff.mp hi
    have legal := x l' (List.mem_of_getElem? hl')
    split
    · exact Lane.send_saturates _ l' legal
    · exact legal

theorem Inner.rowSlotEvent (h : Inner u s) : Inner u s.rowSlotEvent :=
  Inner.ite (fun _ => (h.eachWindow fun _ n ht => ht.slotAtLane n).settleRows) fun _ => h

theorem Keeps.screenStatus (h : Keeps False u s) : Keeps False u s.screenStatus :=
  Keeps.done (Keeps.ite (fun _ => h.useFree) fun _ => h) _

/-! #### The desk unit (R182, R186 to R197) -/

theorem Keeps.responseTransfer (h : Keeps False u s) (clocked : Nat) : Keeps False u (s.responseTransfer clocked) := by
  unfold State.responseTransfer
  repeat' split
  · exact h.onLink _ rfl
  · exact h.onLink _ rfl
  · exact h.onLink _ rfl

theorem Keeps.unreadable (h : Keeps False u s) (name : Byte) : Keeps False u (s.unreadable name) :=
  Keeps.ite (fun _ => (h.takeTransfer _).refuse _) fun _ => h.inner ((Inner.refl s).raise _)

theorem Keeps.unreadableCommand (h : Keeps False u s) (name : Option CommandName) :
    Keeps False u (s.unreadableCommand name) := by
  unfold State.unreadableCommand
  repeat' split
  · exact h.unreadable _
  · exact h.useFree.unreadable _
  · exact h.inner ((Inner.refl s).raise _)

theorem Keeps.tend (h : Keeps False u s) (byte : Byte) (started : s.desk.state ≠ .start) :
    Keeps False u (s.tend byte) := by
  have window := h.onTend (some s.tendWindow) 0 (by decide)
  refine Keeps.ite (fun _ => Keeps.done (Keeps.ite (fun _ => ?_) fun _ => window) _)
    fun _ => (h.inner ((Inner.refl s).raise _)).respond ..
  exact (window.enterDesk .onLine started (by decide)).inner (Inner.refl _).settleRows

theorem Keeps.tendExpired (h : Keeps L u s) : Keeps L u s.tendExpired := by
  refine Keeps.ite (fun _ => ?_) fun _ => h
  have counted := h.onTend (some s.tendWindow) (bump 255 s.desk.missed) (bump_le _ _)
  refine Keeps.ite (fun onLine => ?_) fun _ => counted
  have started : s.desk.state ≠ .start := fun x => by cases x.symm.trans onLine
  exact (counted.enterDesk .unattended started (by decide)).inner ((Inner.refl _).raise _).settleRows

theorem Keeps.usedTendLeft (h : Keeps False u s) : Keeps False u s.usedTendLeft :=
  Keeps.ite (fun _ => h.useFree) fun _ => h

theorem Keeps.report (h : Keeps False u s) : Keeps False u s.report :=
  (h.usedTendLeft.refresh (fun d => { d with notices := 0#18 }) (.inl rfl) rfl rfl id).done _

theorem Keeps.statusReply (h : Keeps False u s) : Keeps False u s.statusReply := h.usedTendLeft.done _

theorem Keeps.togglePhase (h : Keeps False u s) : Keeps False u s.togglePhase :=
  Keeps.ite (fun _ => h.onLink _ rfl) fun _ => h

end Meanings

end Sys2Proof.Machine


namespace Sys2Proof.Machine

section Meanings

variable {L : Prop} {u s : State}

/-! #### RESTART (R24, R47, R65, R95, R118, R140, R179, R195) -/

theorem Inner.restartFit (h : Inner u s) : Inner u s.restartFit := by
  unfold State.restartFit
  dsimp only
  split
  · exact (h.storeRecord ..).onFit _
  · exact h.onFit _

theorem Inner.restartPort (h : Inner u s) : Inner u (s.onPort Port.restart) :=
  { h with
    serves := fun _ => Port.restart_serves _
    owned := fun _ => Port.restart_owned _ }

theorem Store.restart_text (st : Store) : st.restart.text = st.text :=
  (Store.release_text 1 _).trans (Store.release_text 0 st)

theorem restartOutbound_length (next : Nat) (l : List (Option Pass)) :
    (restartOutbound next l).1.length = l.length := by
  induction l generalizing next with
  | nil => rfl
  | cons o l ih =>
      cases o with
      | none => simp [restartOutbound, ih]
      | some p => simp only [restartOutbound]; split <;> simp [ih]

theorem Inner.restartPasses (h : Inner u s) : Inner u (s.onPass PassEngine.restart) :=
  { h with
    tables := fun x => ⟨(restartOutbound_length _ _).trans (h.tables x).1, rfl⟩ }

theorem Inner.restartPage (h : Inner u s) : Inner u s.restartPage :=
  (h.onPage _).foldl (fun _ p ht => ht.planEnters p.edition) _

theorem Inner.restartScreen (h : Inner u s) (held : Key → Bool) : Inner u (s.restartScreen held) :=
  { h with
    lanes := fun _ l hl => by
      obtain ⟨l', _, rfl⟩ := List.mem_map.mp hl
      exact ⟨Nat.zero_le _, Nat.zero_le _⟩ }

theorem Inner.clearTraffic (h : Inner u s) : Inner u (s.onTraffic fun _ => Traffic.reset) :=
  h.onTraffic _ (List.nil_sublist _) (Nat.zero_le _) fun _ => by
    refine ⟨?_, ?_, ?_, ?_, ?_, ?_, ?_⟩ <;> exact Nat.zero_le _

theorem Keeps.restartBlocks (h : Keeps L u s) (started : s.desk.state ≠ .start) :
    Keeps L u s.restartBlocks := by
  unfold State.restartBlocks
  extract_lets held fits stored lined passed paged marked
  have storing : Inner s stored :=
    ((Inner.refl s).restartFit.onStore Store.restart (by rw [Store.restart_text]; exact id)
      fun _ => Nat.zero_le _).restartPort
  have clearing := storing.clearTraffic.onLine (fun l =>
    { l with recorded := none, receiving := false, slot := .neither }) rfl
  have joining : Keeps L u lined := (h.inner clearing).enterJoining fun _ =>
    ⟨by rw [clearing.state]; exact started, rfl⟩
  exact joining.inner (((((((Inner.refl lined).restartPasses).tellOffers).restartPage).onClock
    (fun c => { c with nextMark := none }) rfl rfl rfl rfl).tellStatus _).restartScreen held)

theorem Keeps.restart (h : Keeps False u s) (started : s.desk.state ≠ .start) : Keeps False u s.restart := by
  have begun : Keeps False u s.restartDesk :=
    h.refresh (fun d =>
      { d with notices := 0#18, missed := 0, state := .onLine, tendTimer := some firstWindow })
      (.inr ⟨started, fun x => by cases x⟩) rfl rfl fun _ => Nat.zero_le _
  have outside : s.restartDesk.desk.state ≠ .start := by
    show (Desk.refresh _).state ≠ _
    rw [Desk.refresh_state]
    exact fun x => by cases x
  have blocks := begun.restartBlocks outside
  exact (Keeps.ite (fun _ => blocks.onLink (fun d => { d with op := .restarting }) rfl)
    fun _ => blocks.done _).inner (Inner.refl _).settleRows

/-! #### SETTLE (R186, R187) -/

/-- A record that passes the checks has its day start within a day (R186). -/
theorem settleFault_dayStart {station : Nat} {r : StartSpec} (passed : settleFault station r = none) :
    r.dayStart < 1440 := by
  unfold settleFault at passed
  repeat' split at passed
  all_goals try cases passed
  next day _ _ _ _ =>
    simp [within] at day
    omega

theorem Steady.onDesk (h : Steady u s) (f : Desk → Desk) (missed : (f s.desk).missed = s.desk.missed) :
    Steady u (s.onDesk fun d => Desk.refresh (f d)) :=
  h.trans { Steady.refl s with
    signals := fun _ => Desk.refresh_agrees _
    counts := fun x => by
      rw [State.countsSaturate_iff] at x ⊢
      obtain ⟨lines, substitutions, ignored, missed', lanes⟩ := x
      exact ⟨lines, substitutions, ignored, by simpa [missed] using missed', lanes⟩ }

theorem Steady.onLine (h : Steady u s) (f : Line → Line) : Steady u (s.onLine f) :=
  h.trans { Steady.refl s with }

theorem Steady.enterJoining (h : Steady u s) : Steady u s.enterJoining := by
  have joining := (h.onLine fun l => { l with quiet := 0, join := 0, recessive := 0 }).onLine fun l =>
    { l with state := .joining }
  unfold State.enterJoining State.enterLine
  dsimp only
  split
  · exact joining
  · exact joining.inner ((Inner.refl _).tellLine _)

/-- The changes of SETTLE one by one: the record, the lanes, the line section, the editions, the desk state. -/
theorem Keeps.settleDesk (record : StartRecord) (inStart : s.desk.state = .start)
    (day : record.dayStart < 1440) : Keeps False s (s.settleDesk record) := by
  unfold State.settleDesk
  extract_lets recorded joined opened told
  have recording : Steady s recorded := (Steady.refl s).onDesk (fun d =>
    { d with record := some record, tendTimer := some firstWindow }) rfl
  have joining : Steady s joined :=
    (recording.inner ((Inner.refl recorded).onScreen _ rfl)).enterJoining
  have opening : Steady s opened := joining.trans { Steady.refl joined with }
  have telling : Inner opened told := (Inner.refl opened).tellCurrent _
  have entering : Steady s (told.enterDesk .onLine) :=
    ((opening.inner telling).onDesk (fun d => { d with state := .onLine }) rfl).inner
      ((Inner.refl _).tellStatus _)
  have staged := (Inner.refl (told.enterDesk .onLine)).settleRows
  have settled : Steady s ((told.enterDesk .onLine).settleRows.done (.settled record)) :=
    (entering.inner staged).trans ((Keeps.refl _).done _).toSteady
  -- what the change to JOINING, the tellings and the staging leave of each part
  have lining : Inner ((recorded.startLanes.onLine fun l => { l with quiet := 0, join := 0, recessive := 0 }).onLine
      fun l => { l with state := .joining }) joined :=
    Inner.ite (fun _ => Inner.refl _) fun _ => (Inner.refl _).tellLine _
  have ending : Inner (told.onDesk fun d => Desk.refresh { d with state := .onLine })
      (told.enterDesk .onLine).settleRows := ((Inner.refl _).tellStatus _).settleRows
  have state : (told.enterDesk .onLine).settleRows.desk.state = .onLine :=
    ending.state.trans (Desk.refresh_state _)
  have stands : (told.enterDesk .onLine).settleRows.desk.record = some record :=
    calc _ = _ := ending.record
      _ = told.desk.record := Desk.refresh_record _
      _ = joined.desk.record := telling.record
      _ = recorded.desk.record := lining.record
      _ = some record := Desk.refresh_record _
  have count : (told.enterDesk .onLine).settleRows.traffic.onLineCount ≤ s.traffic.onLineCount :=
    (ending.onLineCount.trans telling.onLineCount).trans lining.onLineCount
  have time : (told.enterDesk .onLine).settleRows.clock.time = s.clock.time :=
    ending.time.trans (telling.time.trans lining.time)
  have isSet : (told.enterDesk .onLine).settleRows.clock.isSet = s.clock.isSet :=
    ending.isSet.trans (telling.isSet.trans lining.isSet)
  have editions : (told.enterDesk .onLine).settleRows.clock.editions.length = record.editions.length :=
    (ending.editions.trans telling.editions).trans (List.length_map _)
  have attempts : (∀ e ∈ s.traffic.queue, e.attempts ≤ 0) →
      ∀ e ∈ (told.enterDesk .onLine).settleRows.traffic.queue, e.attempts ≤ 0 :=
    fun none_made => ending.attempts 0 (telling.attempts 0 (lining.attempts 0 none_made))
  generalize (told.enterDesk .onLine).settleRows = f at *
  exact { settled with
    link := False.elim
    line := fun legal => by
      have quiet := legal.notSending (by rw [legal.1 inStart]; decide)
      refine ⟨fun x => (by cases state.symm.trans x), count.trans legal.2.1, fun x => ?_⟩
      rw [Traffic.sending_iff] at x
      exact absurd (quiet.symm.trans ((Traffic.sending_iff _).mpr (x.trans_le count))) Bool.false_ne_true
    attempts := fun ⟨recordless, left⟩ => by
      refine ⟨⟨fun x => (by cases state.symm.trans x), fun x => (by cases stands.symm.trans x)⟩, ?_⟩
      have before : s.retryLimit = 0 := by simp [State.retryLimit, recordless.mp inStart]
      exact fun e he => (attempts (fun a ha => before ▸ left a ha) e he).trans (Nat.zero_le _)
    clock := fun ⟨day_time, unset, _, _⟩ => by
      refine ⟨time.trans_lt day_time, fun x => time.trans (unset (isSet.symm.trans x)), ?_, ?_⟩
      · show (Option.map _ f.desk.record).getD 0 < 1440
        rw [stands]; exact day
      · show _ = ((Option.map _ f.desk.record).getD []).length
        rw [stands]; exact editions }

theorem Keeps.settleCommand (h : Keeps False u s) (r : StartSpec) (inStart : s.desk.state = .start) :
    Keeps False u (s.settleCommand r) := by
  unfold State.settleCommand
  split
  · exact h.respond ..
  · next passed => exact h.trans (Keeps.settleDesk _ inStart (settleFault_dayStart passed))

/-! #### Power-on reset (R197) -/

/-- The part right after reset meets every invariant. -/
theorem afterReset_legal (straps : Nat) :
    let s := State.afterReset straps
    s.signalsAgree ∧ s.linkAgrees ∧ s.portServes ∧ s.portOwned ∧ s.memoryWf ∧ s.recordStands ∧
    s.lineLegal ∧ s.sharesKept ∧ s.attemptsLeft ∧ s.slotsLegal ∧ s.countsSaturate ∧ s.tablesWhole ∧
    s.clockLegal := by
  have dark : (State.afterReset straps).desk.lampPattern = .off := by
    simp [State.afterReset, Desk.reset, Desk.lampPattern, Desk.latched, LampInputs.dueWithPlan]
  refine ⟨⟨rfl, dark.symm⟩, ⟨⟨fun _ => rfl, fun _ => rfl⟩, fun _ => ⟨rfl, rfl⟩, fun _ => rfl⟩, fun _ => rfl,
    fun q a ha => ?_, rfl, ⟨fun _ => rfl, fun _ => rfl⟩, ⟨fun _ => rfl, Nat.zero_le _, fun x => ?_⟩,
    ⟨Nat.zero_le _, Nat.zero_le _, fun _ => Nat.zero_le _⟩,
    ⟨⟨fun _ => rfl, fun _ => rfl⟩, fun e he => ?_⟩, Nat.zero_le _, ?_, ⟨rfl, rfl⟩,
    ⟨Nat.zero_lt_succ _, fun _ => rfl, Nat.zero_lt_succ _, rfl⟩⟩
  · cases q <;> cases ha
  · cases x
  · cases he
  · rw [State.countsSaturate_iff]
    refine ⟨?_, Nat.zero_le _, Nat.zero_le _, Nat.zero_le _, fun l hl => ?_⟩
    · refine ⟨?_, ?_, ?_, ?_, ?_, ?_, ?_⟩ <;> exact Nat.zero_le _
    · rw [List.eq_of_mem_replicate hl]
      exact ⟨Nat.zero_le _, Nat.zero_le _⟩

theorem Keeps.powerOnReset (straps : Nat) (s : State) :
    Keeps False s { State.afterReset straps with freeReads := s.freeReads, pending := s.pending } := by
  obtain ⟨signals, _, serves, owned, memory, _, line, shares, attempts, slots, counts, tables, clock⟩ :=
    afterReset_legal straps
  exact {
    pending := rfl, signals := fun _ => signals, serves := fun _ => serves, owned := fun _ => owned,
    memory := fun _ => memory, shares := fun _ => shares, slots := fun _ => slots,
    counts := fun _ => counts, tables := fun _ => tables, link := False.elim, line := fun _ => line,
    attempts := fun _ => attempts, clock := fun _ => clock }

/-! #### Every row -/

/-- A desk state that takes a command other than SETTLE, REPORT and STATUS is not START (R184). -/
theorem started_of_taken {c : CommandName} {st : DeskState} (h : taken c st = true)
    (gated : c ≠ .settle ∧ c ≠ .report ∧ c ≠ .status) : st ≠ .start := by
  rintro rfl
  obtain ⟨a, b, d⟩ := gated
  simp [taken, a, b, d] at h

/-- Every row keeps the invariants, but for the desk link's. -/
theorem exec_next_keeps (i : Instr) (s : State) : ∃ t, exec i s = .next t ∧ Keeps False s t := by
  have begun : Keeps False s s := Keeps.refl s
  have inner := Inner.refl s
  cases i <;> refine ⟨_, rfl, ?_⟩
  case powerOnReset straps => exact Keeps.powerOnReset straps s
  case responseTransfer => exact begun.responseTransfer _
  case discardedCommandTransfer => exact (inner.raise _).keeps
  case unreadableCommand => exact begun.unreadableCommand _
  case openStory => exact Keeps.command fun _ _ _ h => h.unless _ (h.openStory ..)
  case place =>
    exact Keeps.ite (fun _ => begun.unreadable _) fun _ =>
      Keeps.command fun _ _ _ h => h.unless _ (h.place ..)
  case readText => exact Keeps.command fun _ _ _ h => h.unless _ (h.continueRead _)
  case dropStory =>
    exact Keeps.command fun _ _ _ h => h.unless _ ((h.inner ((Inner.refl _).freeStory _).settleRows).done _)
  case storyState =>
    refine Keeps.command fun _ _ _ h => ?_
    repeat' split
    · exact h.done _
    · exact h.refuse _
    · exact h.done _
  case resolve => exact Keeps.command fun _ _ _ h => h.unless _ ((h.resolve ..).done _)
  case lineRetry => exact Keeps.command fun _ _ _ h => h.lineRetry
  case lineCounts => exact Keeps.command fun _ _ _ h => h.done _
  case pass => exact Keeps.command fun _ _ _ h => h.unless _ (h.startPass ..)
  case cancelPass => exact Keeps.command fun _ _ _ h => h.cancelPass _
  case answerOffer => exact Keeps.command fun _ _ _ h => h.answerOffer ..
  case passTable => exact Keeps.command fun _ _ _ h => h.done _
  case fit => exact Keeps.command fun _ _ _ h => h.unless _ (h.requestFit ..)
  case fitStatus => exact Keeps.command fun _ _ _ h => h.fitStatus _
  case fitDepth => exact Keeps.command fun _ _ _ h => h.fitDepth ..
  case planPage => exact Keeps.command fun _ _ _ h => h.planPage ..
  case clearPlan => exact Keeps.command fun _ _ _ h => h.clearPlan _
  case sendPage => exact Keeps.command fun _ _ _ h => h.sendPage _
  case cancelPage => exact Keeps.command fun _ _ _ h => h.cancelPage _
  case pageTable => exact Keeps.command fun _ _ _ h => h.done _
  case setClock => exact Keeps.command fun _ _ _ h => h.setClockCommand _
  case clockStatus => exact Keeps.command fun _ _ _ h => h.done _
  case view => exact Keeps.command fun _ _ _ h => h.unless _ (h.view ..)
  case scroll => exact Keeps.command fun _ _ _ h => h.unless _ (h.scroll ..)
  case cursor => exact Keeps.command fun _ _ _ h => h.unless _ (h.setCursor ..)
  case sendFlash => exact Keeps.command fun _ _ _ h => h.unless _ (h.sendFlash ..)
  case screenStatus => exact Keeps.command fun _ _ _ h => h.screenStatus
  case settle =>
    refine Keeps.command fun t same accepted h => h.settleCommand _ ?_
    subst same
    cases hs : s.desk.state with
    | start => exact hs
    | onLine | unattended => simp [taken, hs] at accepted
  case tend =>
    refine Keeps.command fun t same accepted h => h.tend _ ?_
    subst same
    exact started_of_taken accepted (by decide)
  case report => exact Keeps.command fun _ _ _ h => h.report
  case status => exact Keeps.command fun _ _ _ h => h.statusReply
  case restart =>
    refine Keeps.command fun t same accepted h => h.restart ?_
    subst same
    exact started_of_taken accepted (by decide)
  case rewriteAccessCompletion => exact begun.rewriteCompleted _
  case readTextAccessCompletion => exact begun.readTextCompleted _
  case slipWriteCompletion => exact begun.served s.slipWriteCompleted_served
  case offerCheckReadCompletion => exact begun.served (s.checkReadCompleted_served _)
  case slipReadCompletion => exact begun.served (s.slipReadCompleted_served _)
  case pageReadCompletion => exact begun.served (s.pageReadCompleted_served _)
  case fitReadCompletion => exact begun.served (s.fitReadCompleted_served _)
  case storeFitRecord => exact inner.fitStored.keeps
  case lineWalkReadCompletion => exact begun.served (s.walkCompleted_served _)
  case renderReadCompletion => exact begun.served (s.renderCompleted_served _)
  case startMarkBegin => exact begun.beginAttempt _
  case arbitrationLost => exact begun.arbitrationLost _
  case bitError => exact begun.bitError _
  case driveFault => exact begun.driveFault
  case slotEnd => exact begun.slotsRead ..
  case frameEnd => exact begun.frameEnded _
  case frameAbandoned => exact (inner.abandonFrame _).keeps
  case stuckLine => exact begun.stuckLine _
  case stuckRelease => exact begun.stuckReleased _
  case joinComplete => exact begun.joinCounted _
  case flashDispatch => exact (inner.dispatch _ fun _ => inner.applyFlash ..).keeps
  case timeMarkDispatch => exact begun.dispatch _ fun _ => begun.markOwner _
  case offerDispatch => exact (inner.dispatch _ fun _ => inner.testOffer ..).keeps
  case takeDispatch => exact (inner.dispatch _ fun _ => inner.receiveTake ..).keeps
  case declineDispatch => exact (inner.dispatch _ fun _ => inner.declineOwner _).keeps
  case withdrawDispatch => exact (inner.dispatch _ fun _ => inner.receiveWithdraw ..).keeps
  case widthsDispatch => exact (inner.dispatch _ fun _ => inner.widthsOwner _).keeps
  case slipDispatch => exact inner.slipDispatched.keeps
  case answerTimerExpiry => exact (inner.answerTimerExpired _).keeps
  case offerQueueTimerExpiry => exact (inner.offerTimerExpired _).keeps
  case gapTimerExpiry => exact (inner.gapTimerExpired _).keeps
  case secondEvent => exact begun.second.inner (Inner.refl _).settle
  case rowSlot => exact inner.rowSlotEvent.keeps
  case holdTimerExpiry => exact inner.holdExpired.keeps
  case tendTimerExpiry => exact begun.tendExpired
  case lampPhaseToggle => exact begun.togglePhase
  case startMarkRecognised => exact (inner.startMark ..).keeps
  case dominantLevelNotStartMark => exact begun.passedOver _

theorem exec_keeps {i : Instr} {s t : State} (h : exec i s = .next t) : Keeps False s t := by
  obtain ⟨t', row, kept⟩ := exec_next_keeps i s
  cases row.symm.trans h
  exact kept

/-- A step is a row on the state without it, or leaves the state. -/
theorem step_cases {s t : State} (h : step s = .next t) :
    t = s ∨ ∃ i rest, exec i { s with pending := rest } = .next t := by
  unfold step at h
  split at h
  · cases h; exact .inl rfl
  · next i rest _ => exact .inr ⟨i, rest, h⟩

/-- Every step keeps the invariants, but for the desk link's and the queue. -/
theorem step_keeps {s t : State} (h : step s = .next t) :
    ∃ s', (s' = s ∨ ∃ rest, s' = { s with pending := rest }) ∧ Keeps False s' t := by
  obtain rfl | ⟨i, rest, row⟩ := step_cases h
  · exact ⟨t, .inl rfl, Keeps.refl t⟩
  · exact ⟨_, .inr ⟨rest, rfl⟩, exec_keeps row⟩

end Meanings

end Sys2Proof.Machine


namespace Sys2Proof.Machine

/-! ## What a command's owner answers (R181, section 4.7 of 00_scope.md) -/

/-- The command in progress has been carried out: the desk link stands, but for a DONE that is ready or an
operation that goes on. -/
structure Carried (s t : State) : Prop where
  ready : t.desk.ready = s.desk.ready
  command : t.desk.command = s.desk.command
  answer : t.desk.response = none ∨
    t.desk.op = .idle ∧ ∃ r, t.desk.response = some r ∧ r.result = .done

/-- The owner of a command refuses it on the state as it found it, or carries it out. -/
def Replies (s t : State) : Prop := (∃ r f d, t = s.respond r f d) ∨ Carried s t

section Owners

variable {s t : State}

theorem Replies.respond (r : Result) (f : Option (FieldName × Nat)) (d : ResponseData) (s : State) :
    Replies s (s.respond r f d) := .inl ⟨r, f, d, rfl⟩

theorem Replies.refuse (r : Result) (s : State) : Replies s (s.refuse r) := .respond ..

theorem Replies.ite {c : Prop} [Decidable c] {a b : State} (yes : c → Replies s a)
    (no : ¬c → Replies s b) : Replies s (if c then a else b) := by
  split
  · next hc => exact yes hc
  · next hc => exact no hc

/-- DONE after changes that leave the desk link. -/
theorem Replies.doneOf (link : t.desk.link = s.desk.link) (d : ResponseData) : Replies s (t.done d) := by
  simp only [Desk.link, Prod.mk.injEq] at link
  obtain ⟨ready, command, _, _⟩ := link
  exact .inr ⟨ready, command, .inr ⟨rfl, _, rfl, rfl⟩⟩

theorem Inner.done (k : Inner s t) (d : ResponseData) : Replies s (t.done d) := Replies.doneOf k.link d

theorem Keeps.doneLinked (k : Keeps True s t) (d : ResponseData) : Replies s (t.done d) :=
  Replies.doneOf (k.link trivial) d

theorem Replies.unless (refusal : Option Result) {go : State → State} (carried : Replies s (go s)) :
    Replies s (s.unless refusal go) := by
  unfold State.unless
  split
  · exact Replies.refuse ..
  · exact carried

/-- Changes that leave the desk link, and then an operation of the command in progress that goes on. -/
theorem Inner.operate (k : Inner s t) (silent : s.desk.response = none) (op : LinkOp) {v : State}
    (after : Inner (t.onDesk fun d => { d with op := op }) v) : Carried s v where
  ready := after.ready.trans k.ready
  command := after.command.trans k.command
  answer := .inl (after.response.trans (k.response.trans silent))

theorem Replies.completePlace {s t : State} (ready : t.desk.ready = s.desk.ready)
    (command : t.desk.command = s.desk.command) (r : Rewrite) : Replies s (t.completePlace r) := by
  unfold State.completePlace
  extract_lets used extra stored
  have told := ((Inner.refl (stored.onDesk fun d => { d with op := .idle })).notifyTextChanged r.key).settleRows
  generalize ((stored.onDesk fun d => { d with op := .idle }).notifyTextChanged r.key).settleRows = v
    at told ⊢
  exact .inr ⟨told.ready.trans ready, told.command.trans command, .inr ⟨rfl, _, rfl, rfl⟩⟩

theorem Replies.continuePlace (silent : s.desk.response = none) (k : Inner s t) (r : Rewrite) :
    Replies s (t.continuePlace r) := by
  unfold State.continuePlace
  dsimp only
  repeat' split
  · exact .inr (k.operate silent _ ((Inner.refl _).requestChain ..))
  · exact .inr (k.operate silent _ ((Inner.refl _).requestChain ..))
  · exact Replies.completePlace k.ready k.command r

theorem Replies.continueRead (silent : s.desk.response = none) (r : ReadOp) :
    Replies s (s.continueRead r) :=
  Replies.ite (fun _ => .inr ((Inner.refl s).operate silent _ ((Inner.refl _).request _)))
    fun _ => (Inner.refl s).done _

theorem Replies.startPass (k : Key) (dest : Address) (keep : Bool) (s : State) :
    Replies s (s.startPass k dest keep) := by
  unfold State.startPass
  split
  · exact Replies.refuse ..
  · next n _ =>
      exact ((((Inner.refl s).onPass _ List.length_set rfl).beginPass k).prepareOffer n
        k).settleSlips.settleRows.done _

theorem Replies.cancelPass (k : Key) (s : State) : Replies s (s.cancelPass k) := by
  unfold State.cancelPass
  split
  · exact Replies.refuse ..
  · next n p _ =>
      have ended := (Inner.refl s).endReturn n p .cancelled
      exact Replies.ite (fun _ => Replies.refuse ..) fun _ =>
        (Inner.ite (fun _ => ended.sendWithdraw ..) fun _ => ended).settleSlips.done _

theorem Replies.fitDepth (k : Key) (columns budget : Nat) (s : State) :
    Replies s (s.fitDepth k columns budget) := by
  unfold State.fitDepth
  repeat' split
  · exact Replies.refuse ..
  · exact Replies.refuse ..
  · exact Replies.refuse ..
  · exact (Inner.refl s).done _

theorem Replies.planPage (slot page edition : Nat) (send : Bool) (l : List PlacementSpec) (s : State) :
    Replies s (s.planPage slot page edition send l) := by
  unfold State.planPage
  repeat' split
  · exact Replies.refuse ..
  · exact Replies.refuse ..
  · exact Replies.respond ..
  · exact ((((Inner.refl s).oldPlanLeaves slot).onPage _).planEnters _).done _

theorem Replies.sendPage (slot : Nat) (s : State) : Replies s (s.sendPage slot) := by
  unfold State.sendPage
  repeat' split
  · exact Replies.refuse ..
  · exact Replies.refuse ..
  · exact Replies.refuse ..
  · exact Replies.respond ..
  · next p _ _ _ _ =>
      have locked := (Inner.refl s).foldl (fun _ q ht => ht.takeLock q.key slot) p.placements
      exact ((((locked.onPlan slot _).planLeaves p.edition).onPage _).settle).done _

theorem Replies.setClockCommand (n : Nat) (s : State) : Replies s (s.setClockCommand n) := by
  refine Replies.ite (fun _ => Replies.refuse ..) fun day => ?_
  have set : Keeps True s (s.setClock n).1 := (Keeps.refl s).setClock n (Nat.not_le.mp day)
  exact (set.inner (Inner.ite (fun _ => (Inner.refl _).sendMark _) fun _ =>
    Inner.refl _).settle).doneLinked _

theorem Replies.lineRetry (s : State) : Replies s s.lineRetry := by
  refine Replies.ite (fun _ => ?_) fun _ => Replies.refuse ..
  have joining : Inner (((s.onLine fun l => { l with quiet := 0, join := 0, recessive := 0 }).onLine
      fun l => { l with state := .joining })) s.enterJoining :=
    Inner.ite (fun _ => Inner.refl _) fun _ => (Inner.refl _).tellLine _
  have link : s.enterJoining.settleRows.desk.link = s.desk.link := joining.settleRows.link
  exact Replies.doneOf link _

theorem Replies.settleDesk (record : StartRecord) (s : State) : Replies s (s.settleDesk record) := by
  unfold State.settleDesk
  extract_lets recorded joined opened told
  have lining : Inner ((recorded.startLanes.onLine fun l => { l with quiet := 0, join := 0, recessive := 0 }).onLine
      fun l => { l with state := .joining }) joined :=
    Inner.ite (fun _ => Inner.refl _) fun _ => (Inner.refl _).tellLine _
  have telling : Inner opened told := (Inner.refl opened).tellCurrent _
  have ending : Inner (told.onDesk fun d => Desk.refresh { d with state := .onLine })
      (told.enterDesk .onLine).settleRows := ((Inner.refl _).tellStatus _).settleRows
  refine Replies.doneOf ?_ _
  calc _ = (Desk.refresh { told.desk with state := .onLine }).link := ending.link
    _ = told.desk.link := by simp [Desk.link]
    _ = joined.desk.link := telling.link
    _ = recorded.desk.link := lining.link
    _ = s.desk.link := by
      show (Desk.refresh { s.desk with record := some record, tendTimer := some firstWindow }).link = _
      simp [Desk.link]

theorem Replies.restart (silent : s.desk.response = none) (started : s.desk.state ≠ .start) :
    Replies s s.restart := by
  have begun : Keeps True s s.restartDesk :=
    (Keeps.refl s).refresh (fun d =>
      { d with notices := 0#18, missed := 0, state := .onLine, tendTimer := some firstWindow })
      (.inr ⟨started, fun x => by cases x⟩) rfl rfl fun _ => Nat.zero_le _
  have outside : s.restartDesk.desk.state ≠ .start := by
    show (Desk.refresh _).state ≠ _
    rw [Desk.refresh_state]
    exact fun x => by cases x
  have blocks := begun.restartBlocks outside
  have link := blocks.link trivial
  simp only [Desk.link, Prod.mk.injEq] at link
  obtain ⟨ready, command, response, _⟩ := link
  unfold State.restart
  generalize s.restartDesk.restartBlocks = b at ready command response
  right
  dsimp only
  split
  · have rows := (Inner.refl (b.onDesk fun d => { d with op := .restarting })).settleRows
    exact ⟨rows.ready.trans ready, rows.command.trans command,
      .inl (rows.response.trans (response.trans silent))⟩
  · have rows := (Inner.refl (b.done .nothing)).settleRows
    exact ⟨rows.ready.trans ready, rows.command.trans command,
      .inr ⟨rows.op, _, rows.response, rfl⟩⟩

theorem Inner.useFree (h : Inner s t) : Inner s t.useFree := { h with }

theorem Inner.usedTendLeft (h : Inner s t) : Inner s t.usedTendLeft :=
  Inner.ite (fun _ => h.useFree) fun _ => h

theorem Replies.report (s : State) : Replies s s.report := by
  have used : Keeps True s s.usedTendLeft := (Inner.refl s).usedTendLeft.keeps
  exact (used.refresh (fun d => { d with notices := 0#18 }) (.inl rfl) rfl rfl id).doneLinked _

/-- The owners of all commands but ANSWER OFFER and TEND refuse on the state as it stood, or carry out. -/
theorem command_replies {i : Instr} {c : CommandName} {f : List Byte} (fields : commandFields i = some (c, f))
    (notAnswer : c ≠ .answerOffer) (notTend : c ≠ .tend) :
    (∀ s, exec i s = .next (s.unreadable (nameByte c))) ∨
    ∃ owner, (∀ s, exec i s = .next (s.command c owner)) ∧
      ∀ s, s.desk.response = none → taken c s.desk.state = true → Replies s (owner s) := by
  cases i <;> cases fields
  case answerOffer => exact absurd rfl notAnswer
  case tend => exact absurd rfl notTend
  case place k start stop text =>
    by_cases tooLong : 32 < text.length
    · exact .inl fun _ => congrArg Host.Outcome.next (if_pos tooLong)
    · refine .inr ⟨_, fun _ => congrArg Host.Outcome.next (if_neg tooLong), fun s silent _ => ?_⟩
      exact Replies.unless _ (Replies.continuePlace silent
        ((((Inner.refl s).onStore (Store.beginPlace k _) id id).notifyInEdit k).settleRows) _)
  all_goals refine .inr ⟨_, fun _ => rfl, fun s silent accepted => ?_⟩
  case openStory => exact Replies.unless _ (((Inner.refl s).onStore _ id id).done _)
  case readText => exact Replies.unless _ (Replies.continueRead silent _)
  case dropStory => exact Replies.unless _ (((Inner.refl s).freeStory _).settleRows.done _)
  case storyState =>
    repeat' split
    · exact (Inner.refl s).done _
    · exact Replies.refuse ..
    · exact (Inner.refl s).done _
  case resolve =>
    exact Replies.unless _ ((Inner.ite (fun _ => (Inner.refl s).returnStory _) fun _ =>
      Inner.ite (fun _ => (Inner.refl s).carbonStory _) fun _ =>
        ((Inner.refl s).freeStory _).settleRows).done _)
  case lineRetry => exact Replies.lineRetry s
  case lineCounts => exact (Inner.refl s).done _
  case pass => exact Replies.unless _ (Replies.startPass ..)
  case cancelPass => exact Replies.cancelPass ..
  case passTable => exact (Inner.refl s).done _
  case fit => exact Replies.unless _ (((Inner.refl s).onFit _).settleFits.done _)
  case fitStatus => exact Replies.ite (fun _ => Replies.refuse ..) fun _ => (Inner.refl s).done _
  case fitDepth => exact Replies.fitDepth ..
  case planPage => exact Replies.planPage ..
  case clearPlan =>
    exact Replies.ite (fun _ => Replies.refuse ..) fun _ => Replies.ite (fun _ => Replies.refuse ..)
      fun _ => (((Inner.refl s).oldPlanLeaves _).onPage _).done _
  case sendPage => exact Replies.sendPage ..
  case cancelPage =>
    exact Replies.ite (fun _ => Replies.refuse ..) fun _ => Replies.ite (fun _ => Replies.refuse ..)
      fun _ => ((Inner.refl s).endPlan ..).settle.done _
  case pageTable => exact (Inner.refl s).done _
  case setClock => exact Replies.setClockCommand ..
  case clockStatus => exact (Inner.refl s).done _
  case view => exact Replies.unless _ ((((Inner.refl s).dirty _ _).onWindow _ _).settleRows.done _)
  case scroll => exact Replies.unless _ ((((Inner.refl s).dirty _ _).onWindow _ _).settleRows.done _)
  case cursor => exact Replies.unless _ ((((Inner.refl s).dirty _ _).onWindow _ _).settleRows.done _)
  case sendFlash =>
    exact Replies.unless _ ((((Inner.refl s).send _ _).applyFlash ..).settleRows.done _)
  case screenStatus => exact Inner.done (Inner.ite (fun _ => (Inner.refl s).useFree) fun _ => Inner.refl s) _
  case settle =>
    unfold State.settleCommand
    split
    · exact Replies.respond ..
    · exact Replies.settleDesk ..
  case report => exact Replies.report s
  case status => exact (Inner.refl s).usedTendLeft.done _
  case restart => exact Replies.restart silent (started_of_taken accepted (by decide))

end Owners

end Sys2Proof.Machine


namespace Sys2Proof.Machine

open Sys2Proof

/-! ## What every step keeps: the statements -/

/-- Settles O7, from what every row keeps. -/
theorem signalsAgree : Obligations.SignalsAgree := by
  intro s t legal row
  obtain ⟨_, rfl | ⟨rest, rfl⟩, kept⟩ := step_keeps row
  · exact kept.signals legal
  · exact kept.signals legal

/-- Settles O9, from what every row keeps. -/
theorem portServes : Obligations.PortServes := by
  intro s t row
  obtain ⟨_, rfl | ⟨rest, rfl⟩, kept⟩ := step_keeps row
  · exact ⟨kept.serves, kept.owned⟩
  · exact ⟨kept.serves, kept.owned⟩

/-- Settles O10, from what every row keeps. -/
theorem memoryKeepsForm : Obligations.MemoryKeepsForm := by
  intro s t legal row
  obtain ⟨_, rfl | ⟨rest, rfl⟩, kept⟩ := step_keeps row
  · exact kept.memory legal
  · exact kept.memory legal

/-- Settles O11, from what every row keeps. -/
theorem lineLegal : Obligations.LineLegal := by
  intro s t legal row
  obtain ⟨_, rfl | ⟨rest, rfl⟩, kept⟩ := step_keeps row
  · exact kept.line legal
  · exact kept.line legal

/-- Settles O12, from what every row keeps. -/
theorem attemptsLeft : Obligations.AttemptsLeft := by
  intro s t legal row
  obtain ⟨_, rfl | ⟨rest, rfl⟩, kept⟩ := step_keeps row
  · exact kept.attempts legal
  · exact kept.attempts legal

/-- Settles O13, from what every row keeps. -/
theorem trafficLegal : Obligations.TrafficLegal := by
  intro s t row
  obtain ⟨_, rfl | ⟨rest, rfl⟩, kept⟩ := step_keeps row
  · exact ⟨kept.shares, fun slots counts => ⟨kept.slots slots, kept.counts counts⟩, kept.tables⟩
  · exact ⟨kept.shares, fun slots counts => ⟨kept.slots slots, kept.counts counts⟩, kept.tables⟩

/-- Settles O14, from what every row keeps. -/
theorem clockLegal : Obligations.ClockLegal := by
  intro s t legal row
  obtain ⟨_, rfl | ⟨rest, rfl⟩, kept⟩ := step_keeps row
  · exact kept.clock legal
  · exact kept.clock legal

/-- Settles O16: no row's meaning writes the queue of rows that wait. -/
theorem queueUntouched : Obligations.QueueUntouched := fun _ _ _ row => (exec_keeps row).pending

/-- Settles O3. -/
theorem resetLegal : Obligations.ResetLegal := afterReset_legal

/-- Settles O1: `step` takes the front row off the queue before it carries it out. -/
theorem stepRunsFront : Obligations.StepRunsFront :=
  ⟨fun i rest s front => by simp [step, front], fun s none => by simp [step, none]⟩

/-! ## The reset state (R23, R47, R64, R94, R117, R139, R158, R178, R197) -/

theorem length_blocksFrom (n count : Nat) : (blocksFrom n count).length = count := by
  induction count generalizing n with
  | zero => rfl
  | succ count ih => simp [blocksFrom, ih]

theorem getElem?_blocksFrom {i count : Nat} (n : Nat) (h : i < count) :
    (blocksFrom n count)[i]? = some (n + i) := by
  induction count generalizing n i with
  | zero => omega
  | succ count ih =>
    cases i with
    | zero => rfl
    | succ i =>
      rw [blocksFrom, List.getElem?_cons_succ, ih (n + 1) (by omega)]
      congr 1
      omega

/-- Settles O2, block by block of the reset state. -/
theorem powerOnResetLeaves : Obligations.PowerOnResetLeaves := by
  intro straps s
  refine ⟨_, rfl, rfl, ?_, ⟨rfl, rfl, rfl, rfl, rfl⟩, ⟨rfl, rfl, rfl, rfl, rfl, rfl⟩,
    ⟨rfl, rfl, rfl, rfl, rfl, rfl⟩, ⟨rfl, rfl, rfl⟩, ⟨rfl, rfl, rfl, rfl, rfl⟩, ?_, ?_⟩
  · have pool (b : Nat) (h : b < 2048) : (blocksFrom 0 2048)[b]? = some b := by
      simpa using getElem?_blocksFrom 0 h
    exact ⟨rfl, rfl, length_blocksFrom 0 2048, pool, rfl, rfl, rfl, rfl, rfl, rfl⟩
  · have blank (w : Window) (h : w ∈ List.replicate 8 Window.blank) : w = Window.blank :=
      List.eq_of_mem_replicate h
    have unsent (l : Lane) (h : l ∈ List.replicate 8 ({ rows := 0, keeps := 0, last := none } : Lane)) :
        l.rows = 0 ∧ l.keeps = 0 ∧ l.last = none := by
      rw [List.eq_of_mem_replicate h]
      exact ⟨rfl, rfl, rfl⟩
    exact ⟨rfl, rfl, rfl, blank, unsent, rfl, rfl, rfl, rfl, rfl⟩
  · have quiet (n : Notice) : (Desk.reset straps).latched n = false := by
      simp [Desk.latched, Desk.reset]
    exact ⟨rfl, rfl, rfl, rfl, rfl, quiet, rfl, rfl, rfl, rfl, rfl⟩

/-! ## Refusals (section 4.7 of 00_scope.md) -/

theorem Replies.refused {s t : State} {c : CommandName} {r : Response} (h : Replies (s.takeTransfer (nameByte c)) t)
    (answer : t.desk.response = some r) (refused : r.result ≠ .done) :
    t = s.replied c r.result r.field r.data := by
  obtain ⟨result, field, data, rfl⟩ | carried := h
  · cases answer; rfl
  · obtain silent | ⟨_, _, done, isDone⟩ := carried.answer
    · exact absurd (answer.symm.trans silent) nofun
    · cases answer.symm.trans done
      exact absurd isDone refused

/-- Settles O15: the owner of a command refuses it on the state it found. -/
theorem refusedChangesNothing : Obligations.RefusedChangesNothing := by
  intro i c f s t r fields notAnswer notTend ready silent row answer refused
  obtain unread | ⟨owner, exec_eq, replies⟩ := command_replies fields notAnswer notTend
  · rw [unread] at row
    cases row
    have badField : s.unreadable (nameByte c) = (s.takeTransfer (nameByte c)).refuse .badField := by
      simp [State.unreadable, ready]
    rw [badField] at answer ⊢
    exact (Replies.refuse ..).refused answer refused
  · rw [exec_eq] at row
    cases row
    cases accepted : taken c s.desk.state with
    | false =>
      rw [State.command_refused ready accepted] at answer ⊢
      exact (Replies.refuse ..).refused answer refused
    | true =>
      rw [State.command_taken ready accepted] at answer ⊢
      exact (replies (s.takeTransfer (nameByte c)) silent accepted).refused answer refused

end Sys2Proof.Machine


namespace Sys2Proof.Machine

open Sys2Proof

/-! ## READY, the command in progress, its response and its operation (R180 to R182) -/

/-- The command in progress stands, and a response that is ready has ended its operation. -/
structure Answers (s t : State) : Prop where
  ready : t.desk.ready = s.desk.ready
  command : t.desk.command = s.desk.command
  ended : t.desk.response ≠ none → t.desk.op = .idle

section Links

variable {s t u : State}

theorem State.linkAgrees_of_link (link : t.desk.link = s.desk.link) (h : s.linkAgrees) : t.linkAgrees := by
  simp only [Desk.link, Prod.mk.injEq] at link
  obtain ⟨ready, command, response, op⟩ := link
  unfold State.linkAgrees at h ⊢
  rw [ready, command, response, op]
  exact h

theorem Answers.inner (h : Answers s t) (k : Inner t u) : Answers s u where
  ready := k.ready.trans h.ready
  command := k.command.trans h.command
  ended := by rw [k.response, k.op]; exact h.ended

theorem Answers.trans (h : Answers s t) (k : Answers t u) : Answers s u :=
  ⟨k.ready.trans h.ready, k.command.trans h.command, k.ended⟩

theorem Replies.answers (h : Replies s t) : Answers s t := by
  obtain ⟨_, _, _, rfl⟩ | carried := h
  · exact ⟨rfl, rfl, fun _ => rfl⟩
  · refine ⟨carried.ready, carried.command, fun answered => ?_⟩
    obtain silent | ⟨idle, _⟩ := carried.answer
    · exact absurd silent answered
    · exact idle

/-- While a command is in progress it may be answered. -/
theorem Answers.linkAgrees (h : Answers s t) (busy : s.desk.ready = false) (legal : s.linkAgrees) :
    t.linkAgrees := by
  obtain ⟨inProgress, _, _⟩ := legal
  have low : t.desk.ready = false := h.ready.trans busy
  refine ⟨?_, fun ready => ?_, h.ended⟩
  · rw [h.ready, h.command]; exact inProgress
  · exact absurd (low.symm.trans ready) nofun

/-- An operation goes on only while READY is low, without a response. -/
theorem State.linkAgrees.busy (legal : s.linkAgrees) (op : s.desk.op ≠ .idle) :
    s.desk.ready = false ∧ s.desk.response = none := by
  obtain ⟨_, free, ended⟩ := legal
  constructor
  · cases ready : s.desk.ready with
    | false => rfl
    | true => exact absurd (free ready).2 op
  · exact Classical.not_not.mp fun answered => op (ended answered)

/-- A transfer taken as a command while READY is high puts its command in progress. -/
theorem State.linkAgrees.takeTransfer (legal : s.linkAgrees) (ready : s.desk.ready = true) (name : Byte) :
    (s.takeTransfer name).linkAgrees := by
  obtain ⟨_, free, _⟩ := legal
  obtain ⟨silent, idle⟩ := free ready
  exact ⟨⟨nofun, nofun⟩, nofun, fun _ => idle⟩

theorem State.linkAgrees.taken (legal : s.linkAgrees) (ready : s.desk.ready = true) {name : Byte}
    (h : Answers (s.takeTransfer name) t) : t.linkAgrees :=
  h.linkAgrees rfl (legal.takeTransfer ready name)

theorem State.linkAgrees.discardTransfer (legal : s.linkAgrees) : s.discardTransfer.linkAgrees :=
  State.linkAgrees_of_link ((Inner.refl s).raise _).link legal

theorem State.linkAgrees.unreadable (legal : s.linkAgrees) (name : Byte) : (s.unreadable name).linkAgrees := by
  unfold State.unreadable
  split
  · next ready => exact legal.taken ready (Replies.refuse ..).answers
  · exact legal.discardTransfer

theorem State.linkAgrees.command (legal : s.linkAgrees) {c : CommandName} {owner : State → State}
    (owned : ∀ v : State, v.desk.response = none → Machine.taken c v.desk.state = true → Answers v (owner v)) :
    (s.command c owner).linkAgrees := by
  cases ready : s.desk.ready with
  | false =>
    rw [State.command_notReady ready]
    exact legal.discardTransfer
  | true =>
    have silent : s.desk.response = none := (legal.2.1 ready).1
    cases accepted : Machine.taken c s.desk.state with
    | false =>
      rw [State.command_refused ready accepted]
      exact legal.taken ready (Replies.refuse ..).answers
    | true =>
      rw [State.command_taken ready accepted]
      exact legal.taken ready (owned _ silent accepted)

/-! ### The two commands whose refusals have effects of their own -/

theorem Inner.respond (k : Inner s t) (r : Result) (f : Option (FieldName × Nat)) (d : ResponseData) :
    Answers s (t.respond r f d) := ⟨k.ready, k.command, fun _ => rfl⟩

theorem State.answerOffer_answers (k : Key) (take : Bool) (s : State) : Answers s (s.answerOffer k take) := by
  have declined (q : QueuedOffer) (r : DeclineReason) : Inner s (s.declineOffer q r).settleRows :=
    ((Inner.refl s).declineOffer q r).settleRows
  unfold State.answerOffer State.takeQueued
  dsimp only
  repeat' split
  · exact (Replies.refuse ..).answers
  · exact (declined ..).respond ..
  · exact (declined ..).respond ..
  · exact (((Inner.refl s).takeOffer ..).removeOffer _).settleRows.respond ..
  · exact (declined ..).respond ..
  · exact (declined ..).respond ..
  · exact (Replies.refuse ..).answers
  · exact (declined ..).respond ..

theorem State.tend_answers (byte : Byte) (started : s.desk.state ≠ .start) : Answers s (s.tend byte) := by
  have window : Keeps True s (s.onDesk fun d => { d with tendTimer := some s.tendWindow, missed := 0 }) :=
    (Keeps.refl s).onTend _ 0 (by decide)
  unfold State.tend
  dsimp only
  split
  · split
    · exact (((window.enterDesk .onLine started (by decide)).inner
        (Inner.refl _).settleRows).doneLinked _).answers
    · exact (window.doneLinked _).answers
  · exact ((Inner.refl s).raise _).respond ..

/-! ### Accesses -/

theorem State.endAccess_op (h : s.desk.op ≠ .restarting) : Inner s s.endAccess := by
  unfold State.endAccess
  exact Inner.ite (fun restarting => absurd restarting h) fun _ => (Inner.refl s).complete

theorem State.linkAgrees.endAccess (legal : s.linkAgrees) : s.endAccess.linkAgrees := by
  have served : Inner s (s.onPort Port.complete) := (Inner.refl s).complete
  by_cases restarting : s.desk.op = .restarting
  · have busy := (legal.busy (by rw [restarting]; nofun)).1
    unfold State.endAccess
    dsimp only
    split
    · exact (served.respond ..).linkAgrees busy legal
    · exact State.linkAgrees_of_link served.link legal
  · exact State.linkAgrees_of_link (State.endAccess_op restarting).link legal

theorem Served.linkAgrees (h : Served s t) (legal : s.linkAgrees) : t.linkAgrees := by
  obtain rfl | inner := h
  · exact legal
  · exact State.linkAgrees_of_link inner.link legal.endAccess

theorem State.linkAgrees.rewriteCompleted (legal : s.linkAgrees) (upsets : List Upset) :
    (s.rewriteCompleted upsets).linkAgrees := by
  unfold State.rewriteCompleted
  split
  · next a r _ op =>
    obtain ⟨busy, silent⟩ := legal.busy (by rw [op]; nofun)
    have ended := State.endAccess_op (s := s) (by rw [op]; nofun)
    split
    · exact (Replies.continuePlace silent (ended.readBlock a upsets) _).answers.linkAgrees busy legal
    · exact (Replies.continuePlace silent (ended.writeBlock a _ _) _).answers.linkAgrees busy legal
    · exact legal
  · exact legal

theorem State.linkAgrees.readTextCompleted (legal : s.linkAgrees) (upsets : List Upset) :
    (s.readTextCompleted upsets).linkAgrees := by
  unfold State.readTextCompleted
  split
  · next a r _ op =>
    obtain ⟨busy, silent⟩ := legal.busy (by rw [op]; nofun)
    have read : Inner s (s.endRead a upsets).1 :=
      (State.endAccess_op (by rw [op]; nofun)).readBlock a upsets
    have noAnswer : (s.endRead a upsets).1.desk.response = none := read.response.trans silent
    have start : Answers s (s.endRead a upsets).1 := ⟨read.ready, read.command, fun x => absurd noAnswer x⟩
    exact (start.trans (Replies.continueRead noAnswer _).answers).linkAgrees busy legal
  · exact legal

/-! ### Every row -/

theorem State.linkAgrees.responseTransfer (legal : s.linkAgrees) (clocked : Nat) :
    (s.responseTransfer clocked).linkAgrees := by
  unfold State.responseTransfer
  split
  · exact State.linkAgrees_of_link rfl legal
  · next r answered =>
    split
    · have idle : s.desk.op = .idle := legal.2.2 (by rw [answered]; nofun)
      exact ⟨⟨fun _ => rfl, fun _ => rfl⟩, fun _ => ⟨rfl, idle⟩, fun _ => idle⟩
    · exact State.linkAgrees_of_link rfl legal

theorem State.linkAgrees.unreadableCommand (legal : s.linkAgrees) (name : Option CommandName) :
    (s.unreadableCommand name).linkAgrees := by
  unfold State.unreadableCommand
  cases name with
  | some c => exact legal.unreadable _
  | none =>
    have used : s.useFree.linkAgrees := State.linkAgrees_of_link (Inner.refl s).useFree.link legal
    dsimp only
    split
    · exact used.unreadable _
    · exact legal.discardTransfer

/-- A host command keeps the desk link's invariant. -/
theorem command_linkAgrees {i : Instr} {c : CommandName} {f : List Byte}
    (fields : commandFields i = some (c, f)) (legal : s.linkAgrees) :
    ∃ t, exec i s = .next t ∧ t.linkAgrees := by
  by_cases answer : c = .answerOffer
  · subst answer
    cases i <;> cases fields
    exact ⟨_, rfl, legal.command fun v _ _ => v.answerOffer_answers ..⟩
  by_cases tending : c = .tend
  · subst tending
    cases i <;> cases fields
    exact ⟨_, rfl, legal.command fun v _ accepted =>
      v.tend_answers _ (started_of_taken accepted (by decide))⟩
  obtain unread | ⟨owner, exec_eq, replies⟩ := command_replies fields answer tending
  · exact ⟨_, unread s, legal.unreadable _⟩
  · exact ⟨_, exec_eq s, legal.command fun v silent accepted => (replies v silent accepted).answers⟩

theorem exec_linkAgrees (i : Instr) (legal : s.linkAgrees) : ∃ t, exec i s = .next t ∧ t.linkAgrees := by
  have begun : Keeps True s s := Keeps.refl s
  have inner := Inner.refl s
  have linked {t : State} (k : Keeps True s t) : t.linkAgrees :=
    State.linkAgrees_of_link (k.link trivial) legal
  have kept {t : State} (k : Inner s t) : t.linkAgrees := State.linkAgrees_of_link k.link legal
  cases fields : commandFields i with
  | some command => exact command_linkAgrees fields legal
  | none =>
    cases i <;> first | (cases fields; done) | refine ⟨_, rfl, ?_⟩
    case powerOnReset straps => exact (afterReset_legal straps).2.1
    case responseTransfer => exact legal.responseTransfer _
    case discardedCommandTransfer => exact legal.discardTransfer
    case unreadableCommand => exact legal.unreadableCommand _
    case rewriteAccessCompletion => exact legal.rewriteCompleted _
    case readTextAccessCompletion => exact legal.readTextCompleted _
    case slipWriteCompletion => exact s.slipWriteCompleted_served.linkAgrees legal
    case offerCheckReadCompletion => exact (s.checkReadCompleted_served _).linkAgrees legal
    case slipReadCompletion => exact (s.slipReadCompleted_served _).linkAgrees legal
    case pageReadCompletion => exact (s.pageReadCompleted_served _).linkAgrees legal
    case fitReadCompletion => exact (s.fitReadCompleted_served _).linkAgrees legal
    case storeFitRecord => exact kept inner.fitStored
    case lineWalkReadCompletion => exact (s.walkCompleted_served _).linkAgrees legal
    case renderReadCompletion => exact (s.renderCompleted_served _).linkAgrees legal
    case startMarkBegin => exact linked (begun.beginAttempt _)
    case arbitrationLost => exact linked (begun.arbitrationLost _)
    case bitError => exact linked (begun.bitError _)
    case driveFault => exact linked begun.driveFault
    case slotEnd => exact linked (begun.slotsRead ..)
    case frameEnd => exact linked (begun.frameEnded _)
    case frameAbandoned => exact kept (inner.abandonFrame _)
    case stuckLine => exact linked (begun.stuckLine _)
    case stuckRelease => exact linked (begun.stuckReleased _)
    case joinComplete => exact linked (begun.joinCounted _)
    case flashDispatch => exact kept (inner.dispatch _ fun _ => inner.applyFlash ..)
    case timeMarkDispatch => exact linked (begun.dispatch _ fun _ => begun.markOwner _)
    case offerDispatch => exact kept (inner.dispatch _ fun _ => inner.testOffer ..)
    case takeDispatch => exact kept (inner.dispatch _ fun _ => inner.receiveTake ..)
    case declineDispatch => exact kept (inner.dispatch _ fun _ => inner.declineOwner _)
    case withdrawDispatch => exact kept (inner.dispatch _ fun _ => inner.receiveWithdraw ..)
    case widthsDispatch => exact kept (inner.dispatch _ fun _ => inner.widthsOwner _)
    case slipDispatch => exact kept inner.slipDispatched
    case answerTimerExpiry => exact kept (inner.answerTimerExpired _)
    case offerQueueTimerExpiry => exact kept (inner.offerTimerExpired _)
    case gapTimerExpiry => exact kept (inner.gapTimerExpired _)
    case secondEvent => exact linked (begun.second.inner (Inner.refl _).settle)
    case rowSlot => exact kept inner.rowSlotEvent
    case holdTimerExpiry => exact kept inner.holdExpired
    case tendTimerExpiry => exact linked begun.tendExpired
    case lampPhaseToggle =>
      refine State.linkAgrees_of_link ?_ legal
      show s.togglePhase.desk.link = _
      unfold State.togglePhase
      split <;> rfl
    case startMarkRecognised => exact kept (inner.startMark ..)
    case dominantLevelNotStartMark => exact linked (begun.passedOver _)

end Links

/-- Settles O8: READY falls with the command that is taken and rises with its response's discard. -/
theorem linkAgrees : Obligations.LinkAgrees := by
  intro s t legal row
  obtain rfl | ⟨i, rest, row⟩ := step_cases row
  · exact legal
  · have stands : ({ s with pending := rest } : State).linkAgrees := legal
    obtain ⟨t', row', kept⟩ := exec_linkAgrees i stands
    cases row'.symm.trans row
    exact kept

end Sys2Proof.Machine


namespace Sys2Proof.Machine

open Sys2Proof

/-! ## Bits and bytes (R198, R203) -/

theorem ofBits_from (a : Nat) (bits : List Bool) :
    bits.foldl (fun acc b => 2 * acc + b.toNat) a = a * 2 ^ bits.length + ofBits bits := by
  unfold ofBits
  induction bits generalizing a with
  | nil => simp
  | cons b rest ih =>
    rw [List.foldl_cons, List.foldl_cons, ih (2 * a + b.toNat), ih (2 * 0 + b.toNat),
      List.length_cons, Nat.pow_succ]
    ring

theorem ofBits_append (a b : List Bool) : ofBits (a ++ b) = ofBits a * 2 ^ b.length + ofBits b := by
  rw [ofBits, List.foldl_append, ofBits_from]
  rfl

theorem bitsOf_succ (width n : Nat) : bitsOf (width + 1) n = bitsOf width (n / 2) ++ [n.testBit 0] := by
  simp only [bitsOf, List.range_succ, List.map_append, List.map_cons, List.map_nil]
  congr 1
  · refine List.map_congr_left fun i lt => ?_
    rw [List.mem_range] at lt
    rw [Nat.testBit_div_two]
    congr 1
    omega
  · rw [Nat.add_sub_cancel, Nat.sub_self]

/-- A number is read back from as many bits as it needs. -/
theorem ofBits_bitsOf (width n : Nat) : ofBits (bitsOf width n) = n % 2 ^ width := by
  induction width generalizing n with
  | zero => simp [bitsOf, ofBits, Nat.mod_one]
  | succ width ih =>
    have low : ofBits [n.testBit 0] = n % 2 := by
      rw [Nat.testBit_zero]
      rcases Nat.mod_two_eq_zero_or_one n with h | h <;> simp [ofBits, h]
    rw [bitsOf_succ, ofBits_append, ih, low, List.length_singleton, Nat.pow_succ' (n := width),
      Nat.mod_mul]
    omega

theorem ofBits_bitsOf_of_lt {width n : Nat} (h : n < 2 ^ width) : ofBits (bitsOf width n) = n := by
  rw [ofBits_bitsOf, Nat.mod_eq_of_lt h]

theorem bitsOf_byte (b : Byte) : bitsOf 8 b.toNat = (List.range 8).map fun i => b.getLsbD (7 - i) := rfl

/-- Bytes are read back from their bits, whatever follows. -/
theorem bytesOfBits_byteBits (bytes : List Byte) (tail : List Bool) :
    bytesOfBits bytes.length (byteBits bytes ++ tail) = bytes := by
  induction bytes with
  | nil => rfl
  | cons b rest ih =>
    have cut : byteBits (b :: rest) ++ tail = bitsOf 8 b.toNat ++ (byteBits rest ++ tail) := by
      simp [byteBits]
    have whole : (bitsOf 8 b.toNat).length = 8 := bitsOf_length 8 _
    rw [cut, List.length_cons, bytesOfBits, List.take_left' whole, List.drop_left' whole, ih,
      ofBits_bitsOf_of_lt b.isLt, BitVec.ofNat_toNat, BitVec.setWidth_eq]

/-! ## The wires of the desk link (R203) -/

theorem risingBits_clocked (bits : List Bool) (before : Bool) :
    risingBits before (bits.flatMap fun b => [(false, b), (true, b)]) = bits := by
  induction bits generalizing before with
  | nil => rfl
  | cons b rest ih => simp [risingBits, ih]

/-- Whole bytes come through the wires, and fewer than eight bits after them are dropped. -/
theorem linkBytes_byteBits (bytes : List Byte) {tail : List Bool} (short : tail.length < 8) :
    linkBytes (byteBits bytes ++ tail) = bytes := by
  have count : (byteBits bytes ++ tail).length / 8 = bytes.length := by
    rw [List.length_append, byteBits_length]
    omega
  rw [linkBytes, count, bytesOfBits_byteBits]

theorem taken_eq_false {c : CommandName} {d : DeskState}
    (h : (d = .start ∧ c ≠ .settle ∧ c ≠ .report ∧ c ≠ .status) ∨ (d ≠ .start ∧ c = .settle)) :
    taken c d = false := by
  obtain ⟨rfl, settle, report, status⟩ | ⟨settled, rfl⟩ := h
  · simp [taken, settle, report, status]
  · cases d <;> simp_all [taken]

/-- A well-formed command reaches its owner: a PLACE text of more than 32 characters is not one. -/
theorem exec_of_wellFormed {i : Instr} {c : CommandName} {f : List Byte} (sound : i.wellFormed = true)
    (fields : commandFields i = some (c, f)) : ∃ owner, ∀ s, exec i s = .next (s.command c owner) := by
  obtain owned | unread := exec_of_commandFields fields
  · exact owned
  · cases i <;> cases fields
    case inr.place.refl k start stop text =>
      have short : ¬32 < text.length := by
        simp only [Instr.wellFormed, Bool.and_eq_true, decide_eq_true_eq] at sound
        omega
      exact ⟨_, fun _ => congrArg Host.Outcome.next (if_neg short)⟩
    all_goals exact ⟨_, fun _ => rfl⟩

/-- Settles O18. -/
theorem commandsScreened : Obligations.CommandsScreened := by
  refine ⟨fun ready bytes tail short => ?_, fun i c f s sound fields ready barred => ?_,
    fun bytes command unread => ?_, fun s ready => ⟨fun c => ?_, Config.unreadName s.freeReads, ?_⟩⟩
  · show rowOfTransfer ready (linkBytes (risingBits false _)) = _
    rw [risingBits_clocked]
    exact congrArg _ (linkBytes_byteBits bytes short)
  · obtain ⟨owner, exec_eq⟩ := exec_of_wellFormed sound fields
    rw [exec_eq, State.command_refused ready (taken_eq_false barred)]
    rfl
  · simp [rowOfTransfer, command, unread]
  · show Host.Outcome.next (s.unreadable (nameByte c)) = _
    simp only [State.unreadable, ready, if_true]
    rfl
  · show Host.Outcome.next (if s.desk.ready then _ else _) = _
    simp only [ready, if_true]
    show Host.Outcome.next (if s.desk.ready then _ else _) = _
    simp only [ready, if_true]
    rfl

/-! ## Response transfers (R182) -/

theorem shiftedOut_of_le {message : List Byte} {n : Nat} (h : message.length ≤ n) :
    shiftedOut message n = message ++ List.replicate (n - message.length) 0#8 := by
  rw [shiftedOut, List.take_of_length_le]
  simp only [List.length_append, List.length_replicate]
  omega

theorem shiftedOut_of_lt {message : List Byte} {n : Nat} (h : n < message.length) :
    shiftedOut message n = message.take n := by
  rw [shiftedOut, List.take_append_of_le_length h.le]

theorem shiftedOut_none (n : Nat) : shiftedOut noneBytes n = List.replicate n 0#8 := by
  rw [shiftedOut, noneBytes, List.length_replicate, List.replicate_append_replicate, List.take_replicate]
  congr 1
  omega

section

variable {s : State} (n : Nat)

theorem State.responseTransfer_none (silent : s.desk.response = none) :
    s.responseTransfer n = s.onDesk fun d => { d with sent := List.replicate n 0#8 } := by
  simp only [State.responseTransfer, silent, shiftedOut_none]

theorem State.responseTransfer_whole {r : Response} (answered : s.desk.response = some r)
    (whole : r.bytes.length ≤ n) :
    s.responseTransfer n =
      s.onDesk fun d =>
        { d with sent := r.bytes ++ List.replicate (n - r.bytes.length) 0#8, response := none,
                 command := none, ready := true } := by
  simp only [State.responseTransfer, answered, whole, if_true, shiftedOut_of_le whole]

theorem State.responseTransfer_part {r : Response} (answered : s.desk.response = some r)
    (part : n < r.bytes.length) :
    s.responseTransfer n = s.onDesk fun d => { d with sent := r.bytes.take n } := by
  simp only [State.responseTransfer, answered, Nat.not_le.mpr part, if_false, shiftedOut_of_lt part]

end

/-- Settles O19. -/
theorem responseTransferred : Obligations.ResponseTransferred := fun n _ =>
  ⟨fun silent => congrArg Host.Outcome.next (State.responseTransfer_none n silent), fun _ answered =>
    ⟨fun whole => congrArg Host.Outcome.next (State.responseTransfer_whole n answered whole),
      fun part => congrArg Host.Outcome.next (State.responseTransfer_part n answered part)⟩⟩

end Sys2Proof.Machine


namespace Sys2Proof.Machine

open Sys2Proof

/-! ## The first place of a list (indexWhere) -/

theorem indexWhere_eq_some {α : Type} {p : α → Bool} {l : List α} {i : Nat} :
    indexWhere p l = some i ↔
      (∃ x, l[i]? = some x ∧ p x = true) ∧ ∀ j, j < i → ∀ x, l[j]? = some x → p x = false := by
  unfold indexWhere
  dsimp only
  constructor
  · intro h
    split at h
    · next lt =>
      cases h
      refine ⟨⟨_, List.getElem?_eq_getElem lt, List.findIdx_getElem⟩, fun j before x here => ?_⟩
      obtain ⟨lt_j, rfl⟩ := List.getElem?_eq_some_iff.mp here
      exact List.not_of_lt_findIdx before
    · cases h
  · rintro ⟨⟨x, here, holds⟩, before⟩
    obtain ⟨lt, rfl⟩ := List.getElem?_eq_some_iff.mp here
    have index : l.findIdx p = i :=
      (List.findIdx_eq lt).mpr ⟨holds, fun j lt_j => before j lt_j _ (List.getElem?_eq_getElem _)⟩
    rw [index, if_pos lt]

theorem indexWhere_eq_none {α : Type} {p : α → Bool} {l : List α} :
    indexWhere p l = none ↔ ∀ x ∈ l, p x = false := by
  unfold indexWhere
  dsimp only
  split
  · next lt =>
    refine iff_of_false nofun fun h => ?_
    have holds : p l[l.findIdx p] = true := List.findIdx_getElem
    exact absurd (holds.symm.trans (h _ (List.getElem_mem lt))) nofun
  · next ge =>
    refine iff_of_true rfl fun x mem => Bool.eq_false_iff.mpr fun holds => ge ?_
    exact List.findIdx_lt_length.mpr ⟨x, mem, holds⟩

/-! ## The serial OPEN STORY gives (R2) -/

/-- The key of this station with serial `n` is that of a record or of an inbound entry. -/
def State.serialInUse (s : State) (n : Nat) : Prop :=
  (∃ r ∈ s.store.stories, r.key = { origin := s.desk.station, serial := n }) ∨
    ∃ b, some b ∈ s.pass.inbound ∧ b.offer.key = { origin := s.desk.station, serial := n }

/-- The serial `n` after the counter's value, 1 after 4095. -/
def serialAfter (c n : Nat) : Nat := (c - 1 + n) % 4095 + 1

section Serials

variable {s : State}

theorem State.inboundOf_isSome (k : Key) :
    (s.inboundOf k).isSome = true ↔ ∃ b, some b ∈ s.pass.inbound ∧ b.offer.key = k := by
  unfold State.inboundOf
  cases found : indexWhere (fun o : Option Inbound => o.any fun b => decide (b.offer.key = k))
      s.pass.inbound with
  | none =>
    rw [indexWhere_eq_none] at found
    refine iff_of_false nofun ?_
    rintro ⟨b, mem, same⟩
    have := found _ mem
    simp [same] at this
  | some i =>
    obtain ⟨⟨o, here, holds⟩, _⟩ := indexWhere_eq_some.mp found
    obtain ⟨b, rfl, same⟩ := (Option.any_eq_true _ _).mp holds
    refine iff_of_true ?_ ⟨b, List.mem_of_getElem? here, of_decide_eq_true same⟩
    simp [State.inbound, List.getD_eq_getElem?_getD, here]

theorem State.keyInUse_iff (n : Nat) : s.keyInUse (s.ownKey n) = true ↔ s.serialInUse n := by
  have record : (s.story (s.ownKey n)).isSome = true ↔
      ∃ r ∈ s.store.stories, r.key = s.ownKey n := by
    simp [State.story, Store.story]
  rw [State.keyInUse, Bool.or_eq_true, record, State.inboundOf_isSome]
  rfl

theorem nextSerial_eq {c : Nat} (low : 1 ≤ c) (high : c ≤ 4095) : nextSerial c = serialAfter c 1 := by
  unfold nextSerial serialAfter
  split <;> omega

theorem serialAfter_succ {c : Nat} (low : 1 ≤ c) (high : c ≤ 4095) (n : Nat) :
    serialAfter (nextSerial c) n = serialAfter c (n + 1) := by
  rw [nextSerial_eq low high]
  unfold serialAfter
  omega

/-- The candidates are passed over while they are in use. -/
theorem State.freeSerial_eq {n tries c : Nat} (low : 1 ≤ c) (high : c ≤ 4095) (lt : n < tries)
    (free : ¬s.serialInUse (serialAfter c n)) (used : ∀ m, m < n → s.serialInUse (serialAfter c m)) :
    s.freeSerial tries c = serialAfter c n := by
  induction n generalizing tries c with
  | zero =>
    obtain _ | tries := tries
    · omega
    have here : serialAfter c 0 = c := by unfold serialAfter; omega
    rw [here] at free
    rw [State.freeSerial, if_neg (by rwa [State.keyInUse_iff]), here]
  | succ n ih =>
    obtain _ | tries := tries
    · omega
    have here : serialAfter c 0 = c := by unfold serialAfter; omega
    have taken := used 0 n.succ_pos
    rw [here] at taken
    have range : 1 ≤ nextSerial c ∧ nextSerial c ≤ 4095 := by unfold nextSerial; split <;> omega
    obtain ⟨low', high'⟩ := range
    rw [State.freeSerial, if_pos (by rwa [State.keyInUse_iff]), ih low' high' (by omega)]
    · exact serialAfter_succ low high n
    · rwa [serialAfter_succ low high]
    · intro m lt_m
      rw [serialAfter_succ low high]
      exact used (m + 1) (by omega)

/-- The serials of the records and of the inbound entries. -/
def State.serials (s : State) : List Nat :=
  (s.store.stories.map fun r => r.key.serial) ++
    s.pass.inbound.filterMap fun o => o.map fun b => b.offer.key.serial

theorem State.length_serials :
    s.serials.length = s.store.stories.length + (s.pass.inbound.filter Option.isSome).length := by
  have entries (l : List (Option Inbound)) :
      (l.filterMap fun o => o.map fun b => b.offer.key.serial).length = (l.filter Option.isSome).length := by
    induction l with
    | nil => rfl
    | cons o rest ih => cases o <;> simp [ih]
  rw [State.serials, List.length_append, List.length_map, entries]

theorem State.serialInUse.mem {n : Nat} (h : s.serialInUse n) : n ∈ s.serials := by
  obtain ⟨r, mem, key⟩ | ⟨b, mem, key⟩ := h
  · exact List.mem_append_left _ (List.mem_map.mpr ⟨r, mem, by rw [key]⟩)
  · exact List.mem_append_right _ (List.mem_filterMap.mpr ⟨some b, mem, by rw [Option.map_some, key]⟩)

/-- Of 65 candidates one is free where 64 keys at most are in use. -/
theorem State.exists_free (few : s.serials.length ≤ 64) (c : Nat) :
    ∃ n, n < 65 ∧ ¬s.serialInUse (serialAfter c n) := by
  by_contra none
  push Not at none
  have distinct : ((List.range 65).map (serialAfter c)).Nodup := by
    refine List.Nodup.map_on (fun a ha b hb same => ?_) List.nodup_range
    rw [List.mem_range] at ha hb
    unfold serialAfter at same
    omega
  have inside : (List.range 65).map (serialAfter c) ⊆ s.serials := by
    intro x mem
    obtain ⟨n, lt, rfl⟩ := List.mem_map.mp mem
    exact (none n (List.mem_range.mp lt)).mem
  have le := (distinct.subperm inside).length_le
  rw [List.length_map, List.length_range] at le
  omega

end Serials

/-- Settles O22: 65 candidates, 64 keys in use at most. -/
theorem openSerialFree : Obligations.OpenSerialFree := by
  intro s low high few inUse candidate
  rw [← State.length_serials] at few
  have exists_free := State.exists_free few s.store.serial
  classical
  have least := Nat.find_spec exists_free
  have before (m : Nat) (lt : m < Nat.find exists_free) : s.serialInUse (serialAfter s.store.serial m) := by
    have := Nat.find_min exists_free lt
    by_contra free
    exact this ⟨by omega, free⟩
  have given : s.openSerial = serialAfter s.store.serial (Nat.find exists_free) :=
    State.freeSerial_eq low high least.1 least.2 before
  exact ⟨Nat.find exists_free, by omega, given, by rw [given]; exact least.2, before⟩

end Sys2Proof.Machine


namespace Sys2Proof.Machine

open Sys2Proof

/-! ## The bytes of a response (R203) -/

theorem flagByte_eq (b : Bool) : flagByte b = [if b = true then 1#8 else 0#8] := by cases b <;> rfl

theorem optional_none {α : Type} (f : α → List Byte) : optional f none = [0#8] := rfl

theorem currentBytes_eq (c : Current) :
    currentBytes c = (match c with | none => [0#8] | some (n, _) => 1#8 :: oneByte n) := by
  cases c <;> rfl

theorem resultCode_eq (r : Result) :
    BitVec.ofNat 8 (resultCode r) =
      (match r with
      | .done => 0x00
      | .wrongState => 0x01
      | .noStory => 0x02
      | .noRoom => 0x03
      | .full => 0x04
      | .busy => 0x05
      | .locked => 0x06
      | .damaged => 0x07
      | .badField => 0x08
      | .badText => 0x09
      | .tooLong => 0x0A
      | .closed => 0x0B : Byte) := by cases r <;> rfl

theorem Response.bytes_eq (r : Response) :
    r.bytes = [r.name, BitVec.ofNat 8 (resultCode r.result)] ++ fieldBytes r.field ++
      twoBytes (dataBytes r.data).length ++ dataBytes r.data := rfl

theorem fieldNumber_injective {f g : FieldName} (h : fieldNumber f = fieldNumber g) : f = g := by
  cases f <;> cases g <;> first | rfl | cases h

/-- The record of a story that is not in DOUBT, without lock, fit record and sender (R19). -/
theorem storyBytes_plain {r : Story} (notDoubt : ∀ c, r.custody ≠ .doubt c) (unlocked : r.lock = none)
    (unfitted : r.fit = none) (own : r.receivedFrom = none) :
    storyBytes r =
      keyBytes r.key ++ (r.slug ++ List.replicate 12 0#8).take 12 ++ oneByte r.edition ++
        oneByte r.custody.code ++ twoBytes r.length ++ twoBytes r.chain.length ++
        [if r.damaged = true then 1#8 else 0#8, 0#8, 0#8, 0#8, if r.inEdit = true then 1#8 else 0#8] := by
  simp only [storyBytes, unlocked, unfitted, own, optional_none, flagByte_eq, slugBytes]
  simp only [List.append_assoc, List.nil_append, List.cons_append]

theorem editionStatusBytes_eq (e : EditionSpec × EditionState) :
    editionStatusBytes e =
      twoBytes e.1.deadline ++ oneByte e.1.lead ++ oneByte e.1.margin ++ twoBytes (e.1.deadline - e.1.lead) ++
        twoBytes e.1.deadline ++ twoBytes (min (e.1.deadline + e.1.margin) 1439) ++ oneByte e.2.code := rfl

/-! ## The table commands (R19, R63, R93, R115, R138, R157) -/

section Tables

variable {s : State}

theorem exec_storyState (hears : s.hearsHost) (k : Option Key) :
    exec (.storyState k) s =
      .next (match k with
        | none => s.replied .storyState .done none (.storyState none s.store.totals)
        | some k =>
            match s.story k with
            | none => s.replied .storyState .noStory none .nothing
            | some r => s.replied .storyState .done none (.storyState (some r) s.store.totals)) := by
  refine (congrArg Host.Outcome.next (State.command_of_hearsHost hears (by decide))).trans ?_
  cases k with
  | none => rfl
  | some k =>
    have same : (s.takeTransfer (nameByte .storyState)).story k = s.story k := rfl
    dsimp only
    rw [same]
    cases s.story k <;> rfl

theorem exec_fitStatus (hears : s.hearsHost) (face : Option Nat) :
    exec (.fitStatus face) s =
      .next (if face.any fun f => !within 0 3 f then s.replied .fitStatus .badField none .nothing
        else s.replied .fitStatus .done none
          (.fitStatus s.fit.faces face s.fit.queue s.fit.run s.fit.waiting s.fit.last)) := by
  refine (congrArg Host.Outcome.next (State.command_of_hearsHost hears (by decide))).trans ?_
  unfold State.fitStatus
  split <;> rfl

/-- A command that only answers. -/
theorem exec_answers {i : Instr} {c : CommandName} {d : State → ResponseData} (hears : s.hearsHost)
    (row : exec i s = .next (s.command c fun t => t.done (d t)))
    (same : d (s.takeTransfer (nameByte c)) = d s) (notSettle : c ≠ .settle) :
    exec i s = .next (s.replied c .done none (d s)) := by
  rw [row, State.command_of_hearsHost hears notSettle, ← same]
  rfl

end Tables

/-- Settles O20. -/
theorem tablesReported : Obligations.TablesReported := by
  refine ⟨fun r => ?bytes, fun f g => fieldNumber_injective, ?data, fun r x notDoubt unlocked unfitted own => ?story,
    fun st n c queue slots => ?lineCounts, fun time isSet dayStart dayTime source own editions c ignored queued => ?clock,
    fun s d hears record => ?tables⟩
  case bytes =>
    refine ⟨fun plain => ?_, fun f i named => ?_⟩
    · rw [Response.bytes_eq, plain, resultCode_eq]; rfl
    · rw [Response.bytes_eq, named, resultCode_eq]; rfl
  case data =>
    refine ⟨rfl, fun _ => rfl, fun _ => rfl, fun _ => rfl, fun _ => rfl, flagByte_eq,
      fun lead indent joined => ?_, fun _ _ _ _ _ => rfl, fun _ => rfl, fun _ => rfl,
      fun kind applied time c => ?_, fun _ _ => rfl, fun notices st n left => ?_⟩
    · rw [← flagByte_eq]; rfl
    · cases c <;> rfl
    · cases left <;> rfl
  case story =>
    show storyBytes r ++ totalsBytes x = _
    rw [storyBytes_plain notDoubt unlocked unfitted own]
    simp only [totalsBytes, List.append_assoc]
  case lineCounts =>
    simp only [dataBytes, counted, countsBytes, List.append_assoc]
  case clock =>
    simp only [dataBytes, counted, currentBytes_eq, flagByte_eq, List.append_assoc]
    rfl
  case tables =>
    refine ⟨exec_storyState hears none, fun k r here => ?_, fun k missing => ?_,
      ?lines, ?passes, fun face low => ?_, fun f high => ?_, ?pages, ?clockStatus⟩
    · rw [exec_storyState hears]; simp only [here]; rfl
    · rw [exec_storyState hears]; simp only [missing]
    case lines =>
      have retry : s.retryLimit = d.retry := by simp [State.retryLimit, record]
      rw [← retry]
      exact (exec_answers (i := .lineCounts) (c := .lineCounts) hears rfl rfl (by decide) :)
    case passes =>
      have ask : s.asks = d.ask := by simp [State.asks, record]
      have answer : (s.desk.record.map (·.answerTime)).getD 0 = d.answerTime := by simp [record]
      have gap : (s.desk.record.map (·.gapTime)).getD 0 = d.gapTime := by simp [record]
      rw [← ask, ← answer, ← gap]
      exact (exec_answers (i := .passTable) (c := .passTable) hears rfl rfl (by decide) :)
    · rw [exec_fitStatus hears, if_neg]
      cases face with
      | none => exact nofun
      | some f => simpa [within] using low f rfl
    · rw [exec_fitStatus hears, if_pos]
      simpa [within] using high
    case pages => exact (exec_answers (i := .pageTable) (c := .pageTable) hears rfl rfl (by decide) :)
    case clockStatus =>
      have day : s.dayStart = d.dayStart := by simp [State.dayStart, record]
      have source : s.clockSource = d.clockSource := by simp [State.clockSource, record]
      have table : s.editionTable = d.editions := State.editionTable_of_record record
      rw [← day, ← source, ← table]
      exact (exec_answers (i := .clockStatus) (c := .clockStatus) hears rfl rfl (by decide) :)

/-! ## READ TEXT (R17) -/

section ReadText

variable {s : State} {k : Key} {offset count : Nat}

theorem exec_readText (hears : s.hearsHost) :
    exec (.readText k offset count) s =
      .next ((s.takeTransfer (nameByte .readText)).unless (s.readTextRefusal k offset count)
        (State.readText k offset count)) :=
  congrArg Host.Outcome.next (State.command_of_hearsHost hears (by decide))

theorem exec_readText_refused {r : Result} (hears : s.hearsHost)
    (refused : s.readTextRefusal k offset count = some r) :
    exec (.readText k offset count) s = .next (s.replied .readText r none .nothing) := by
  rw [exec_readText hears, refused, State.unless, State.takeTransfer_refuse]

theorem State.continueRead_goes {r : ReadOp} (more : r.got.length < r.count) :
    s.continueRead r =
      (s.onDesk fun d => { d with op := .reading r }).requestAccess .readText
        ((((s.story r.key).map (·.chain)).getD []).getD ((r.offset + r.got.length) / 32) 0)
        ((r.offset + r.got.length) % 32)
        (min (r.count - r.got.length) (32 - (r.offset + r.got.length) % 32)) := if_pos more

end ReadText

/-- Settles O28. -/
theorem readTextBegins : Obligations.ReadTextBegins := by
  intro k offset count s hears
  refine ⟨fun missing => exec_readText_refused hears (by simp [State.readTextRefusal, missing]),
    fun r here => ⟨fun unsound => ?_, fun low high inside => ?_⟩⟩
  · refine exec_readText_refused hears ?_
    have unsound' : ¬((1 ≤ count ∧ count ≤ 32) ∧ offset < r.length) := by rwa [and_assoc]
    simp only [State.readTextRefusal, here, Bool.and_eq_true, within_iff, decide_eq_true_eq, if_neg unsound']
  · intro n
    have passed : s.readTextRefusal k offset count = none := by
      simp [State.readTextRefusal, here, within, low, high, inside]
    let t := s.takeTransfer (nameByte .readText)
    have there : t.story k = some r := here
    have more : 0 < min count (r.length - offset) := by omega
    have begun : t.readText k offset count =
        t.continueRead { key := k, offset := offset, count := n, got := [] } := by
      simp only [State.readText, there]
      rfl
    rw [exec_readText hears, passed]
    show Host.Outcome.next (t.readText k offset count) = _
    rw [begun, State.continueRead_goes (by exact more)]
    simp only [there]
    rfl

end Sys2Proof.Machine


namespace Sys2Proof.Machine

open Sys2Proof

/-! ## Command messages (R203) -/

/-- A reader reads `x` from the bytes it is written as, whatever follows. -/
def Reads {α : Type} (r : Reader α) (bytes : List Byte) (x : α) : Prop :=
  ∀ rest, r (bytes ++ rest) = some (x, rest)

section Readers

theorem toNat_lowByte (n : Nat) : (BitVec.ofNat 8 n).toNat = n % 256 := BitVec.toNat_ofNat n 8

theorem readOne_oneByte {n : Nat} (h : fitsByte n = true) : Reads readOne (oneByte n) n := by
  intro rest
  rw [fitsByte, decide_eq_true_eq] at h
  simp [readOne, oneByte, Nat.mod_eq_of_lt h]

theorem readTwo_twoBytes {n : Nat} (h : fitsTwo n = true) : Reads readTwo (twoBytes n) n := by
  intro rest
  rw [fitsTwo, decide_eq_true_eq] at h
  show some (256 * (BitVec.ofNat 8 (n / 256)).toNat + (BitVec.ofNat 8 n).toNat, rest) = _
  rw [toNat_lowByte, toNat_lowByte]
  congr 2
  omega

theorem readThree_threeBytes {n : Nat} (h : n < 16777216) : Reads readThree (threeBytes n) n := by
  intro rest
  show some (65536 * (BitVec.ofNat 8 (n / 65536)).toNat +
    (256 * (BitVec.ofNat 8 (n / 256)).toNat + (BitVec.ofNat 8 n).toNat), rest) = _
  rw [toNat_lowByte, toNat_lowByte, toNat_lowByte]
  congr 2
  omega

theorem readKey_keyBytes {k : Key} (h : k.fits = true) : Reads readKey (keyBytes k) k := by
  intro rest
  obtain ⟨origin, serial⟩ := k
  simp only [Key.fits, fitsTwo, Bool.and_eq_true, decide_eq_true_eq] at h
  obtain ⟨origin_lt, serial_lt⟩ := h
  show some (({ origin := (BitVec.ofNat 8 (origin % 32)).toNat % 32,
                serial := 256 * (BitVec.ofNat 8 (serial / 256)).toNat + (BitVec.ofNat 8 serial).toNat } : Key),
    rest) = _
  rw [toNat_lowByte, toNat_lowByte, toNat_lowByte]
  congr 3 <;> omega

theorem readFlag_flagByte (b : Bool) : Reads readFlag (flagByte b) b := by
  intro rest
  cases b <;> rfl

theorem readFlag_choiceByte (first : Bool) : Reads readFlag (choiceByte first) (!first) := by
  intro rest
  cases first <;> rfl

theorem readBytes_append (bytes : List Byte) : Reads (readBytes bytes.length) bytes bytes := by
  intro rest
  simp [readBytes]

theorem readText_textField {text : List Byte} (h : fitsTwo text.length = true) :
    Reads readText (textField text) text := by
  intro rest
  rw [readText, textField, List.append_assoc, readTwo_twoBytes h]
  exact readBytes_append text rest

theorem slugBytes_eq {slug : List Byte} (h : slug.length ≤ 12) :
    slugBytes slug = slug ++ List.replicate (12 - slug.length) 0#8 := by
  rw [slugBytes, List.take_append, List.take_of_length_le h, List.take_replicate]
  congr 2
  omega

theorem readSlug_slugBytes {slug : List Byte} (h : slugFits slug = true) :
    Reads readSlug (slugBytes slug) slug := by
  intro rest
  simp only [slugFits, Bool.and_eq_true, decide_eq_true_eq, List.all_eq_true] at h
  obtain ⟨short, printed⟩ := h
  have whole : (slugBytes slug).length = 12 := by
    rw [slugBytes_eq short, List.length_append, List.length_replicate]
    omega
  have cut : (slugBytes slug).takeWhile (· ≠ 0#8) = slug := by
    rw [slugBytes_eq short, List.takeWhile_append_of_pos (by simpa using printed), List.takeWhile_replicate_eq_filter]
    simp
  have read := readBytes_append (slugBytes slug) rest
  rw [whole] at read
  rw [readSlug, read, Option.map_some, cut]

theorem readOptional_optional {α : Type} {r : Reader α} {f : α → List Byte} {o : Option α}
    (h : ∀ x, o = some x → Reads r (f x) x) : Reads (readOptional r) (optional f o) o := by
  intro rest
  cases o with
  | none => rfl
  | some x =>
    have flag : readFlag (oneByte 1 ++ (f x ++ rest)) = some (true, f x ++ rest) := rfl
    rw [readOptional, optional, List.append_assoc, flag, Option.bind_some, if_pos rfl, h x rfl rest]
    rfl

theorem readMembers_flatMap {α : Type} {r : Reader α} {f : α → List Byte} {l : List α}
    (h : ∀ x ∈ l, Reads r (f x) x) : Reads (readMembers r l.length) (l.flatMap f) l := by
  induction l with
  | nil => exact fun _ => rfl
  | cons x l ih =>
    intro rest
    have first : r (f x ++ (l.flatMap f ++ rest)) = some (x, l.flatMap f ++ rest) :=
      h x List.mem_cons_self _
    rw [List.flatMap_cons, List.append_assoc, List.length_cons, readMembers]
    dsimp only
    rw [first, Option.bind_some,
      ih (fun y mem => h y (List.mem_cons_of_mem x mem)) rest]
    rfl

theorem readList_counted {α : Type} {r : Reader α} {f : α → List Byte} {l : List α}
    (short : fitsByte l.length = true) (h : ∀ x ∈ l, Reads r (f x) x) :
    Reads (readList r) (counted f l) l := by
  intro rest
  rw [readList, counted, List.append_assoc, readOne_oneByte short]
  exact readMembers_flatMap h rest

theorem readAddress_addressBytes {a : Address} (h : a.fits = true) :
    Reads readAddress (addressBytes a) a := by
  intro rest
  obtain ⟨form, number⟩ := a
  have flag (b : List Byte) : readFlag (oneByte (formCode form) ++ b) =
      some (decide (form = .role), b) := by cases form <;> rfl
  have one (b : List Byte) : readOne (oneByte number ++ b) = some (number, b) := readOne_oneByte h b
  simp only [readAddress, addressBytes, List.append_assoc, flag, one, bind, Option.bind, pure]
  cases form <;> rfl

theorem readSetting_settingBytes {t : Setting} (h : t.fits = true) :
    Reads readSetting (settingBytes t) t := by
  intro rest
  simp only [Setting.fits, Bool.and_eq_true, and_assoc] at h
  obtain ⟨face, measure, size, lead, indent⟩ := h
  simp only [readSetting, settingBytes, List.append_assoc, readOne_oneByte face _,
    readTwo_twoBytes measure _, readOne_oneByte size _, readOne_oneByte lead _,
    readOne_oneByte indent _, bind, Option.bind, pure]

theorem readPlacement_placementSpecBytes {p : PlacementSpec} (h : p.fits = true) :
    Reads readPlacement (placementSpecBytes p) p := by
  intro rest
  simp only [PlacementSpec.fits, Bool.and_eq_true, and_assoc] at h
  obtain ⟨key, columns, setting, budget⟩ := h
  simp only [readPlacement, placementSpecBytes, List.append_assoc, readKey_keyBytes key _,
    readOne_oneByte columns _, readSetting_settingBytes setting _, readTwo_twoBytes budget _, bind,
    Option.bind, pure]

theorem readEdition_editionBytes {e : EditionSpec} (h : e.fits = true) :
    Reads readEdition (editionBytes e) e := by
  intro rest
  simp only [EditionSpec.fits, Bool.and_eq_true, and_assoc] at h
  obtain ⟨deadline, lead, margin⟩ := h
  simp only [readEdition, editionBytes, List.append_assoc, readTwo_twoBytes deadline _,
    readOne_oneByte lead _, readOne_oneByte margin _, bind, Option.bind, pure]

theorem readThree_maskBytes (m : BitVec 24) : Reads readThree (maskBytes m) m.toNat :=
  readThree_threeBytes m.isLt

theorem readStart_startBytes {r : StartSpec} (h : r.fits = true) : Reads readStart (startBytes r) r := by
  intro rest
  simp only [StartSpec.fits, Bool.and_eq_true, List.all_eq_true, and_assoc] at h
  obtain ⟨rate, roleCount, roles, retry, typesetRole, policy, answerTime, gapTime, clockSource, dayStart,
    editionCount, editionLength, editions, screenCount, rowSlot, flashHold, tendWindow⟩ := h
  have roles (b : List Byte) : readList readOne (counted oneByte r.roles ++ b) = some (r.roles, b) :=
    readList_counted roleCount (fun n mem => readOne_oneByte (roles n mem)) b
  have table (b : List Byte) :
      readList readEdition (counted editionBytes r.editions ++ b) = some (r.editions, b) :=
    readList_counted editionLength (fun e mem => readEdition_editionBytes (editions e mem)) b
  simp only [readStart, startBytes, List.append_assoc, readOne_oneByte rate _, roles,
    readOne_oneByte retry _, readOne_oneByte typesetRole _, readOne_oneByte policy _,
    readTwo_twoBytes answerTime _, readTwo_twoBytes gapTime _, readOne_oneByte clockSource _,
    readTwo_twoBytes dayStart _, readOne_oneByte editionCount _, table, readOne_oneByte screenCount _,
    readOne_oneByte rowSlot _, readOne_oneByte flashHold _, readTwo_twoBytes tendWindow _,
    readThree_maskBytes r.mask _, bind, Option.bind, pure, BitVec.ofNat_toNat, BitVec.setWidth_eq]

end Readers

/-! ### The lengths of fields -/

section Lengths

theorem length_counted {α : Type} {f : α → List Byte} {n : Nat} (h : ∀ x, (f x).length = n) (l : List α) :
    (counted f l).length = 1 + n * l.length := by
  have members : (l.flatMap f).length = n * l.length := by
    induction l with
    | nil => rfl
    | cons x l ih => rw [List.flatMap_cons, List.length_append, h, ih, List.length_cons]; ring
  rw [counted, List.length_append, members]
  rfl

theorem length_optional_le {α : Type} {f : α → List Byte} {n : Nat} (h : ∀ x, (f x).length = n)
    (o : Option α) : (optional f o).length ≤ 1 + n := by
  cases o with
  | none => exact Nat.le_add_right 1 n
  | some x => rw [optional, List.length_append, h]; rfl

theorem length_slugBytes (slug : List Byte) : (slugBytes slug).length = 12 := by
  rw [slugBytes, List.length_take, List.length_append, List.length_replicate]
  omega

/-- The fields of a well-formed command have a length of two bytes. -/
theorem length_commandFields {i : Instr} {c : CommandName} {f : List Byte} (sound : i.wellFormed = true)
    (fields : commandFields i = some (c, f)) : f.length < 65536 := by
  have keys (k : Option Key) : (optional keyBytes k).length ≤ 4 :=
    length_optional_le (f := keyBytes) (n := 3) (fun _ => rfl) k
  have offsets (n : Option Nat) : (optional twoBytes n).length ≤ 3 :=
    length_optional_le (f := twoBytes) (n := 2) (fun _ => rfl) n
  cases i <;> cases fields
  case openStory slug edition => simp [slugField, length_slugBytes, oneByte]
  case place k start stop text =>
    simp only [Instr.wellFormed, Bool.and_eq_true, decide_eq_true_eq] at sound
    simp [keyBytes, twoBytes, textField]
    omega
  case storyState k => exact Nat.lt_of_le_of_lt (keys k) (by decide)
  case fitStatus face =>
    have := length_optional_le (f := oneByte) (n := 1) (fun _ => rfl) face
    exact Nat.lt_of_le_of_lt this (by decide)
  case planPage slot page edition send placements =>
    simp only [Instr.wellFormed, fitsByte, Bool.and_eq_true, decide_eq_true_eq] at sound
    have count : placements.length < 256 := sound.1.2
    have list : (counted placementSpecBytes placements).length = 1 + 12 * placements.length :=
      length_counted (f := placementSpecBytes) (n := 12) (fun _ => rfl) placements
    simp only [List.length_append, list, oneByte, flagByte, List.length_singleton]
    omega
  case view screen k edit top =>
    have := keys k
    simp only [List.length_append, oneByte, flagByte, twoBytes, List.length_cons, List.length_nil]
    omega
  case cursor screen offset =>
    have := offsets offset
    simp only [List.length_append, oneByte, List.length_singleton]
    omega
  case sendFlash text dest =>
    simp only [Instr.wellFormed, Bool.and_eq_true, decide_eq_true_eq] at sound
    simp [textField, addressBytes, oneByte, twoBytes]
    omega
  case settle r =>
    simp only [Instr.wellFormed, StartSpec.fits, fitsByte, Bool.and_eq_true, decide_eq_true_eq, and_assoc] at sound
    obtain ⟨_, roleCount, _, _, _, _, _, _, _, _, _, editionLength, _⟩ := sound
    have roles : (counted oneByte r.roles).length = 1 + 1 * r.roles.length :=
      length_counted (f := oneByte) (n := 1) (fun _ => rfl) r.roles
    have editions : (counted editionBytes r.editions).length = 1 + 4 * r.editions.length :=
      length_counted (f := editionBytes) (n := 4) (fun _ => rfl) r.editions
    simp only [startBytes, List.length_append, roles, editions, oneByte, twoBytes, maskBytes, threeBytes,
      List.length_cons, List.length_nil]
    omega
  all_goals simp [keyBytes, twoBytes, oneByte, choiceByte, addressBytes, flagByte, settingBytes, threeBytes]

end Lengths

/-! ### The commands -/

theorem commandOf_nameByte (c : CommandName) : commandOf (nameByte c).toNat = some c := by
  cases c <;> rfl

/-- The message is its name and its fields. -/
theorem readMessage_message {c : CommandName} {f : List Byte} (short : f.length < 65536) :
    readMessage (message c f) = readWhole c f := by
  have length : 256 * (BitVec.ofNat 8 (f.length / 256)).toNat + (BitVec.ofNat 8 f.length).toNat = f.length := by
    rw [toNat_lowByte, toNat_lowByte]
    omega
  show (if 0x43#8 = 0x43#8 ∧ 256 * (BitVec.ofNat 8 (f.length / 256)).toNat + (BitVec.ofNat 8 f.length).toNat ≤
      f.length then (commandOf (nameByte c).toNat).bind fun c => readWhole c (f.take _) else _) = _
  rw [length, if_pos ⟨rfl, Nat.le_refl _⟩, List.take_length, commandOf_nameByte]
  rfl

/-- The fields of a command are read back to the row they were written for. -/
theorem readFields_commandFields {i : Instr} {c : CommandName} {f : List Byte} (sound : i.wellFormed = true)
    (fields : commandFields i = some (c, f)) : Reads (readFields c) f i := by
  intro rest
  cases i <;> cases fields <;> simp only [Instr.wellFormed, Bool.and_eq_true, decide_eq_true_eq, and_assoc] at sound
  case openStory slug edition =>
    obtain ⟨slug, edition⟩ := sound
    simp only [readFields, slugField, List.append_assoc, readSlug_slugBytes slug _, readOne_oneByte edition _,
      bind, Option.bind, pure]
  case place k start stop text =>
    obtain ⟨key, start, stop, short⟩ := sound
    have text : fitsTwo text.length = true := by rw [fitsTwo, decide_eq_true_eq]; omega
    simp only [readFields, List.append_assoc, readKey_keyBytes key _, readTwo_twoBytes start _,
      readTwo_twoBytes stop _, readText_textField text _, bind, Option.bind, pure]
  case readText k offset count =>
    obtain ⟨key, offset, count⟩ := sound
    simp only [readFields, List.append_assoc, readKey_keyBytes key _, readTwo_twoBytes offset _,
      readTwo_twoBytes count _, bind, Option.bind, pure]
  case dropStory k => simp only [readFields, readKey_keyBytes sound _, Option.map_some]
  case storyState k =>
    have read := readOptional_optional (r := readKey) (f := keyBytes) (o := k) fun x here =>
      readKey_keyBytes (by simpa [here] using sound)
    simp only [readFields, read _, Option.map_some]
  case resolve k keep =>
    simp only [readFields, List.append_assoc, readKey_keyBytes sound _, readFlag_choiceByte keep _,
      bind, Option.bind, pure, Bool.not_not]
  case pass k dest keep =>
    obtain ⟨key, dest⟩ := sound
    simp only [readFields, List.append_assoc, readKey_keyBytes key _, readAddress_addressBytes dest _,
      readFlag_flagByte keep _, bind, Option.bind, pure]
  case cancelPass k => simp only [readFields, readKey_keyBytes sound _, Option.map_some]
  case answerOffer k take =>
    simp only [readFields, List.append_assoc, readKey_keyBytes sound _, readFlag_choiceByte take _,
      bind, Option.bind, pure, Bool.not_not]
  case fit k t =>
    obtain ⟨key, setting⟩ := sound
    simp only [readFields, List.append_assoc, readKey_keyBytes key _, readSetting_settingBytes setting _,
      bind, Option.bind, pure]
  case fitStatus face =>
    have read := readOptional_optional (r := readOne) (f := oneByte) (o := face) fun x here =>
      readOne_oneByte (by simpa [here] using sound)
    simp only [readFields, read _, Option.map_some]
  case fitDepth k columns budget =>
    obtain ⟨key, columns, budget⟩ := sound
    simp only [readFields, List.append_assoc, readKey_keyBytes key _, readOne_oneByte columns _,
      readTwo_twoBytes budget _, bind, Option.bind, pure]
  case planPage slot page edition send placements =>
    obtain ⟨slot, page, edition, count, all⟩ := sound
    have read (b : List Byte) :
        readList readPlacement (counted placementSpecBytes placements ++ b) = some (placements, b) :=
      readList_counted count
        (fun p mem => readPlacement_placementSpecBytes (List.all_eq_true.mp all p mem)) b
    simp only [readFields, List.append_assoc, readOne_oneByte slot _, readOne_oneByte page _,
      readOne_oneByte edition _, readFlag_flagByte send _, read, bind, Option.bind, pure]
  case clearPlan slot => simp only [readFields, readOne_oneByte sound _, Option.map_some]
  case sendPage slot => simp only [readFields, readOne_oneByte sound _, Option.map_some]
  case cancelPage slot => simp only [readFields, readOne_oneByte sound _, Option.map_some]
  case setClock time =>
    rw [fitsThree, decide_eq_true_eq] at sound
    simp only [readFields, readThree_threeBytes sound _, Option.map_some]
  case view screen k edit top =>
    obtain ⟨screen, keys, top⟩ := sound
    have read := readOptional_optional (r := readKey) (f := keyBytes) (o := k) fun x here =>
      readKey_keyBytes (by simpa [here] using keys)
    simp only [readFields, List.append_assoc, readOne_oneByte screen _, read _, readFlag_flagByte edit _,
      readTwo_twoBytes top _, bind, Option.bind, pure]
  case scroll screen top =>
    obtain ⟨screen, top⟩ := sound
    simp only [readFields, List.append_assoc, readOne_oneByte screen _, readTwo_twoBytes top _,
      bind, Option.bind, pure]
  case cursor screen offset =>
    obtain ⟨screen, offsets⟩ := sound
    have read := readOptional_optional (r := readTwo) (f := twoBytes) (o := offset) fun x here =>
      readTwo_twoBytes (by simpa [here] using offsets)
    simp only [readFields, List.append_assoc, readOne_oneByte screen _, read _, bind, Option.bind, pure]
  case sendFlash text dest =>
    obtain ⟨short, dest⟩ := sound
    have text : fitsTwo text.length = true := by rw [fitsTwo, decide_eq_true_eq]; omega
    simp only [readFields, List.append_assoc, readText_textField text _, readAddress_addressBytes dest _,
      bind, Option.bind, pure]
  case settle r => simp only [readFields, readStart_startBytes sound _, Option.map_some]
  all_goals rfl

/-- Settles O4: each field's reader takes back what its writer wrote. -/
theorem messageRoundTrip : Obligations.MessageRoundTrip := by
  intro i c f sound fields
  have read := readFields_commandFields sound fields []
  rw [List.append_nil] at read
  rw [readMessage_message (length_commandFields sound fields), readWhole, read]

end Sys2Proof.Machine


namespace Sys2Proof.Machine

open Sys2Proof

/-! ## The body of a frame (R29, R31, R198) -/

section Bodies

/-- A number's bits are read back from it. -/
theorem bitsOf_ofBits (bits : List Bool) : bitsOf bits.length (ofBits bits) = bits := by
  induction bits using List.reverseRecOn with
  | nil => rfl
  | append_singleton bits b ih =>
    have low : ofBits (bits ++ [b]) = 2 * ofBits bits + b.toNat := by
      rw [ofBits_append]
      cases b <;> simp [ofBits, Nat.mul_comm]
    have half : ofBits (bits ++ [b]) / 2 = ofBits bits := by rw [low]; cases b <;> simp; omega
    have last : (ofBits (bits ++ [b])).testBit 0 = b := by
      rw [Nat.testBit_zero, low]
      cases b <;> simp
    rw [List.length_append, List.length_singleton, bitsOf_succ, half, ih, last]

theorem ofBits_injective {a b : List Bool} (length : a.length = b.length) (same : ofBits a = ofBits b) :
    a = b := by
  rw [← bitsOf_ofBits a, ← bitsOf_ofBits b, length, same]

/-- The field after `a`. -/
theorem bodyField_append {a b c : List Bool} {start len : Nat} (ha : a.length = start) (hb : b.length = len) :
    bodyField (a ++ (b ++ c)) start len = ofBits b := by
  rw [bodyField, List.drop_left' ha, List.take_left' hb]

theorem bodyField_bitsOf {a c : List Bool} {start len n : Nat} (ha : a.length = start) (fits : n < 2 ^ len) :
    bodyField (a ++ (bitsOf len n ++ c)) start len = n := by
  rw [bodyField_append ha (bitsOf_length len n), ofBits_bitsOf_of_lt fits]

theorem checkedBits_length (f : Frame) : (checkedBits f).length = 23 + 8 * f.payload.length := by
  rw [checkedBits, List.length_append, headerBits_length, byteBits_length]

theorem bodyBits_eq (f : Frame) :
    bodyBits f =
      bitsOf 2 f.cls ++ (bitsOf 5 f.source ++ (bitsOf 4 f.kind ++ (bitsOf 1 (formCode f.dest.form) ++
        (bitsOf 5 f.dest.number ++ (bitsOf 6 f.payload.length ++
          (byteBits f.payload ++ bitsOf 16 (crcBits crcStart (checkedBits f)).toNat)))))) := by
  simp only [bodyBits, checkedBits, headerBits, List.append_assoc]

/-- The length field, wherever a body's first 23 bits are those of a header but for other fields. -/
theorem bodyField_length (f : Frame) (short : f.payload.length ≤ 40) :
    bodyField (bodyBits f) 17 6 = f.payload.length := by
  have cut : bodyBits f =
      (bitsOf 2 f.cls ++ (bitsOf 5 f.source ++ (bitsOf 4 f.kind ++ (bitsOf 1 (formCode f.dest.form) ++
        bitsOf 5 f.dest.number)))) ++ (bitsOf 6 f.payload.length ++
          (byteBits f.payload ++ bitsOf 16 (crcBits crcStart (checkedBits f)).toNat)) := by
    rw [bodyBits_eq]
    simp only [List.append_assoc]
  rw [cut, bodyField_bitsOf (by simp [bitsOf_length]) (by omega)]

theorem bodyField_check (f : Frame) :
    bodyField (bodyBits f) (23 + 8 * f.payload.length) 16 = (crcBits crcStart (checkedBits f)).toNat := by
  have tail : bodyBits f =
      checkedBits f ++ (bitsOf 16 (crcBits crcStart (checkedBits f)).toNat ++ []) := by
    rw [List.append_nil]; rfl
  rw [tail, bodyField_bitsOf (checkedBits_length f) (BitVec.isLt _)]

/-- A frame is read back from its body, and its check is good. -/
theorem readBody_bodyBits {f : Frame} (cls : f.cls < 4) (source : f.source < 32) (kind : f.kind < 16)
    (number : f.dest.number < 32) (short : f.payload.length ≤ 40) :
    readBody (bodyBits f) = some (f, true) := by
  have length := bodyField_length f short
  have whole : (bodyBits f).take (23 + 8 * f.payload.length) = checkedBits f :=
    List.take_left' (checkedBits_length f)
  have check := bodyField_check f
  have clsField : bodyField (bodyBits f) 0 2 = f.cls := by
    rw [bodyBits_eq]
    exact bodyField_bitsOf (a := []) rfl (by omega)
  have sourceField : bodyField (bodyBits f) 2 5 = f.source := by
    rw [bodyBits_eq]
    exact bodyField_bitsOf (bitsOf_length 2 _) (by omega)
  have kindField : bodyField (bodyBits f) 7 4 = f.kind := by
    rw [bodyBits_eq, ← List.append_assoc]
    exact bodyField_bitsOf (by simp [bitsOf_length]) (by omega)
  have formField : bodyField (bodyBits f) 11 1 = formCode f.dest.form := by
    rw [bodyBits_eq, ← List.append_assoc, ← List.append_assoc]
    exact bodyField_bitsOf (by simp [bitsOf_length]) (by cases f.dest.form <;> decide)
  have numberField : bodyField (bodyBits f) 12 5 = f.dest.number := by
    rw [bodyBits_eq, ← List.append_assoc, ← List.append_assoc, ← List.append_assoc]
    exact bodyField_bitsOf (by simp [bitsOf_length]) (by omega)
  have payloadField : bytesOfBits f.payload.length ((bodyBits f).drop 23) = f.payload := by
    rw [bodyBits, checkedBits, List.append_assoc, List.drop_left' (headerBits_length f), bytesOfBits_byteBits]
  have form : (if formCode f.dest.form = 0 then AddressForm.station else AddressForm.role) = f.dest.form := by
    cases f.dest.form <;> rfl
  simp only [readBody, length, bodyBits_length, short, whole, check, clsField, sourceField, kindField, formField,
    numberField, payloadField, form, and_self, if_true, decide_true]

end Bodies

/-! ## One wrong bit (R31) -/

section OneBit

theorem crcBit_low (r : BitVec 16) (b : Bool) : (crcBit r b).getLsbD 0 = (r.msb ^^ b) := by
  unfold crcBit
  split
  · next feed => rw [feed]; simp
  · next feed => rw [Bool.not_eq_true] at feed; rw [feed]; simp

theorem shiftLeft_one_injective {r q : BitVec 16} (top : r.msb = q.msb) (same : r <<< 1 = q <<< 1) : r = q := by
  refine BitVec.eq_of_getLsbD_eq fun i lt => ?_
  by_cases last : i = 15
  · rw [last]
    rwa [BitVec.msb_eq_getLsbD_last, BitVec.msb_eq_getLsbD_last] at top
  · have shifted := congrArg (fun v => BitVec.getLsbD v (i + 1)) same
    simp only [BitVec.getLsbD_shiftLeft] at shifted
    have inside : i + 1 < 16 := by omega
    simpa [inside] using shifted

/-- The register before a bit can be told from the one after it. -/
theorem crcBit_injective {r q : BitVec 16} {b : Bool} (same : crcBit r b = crcBit q b) : r = q := by
  have top : r.msb = q.msb := by
    have low := congrArg (fun v => BitVec.getLsbD v 0) same
    simp only [crcBit_low] at low
    exact Bool.xor_left_inj.mp low
  refine shiftLeft_one_injective top ?_
  unfold crcBit at same
  rw [top] at same
  split at same
  · exact BitVec.xor_left_inj _ |>.mp same
  · exact same

theorem crcBit_flipped (r : BitVec 16) (b : Bool) : crcBit r (!b) ≠ crcBit r b := by
  intro same
  have low := congrArg (fun v => BitVec.getLsbD v 0) same
  simp only [crcBit_low] at low
  cases b <;> simp at low

theorem crcBits_injective {r q : BitVec 16} {bits : List Bool} (same : crcBits r bits = crcBits q bits) : r = q := by
  induction bits generalizing r q with
  | nil => exact same
  | cons b rest ih => exact crcBit_injective (ih same)

/-- The check finds every single wrong bit. -/
theorem crcBits_modify {bits : List Bool} {j : Nat} (inside : j < bits.length) (r : BitVec 16) :
    crcBits r (bits.modify j not) ≠ crcBits r bits := by
  induction bits generalizing j r with
  | nil => exact absurd inside (Nat.not_lt_zero j)
  | cons b rest ih =>
    cases j with
    | zero => exact fun same => crcBit_flipped r b (crcBits_injective same)
    | succ j => exact ih (Nat.lt_of_succ_lt_succ inside) (crcBit r b)

theorem modify_ne {bits : List Bool} {j : Nat} (inside : j < bits.length) : bits.modify j not ≠ bits := by
  intro same
  have here := congrArg (fun l : List Bool => l[j]?) same
  simp only [List.getElem?_modify_eq, List.getElem?_eq_getElem inside] at here
  cases h : bits[j] <;> simp [h] at here

theorem modify_append_left {a c : List Bool} {j : Nat} (inside : j < a.length) :
    (a ++ c).modify j not = a.modify j not ++ c := by
  have inside' : j < (a ++ c).length := by rw [List.length_append]; omega
  rw [List.modify_eq_take_cons_drop inside, List.modify_eq_take_cons_drop inside', List.take_append_of_le_length inside.le,
    List.drop_append_of_le_length inside, List.getElem_append_left inside]
  simp only [List.append_assoc, List.cons_append]

/-- Outside the length field a wrong bit leaves the length. -/
theorem bodyField_modify {bits : List Bool} {j start len : Nat} (outside : j < start ∨ start + len ≤ j) :
    bodyField (bits.modify j not) start len = bodyField bits start len := by
  unfold bodyField
  congr 1
  refine List.ext_getElem? fun i => ?_
  rw [List.getElem?_take, List.getElem?_take]
  split
  · rw [List.getElem?_drop, List.getElem?_drop, List.getElem?_modify_ne _ _ (by omega)]
  · rfl

theorem take_modify_of_le {bits : List Bool} {j n : Nat} (after : n ≤ j) : (bits.modify j not).take n = bits.take n := by
  refine List.ext_getElem? fun i => ?_
  rw [List.getElem?_take, List.getElem?_take]
  split
  · rw [List.getElem?_modify_ne _ _ (by omega)]
  · rfl

end OneBit

/-- Settles O6: a wrong bit of header or payload moves the check, one of the check itself is read as another. -/
theorem oneBitWrongFails : Obligations.OneBitWrongFails := by
  intro f j cls source kind number short inside outside
  have length : bodyField ((bodyBits f).modify j not) 17 6 = f.payload.length := by
    rw [bodyField_modify (by omega), bodyField_length f short]
  have bits : ((bodyBits f).modify j not).length = 39 + 8 * f.payload.length := by
    rw [List.length_modify, bodyBits_length]
  suffices wrong : bodyField ((bodyBits f).modify j not) (23 + 8 * f.payload.length) 16 ≠
      (crcBits crcStart (((bodyBits f).modify j not).take (23 + 8 * f.payload.length))).toNat by
    rw [readBody]
    simp only [length, bits, short, and_self, if_true, decide_eq_false wrong]
    exact ⟨_, rfl⟩
  by_cases checked : j < 23 + 8 * f.payload.length
  · have cut : (bodyBits f).modify j not =
        (checkedBits f).modify j not ++ bitsOf 16 (crcBits crcStart (checkedBits f)).toNat :=
      modify_append_left (by rwa [checkedBits_length])
    have taken : ((bodyBits f).modify j not).take (23 + 8 * f.payload.length) = (checkedBits f).modify j not := by
      rw [cut, List.take_left' (by rw [List.length_modify, checkedBits_length])]
    rw [taken, bodyField_modify (.inl checked), bodyField_check]
    intro same
    exact crcBits_modify (by rwa [checkedBits_length]) crcStart (BitVec.eq_of_toNat_eq same).symm
  · have taken : ((bodyBits f).modify j not).take (23 + 8 * f.payload.length) = checkedBits f := by
      rw [take_modify_of_le (Nat.not_lt.mp checked)]
      exact List.take_left' (checkedBits_length f)
    rw [taken]
    intro same
    rw [← bodyField_check f] at same
    have fields := ofBits_injective (by simp only [List.length_take, List.length_drop, List.length_modify]) same
    refine modify_ne (bits := bodyBits f) (j := j) (by rwa [bodyBits_length]) ?_
    have all {l : List Bool} (h : l.length = 39 + 8 * f.payload.length) :
        (l.drop (23 + 8 * f.payload.length)).take 16 = l.drop (23 + 8 * f.payload.length) :=
      List.take_of_length_le (by rw [List.length_drop]; omega)
    rw [all bits, all (bodyBits_length f)] at fields
    rw [← List.take_append_drop (23 + 8 * f.payload.length) ((bodyBits f).modify j not), fields,
      take_modify_of_le (Nat.not_lt.mp checked), List.take_append_drop]

end Sys2Proof.Machine


namespace Sys2Proof.Machine

open Sys2Proof

/-! ## The wire (R25 to R28, R30, R33, R40) -/

section Filter

variable {w : Wire}

theorem not_ne_self (b : Bool) : (!b) ≠ b := by cases b <;> decide

/-- A level that holds for T/8 is seen. -/
theorem Wire.seen_of_holds {level : Bool} {t : Nat} (h : ∀ i, i < 8 → w (t + 1 + i) = level) :
    w.seen (t + 1) = level := by
  rw [Wire.seen_succ]
  by_cases same : w.seen t = level
  · rw [if_neg, same]
    rw [Wire.holds_iff, same]
    intro other
    have at_0 := (other 0 (by decide)).symm.trans (h 0 (by decide))
    exact not_ne_self level at_0
  · have turned : (!w.seen t) = level := by
      cases hs : w.seen t <;> cases level <;> simp_all
    rw [if_pos, turned]
    rw [Wire.holds_iff, turned]
    exact h

/-- The level seen stays while the wire has it. -/
theorem Wire.seen_stays {t : Nat} (h : w (t + 1) = w.seen t) : w.seen (t + 1) = w.seen t := by
  rw [Wire.seen_succ, if_neg]
  rw [Wire.holds_iff]
  intro other
  exact not_ne_self _ ((other 0 (by decide)).symm.trans h)

/-- A dominant level is seen from T/8 on for as long as it lasts. -/
theorem Wire.seen_dominant {u t : Nat} (start : 1 ≤ u) (le : u ≤ t) (held : ∀ i, i < 8 → w (u + i) = true)
    (lasts : ∀ v, u ≤ v → v ≤ t → w v = true) : w.seen t = true := by
  obtain ⟨n, rfl⟩ := Nat.exists_eq_add_of_le le
  induction n with
  | zero =>
    obtain ⟨v, rfl⟩ : ∃ v, u = v + 1 := ⟨u - 1, by omega⟩
    exact Wire.seen_of_holds held
  | succ n ih =>
    have before := ih (by omega) fun v a b => lasts v a (by omega)
    rw [← Nat.add_assoc, Wire.seen_stays, before]
    rw [before]
    exact lasts _ (by omega) (by omega)

theorem Wire.seen_recessive (t : Nat) : Wire.seen (fun _ => false) t = false :=
  Wire.seen_steady (w := fun _ => false) rfl (fun _ h => absurd rfl h) t

/-- An edge is seen only at a change to a level that then holds for T/8. -/
theorem Wire.seen_edge {t : Nat} (edge : w.seen (t + 1) ≠ w.seen t) {i : Nat} (lt : i < 8) :
    w (t + 1 + i) = w.seen (t + 1) ∧ w.seen (t + 1 + i) = w.seen (t + 1) := by
  have held : ∀ i, i < 8 → w (t + 1 + i) = w.seen (t + 1) := by
    rw [Wire.seen_succ] at edge ⊢
    split at edge
    · next holds => rw [if_pos holds]; exact (Wire.holds_iff ..).mp holds
    · exact absurd rfl edge
  refine ⟨held i lt, ?_⟩
  induction i with
  | zero => rfl
  | succ i ih =>
    have before := ih (by omega)
    have stays : w (t + 1 + i + 1) = w.seen (t + 1 + i) := by
      rw [before]
      exact held (i + 1) lt
    exact (Wire.seen_stays stays).trans before

end Filter

/-! ### Reading what one station sends -/

section Receiving

variable {w : Wire}

theorem Wire.lt_run_iff {t d : Nat} (hd : d < 513) : d < w.run t ↔ ∀ i, i ≤ d → w (t + i) = true := by
  constructor
  · intro long i le
    by_contra ended
    rw [Bool.not_eq_true] at ended
    have := Wire.run_le (t := t) (d := i) (by omega) ended
    omega
  · intro lasts
    have cut : List.range 513 = List.range (d + 1) ++ (List.range (513 - (d + 1))).map (d + 1 + ·) := by
      rw [← List.range_add]
      congr 1
      omega
    have held : ∀ i ∈ List.range (d + 1), w (t + i) = true := fun i mem =>
      lasts i (Nat.lt_succ_iff.mp (List.mem_range.mp mem))
    rw [Wire.run, cut, List.takeWhile_append_of_pos held, List.length_append, List.length_range]
    omega

/-- A dominant level of more than T that falls at a bit's lead or before its T/2. -/
theorem Wire.longLevel_isSome {lead : Nat} :
    (w.longLevel lead).isSome = true ↔ ∃ f, lead ≤ f ∧ f ≤ lead + 32 ∧ ∀ i, i ≤ 64 → w (f + i) = true := by
  simp only [Wire.longLevel, Option.isSome_map, List.find?_isSome, List.mem_range, decide_eq_true_eq,
    Wire.lt_run_iff (show 64 < 513 by decide)]
  constructor
  · rintro ⟨i, lt, long⟩
    exact ⟨lead + i, by omega, by omega, long⟩
  · rintro ⟨f, le, ge, long⟩
    refine ⟨f - lead, by omega, ?_⟩
    rwa [Nat.add_sub_cancel' le]

theorem Wire.nextFall_eq_none {t span : Nat}
    (h : ∀ i, i < span → ¬(w (t + i) = false ∧ w (t + i + 1) = true)) : w.nextFall t span = none := by
  simp only [Wire.nextFall, Option.map_eq_none_iff, List.find?_eq_none, List.mem_range]
  intro i lt edge
  simp only [Bool.and_eq_true, Bool.not_eq_true'] at edge
  exact h i lt edge

theorem bitHold_range (b : Bool) : 16 ≤ bitHold b ∧ bitHold b ≤ 48 := by cases b <;> decide

theorem not_lt_bitHold (b : Bool) : (!decide (32 < bitHold b)) = b := by cases b <;> decide

/-- The level of a slot: the sender sends it as 1, and a receiver that asserts it makes it a 0. -/
theorem slot_level (asserted : Bool) (r : Nat) :
    (decide (r < bitHold true) || (decide (8 ≤ r ∧ r < 48) && asserted)) = decide (r < bitHold (!asserted)) := by
  rw [Bool.eq_iff_iff]
  cases asserted <;> simp [bitHold]
  omega

/-- The level of each bit of a frame of body `body` and its slots, where receivers assert `taken` and `refused`. -/
def frameHold (body : List Bool) (receivers : List SlotDrive) (k : Nat) : Nat :=
  if k < body.length then bitHold (body.getD k true)
  else if k = body.length then bitHold (!receivers.contains .taken)
  else bitHold (!receivers.contains .refused)

theorem frameHold_range (body : List Bool) (receivers : List SlotDrive) (k : Nat) :
    16 ≤ frameHold body receivers k ∧ frameHold body receivers k ≤ 48 := by
  unfold frameHold
  repeat' split
  all_goals exact bitHold_range _

/-- A receiver's drive of its slot, in the bit periods of the sender. -/
theorem slotWire_at (d : SlotDrive) (first n k r : Nat) (lt : r < 64) :
    slotWire d (some (first + 64 * n)) (some (first + 64 * (n + 1))) (first + 64 * k + r) =
      (decide (8 ≤ r ∧ r < 48) &&
        (decide (k = n ∧ d = .taken) || decide (k = n + 1 ∧ d = .refused))) := by
  have beat (m : Nat) : decide (first + 64 * m + 8 ≤ first + 64 * k + r ∧ first + 64 * k + r < first + 64 * m + 48) =
      (decide (8 ≤ r ∧ r < 48) && decide (k = m)) := by
    rw [← Bool.decide_and]
    congr 1
    refine propext ⟨fun h => ⟨?_, ?_⟩, fun h => ?_⟩ <;> omega
  cases d <;> simp only [slotWire, Option.any_some, Option.isSome_some, Bool.true_and, beat] <;> simp

theorem slotWire_before (d : SlotDrive) {first n t : Nat} (lt : t < first) :
    slotWire d (some (first + 64 * n)) (some (first + 64 * (n + 1))) t = false := by
  cases d <;> simp [slotWire] <;> omega

/-- What the wire carries while one frame is sent: its start mark, then one level a bit period. -/
def framed (start : Nat) (body : List Bool) (receivers : List SlotDrive) : Wire := fun t =>
  markWire start t || beats (start + 192) (body.length + 2) (frameHold body receivers) t

theorem frameWire_join (start : Nat) (body : List Bool) (receivers : List SlotDrive) (t : Nat) :
    (frameWire start body t || receivers.any fun d =>
      slotWire d (some (start + 192 + 64 * body.length)) (some (start + 192 + 64 * (body.length + 1))) t) =
      framed start body receivers t := by
  have own : frameWire start body t =
      (markWire start t || beats (start + 192) (body.length + 2) (fun k => bitHold ((body ++ [true, true]).getD k true)) t) := by
    have bits := bitsWire_own (firstLead start) (body ++ [true, true])
    rw [List.length_append] at bits
    exact congrArg (markWire start t || ·) (congrFun bits t)
  rw [own, framed, Bool.or_assoc]
  congr 1
  by_cases before : t < start + 192
  · rw [beats_before _ _ before, beats_before _ _ before, Bool.false_or, List.any_eq_false]
    intro d _
    rw [slotWire_before d before]
    exact Bool.false_ne_true
  · obtain ⟨k, r, lt, rfl⟩ := exists_beat (Nat.not_lt.mp before)
    have drives : (receivers.any fun d => slotWire d (some (start + 192 + 64 * body.length))
        (some (start + 192 + 64 * (body.length + 1))) (start + 192 + 64 * k + r)) =
        (decide (8 ≤ r ∧ r < 48) && (decide (k = body.length) && receivers.contains .taken ||
          decide (k = body.length + 1) && receivers.contains .refused)) := by
      rw [Bool.eq_iff_iff]
      simp only [List.any_eq_true, slotWire_at _ _ _ _ _ lt, Bool.and_eq_true, Bool.or_eq_true, decide_eq_true_eq,
        List.contains_iff_mem]
      constructor
      · rintro ⟨d, mem, inside, ⟨rfl, rfl⟩ | ⟨rfl, rfl⟩⟩
        · exact ⟨inside, .inl ⟨rfl, mem⟩⟩
        · exact ⟨inside, .inr ⟨rfl, mem⟩⟩
      · rintro ⟨inside, ⟨rfl, mem⟩ | ⟨rfl, mem⟩⟩
        · exact ⟨_, mem, inside, .inl ⟨rfl, rfl⟩⟩
        · exact ⟨_, mem, inside, .inr ⟨rfl, rfl⟩⟩
    rw [drives, beats_at _ _ _ _ _ lt, beats_at _ _ _ _ _ lt]
    have slot (j : Nat) (h : body.length ≤ j) : (body ++ [true, true]).getD j true = true := by
      rw [List.getD_append_right _ _ _ _ h]
      obtain _ | _ | n := j - body.length <;> rfl
    unfold frameHold
    by_cases inBody : k < body.length
    · rw [if_pos inBody, List.getD_append _ _ _ _ inBody]
      simp [Nat.ne_of_lt inBody, Nat.ne_of_lt (Nat.lt_succ_of_lt inBody)]
    · rw [slot k (Nat.not_lt.mp inBody)]
      by_cases taken : k = body.length
      · subst taken
        simpa using slot_level (receivers.contains .taken) r
      · by_cases refused : k = body.length + 1
        · subst refused
          simpa using slot_level (receivers.contains .refused) r
        · have after : ¬k < body.length + 2 := by omega
          simp [after, taken, refused]

/-- Every level of a frame on the wire lasts T/8. -/
theorem framed_seen {start : Nat} (later : 1 ≤ start) (body : List Bool) (receivers : List SlotDrive) (t : Nat) :
    (framed start body receivers).seen t = framed start body receivers t := by
  have range (k : Nat) : 8 ≤ frameHold body receivers k ∧ frameHold body receivers k ≤ 56 := by
    have := frameHold_range body receivers k
    omega
  refine Wire.seen_steady ?_ (fun t change i lt => ?_) t
  · rw [framed, beats_before _ _ (by omega)]
    simp only [markWire, Bool.or_false, decide_eq_false_iff_not]
    omega
  · have mark (u : Nat) (h : start + 128 ≤ u) : markWire start u = false := by
      simp only [markWire, decide_eq_false_iff_not]; omega
    by_cases early : t + 8 < start + 192
    · have none (u : Nat) (h : u < start + 192) : framed start body receivers u = markWire start u := by
        rw [framed, beats_before _ _ h, Bool.or_false]
      rw [none _ (by omega), none _ (by omega)] at change ⊢
      simp only [markWire, ne_eq, decide_eq_decide] at change ⊢
      omega
    · have only (u : Nat) (h : start + 128 ≤ u) : framed start body receivers u =
          beats (start + 192) (body.length + 2) (frameHold body receivers) u := by
        rw [framed, mark u h, Bool.false_or]
      rw [only _ (by omega), only _ (by omega)] at change ⊢
      exact beats_steady range t change i lt

theorem startMark_framed {start : Nat} (body : List Bool) (receivers : List SlotDrive)
    (seen : ∀ t, w t = framed start body receivers t) : w.startMark start = some (start + 192) := by
  have mark (u : Nat) (h : u < start + 192) : w u = decide (start ≤ u ∧ u < start + 128) := by
    rw [seen, framed, beats_before _ _ h, Bool.or_false]
    rfl
  have run : w.run start = 128 := by
    refine Wire.run_eq (by decide) ?_ fun i lt => ?_
    · rw [mark _ (by omega), decide_eq_false_iff_not]; omega
    · rw [mark _ (by omega), decide_eq_true_eq]; omega
  have first : w (start + 192) = true := by
    have beat := beats_at (start + 192) (body.length + 2) (frameHold body receivers) 0 0 (by decide)
    have := frameHold_range body receivers 0
    rw [seen, framed]
    simp only [Nat.mul_zero, Nat.add_zero] at beat
    rw [beat]
    simp only [Bool.or_eq_true, Bool.and_eq_true, decide_eq_true_eq]
    omega
  rw [Wire.startMark, run, if_pos (by decide)]
  refine Wire.nextFall_eq (j := 63) (by decide) (fun i lt edge => ?_) ⟨?_, first⟩
  · have := edge.2
    rw [mark _ (by omega), decide_eq_true_eq] at this
    omega
  · rw [mark _ (by omega), decide_eq_false_iff_not]
    omega

/-- The bits of a frame on the wire, from its first lead on. -/
theorem readBits_framed {start : Nat} {body : List Bool} {receivers : List SlotDrive}
    (seen : ∀ t, w t = framed start body receivers t) {m : Nat} (le : m ≤ body.length) :
    w.readBits m (start + 192) = .bits (body.take m) (start + 192 + 64 * (m - 1)) := by
  have range (k : Nat) : 8 ≤ frameHold body receivers k ∧ frameHold body receivers k ≤ 56 := by
    have := frameHold_range body receivers k
    omega
  have late (t : Nat) (h : start + 192 ≤ t) : w t = beats (start + 192) (body.length + 2) (frameHold body receivers) t := by
    have mark : markWire start t = false := by simp only [markWire, decide_eq_false_iff_not]; omega
    rw [seen, framed, mark, Bool.false_or]
  have read := Wire.readBits_beats range late m 0 (by omega)
  rw [Nat.mul_zero, Nat.add_zero] at read
  rw [read, Nat.zero_add]
  congr 1
  refine List.ext_getElem? fun j => ?_
  rw [List.getElem?_map, List.getElem?_take]
  by_cases inside : j < m
  · rw [List.getElem?_range inside, if_pos inside, List.getElem?_eq_getElem (by omega)]
    simp only [Option.map_some, Nat.zero_add, frameHold, show j < body.length by omega, if_true, not_lt_bitHold]
    rw [List.getD_eq_getElem _ _ (by omega)]
  · rw [if_neg inside, List.getElem?_eq_none (by rw [List.length_range]; omega)]
    rfl

/-- A slot of the frame on the wire. -/
theorem readSlot_framed {start : Nat} {body : List Bool} {receivers : List SlotDrive}
    (seen : ∀ t, w t = framed start body receivers t) {k : Nat} (lt : k < body.length + 1) :
    w.readSlot (start + 192 + 64 * k) =
      some (decide (32 < frameHold body receivers (k + 1)), start + 192 + 64 * (k + 1)) := by
  have range (k : Nat) : 8 ≤ frameHold body receivers k ∧ frameHold body receivers k ≤ 56 := by
    have := frameHold_range body receivers k
    omega
  have late (t : Nat) (h : start + 192 ≤ t) : w t = beats (start + 192) (body.length + 2) (frameHold body receivers) t := by
    have mark : markWire start t = false := by simp only [markWire, decide_eq_false_iff_not]; omega
    rw [seen, framed, mark, Bool.false_or]
  rw [Wire.readSlot, Wire.nextFall_beats range late (by omega), Option.map_some, late _ (by omega),
    beats_at _ _ _ _ _ (by decide), decide_eq_true (show k + 1 < body.length + 2 by omega), Bool.true_and]

end Receiving

end Sys2Proof.Machine


namespace Sys2Proof.Machine

open Sys2Proof

/-! ### Two senders (R27) -/

section TwoSenders

/-- Each bit with the fall of another sender's lead at its place from `start` on. -/
def told (start : Nat) (bits : List Bool) (n : Nat) : List (Bool × Option Nat) :=
  (bits.zipIdx n).map fun x => (x.1, some (start + 64 * x.2))

/-- A sender whose own timer comes within T/8 of the other's leads keeps to its timer. -/
theorem sendBits_told_soon {start timer n : Nat} (soon : timer ≤ start + 64 * n + 8) (bits : List Bool) :
    sendBits timer (told start bits n) = sendBits timer (bits.map fun b => (b, none)) := by
  induction bits generalizing timer n with
  | nil => rfl
  | cons b rest ih =>
    have own : sendBit timer (some (start + 64 * n)) b = sendBit timer none b := by
      rw [sendBit, sendBit]
      exact if_neg (by omega)
    show sendBit timer (some (start + 64 * n)) b :: sendBits (_ + 64) (told start rest (n + 1)) = _
    rw [own, ih (by show timer + 64 ≤ _; omega)]
    rfl

/-- One that begins later begins T/8 after the fall it sees, and keeps time with the other from then on. -/
theorem sendBits_told_late {start timer : Nat} (late : start + 8 < timer) (b : Bool) (rest : List Bool) :
    sendBits timer (told start (b :: rest) 0) =
      { start := start, lead := start + 8, one := b } ::
        sendBits (start + 64) (rest.map fun b => (b, none)) := by
  have fall : sendBit timer (some (start + 64 * 0)) b = { start := start, lead := start + 8, one := b } := by
    rw [sendBit]
    exact if_pos (by omega)
  show sendBit timer (some (start + 64 * 0)) b :: sendBits (_ + 64) (told start rest (0 + 1)) = _
  rw [fall, sendBits_told_soon (by show start + 64 ≤ _; omega)]

/-- What two senders drive together: a level in each bit period, dominant until both have let go. -/
theorem join_beats {start d n : Nat} (near : d ≤ 8) {one two : Nat → Nat} (h1 : ∀ k, 16 ≤ one k ∧ one k ≤ 48)
    (h2 : ∀ k, 16 ≤ two k ∧ two k ≤ 48) :
    (beats start n one).join (beats (start + d) n two) = beats start n fun k => max (one k) (d + two k) := by
  funext t
  unfold Wire.join
  by_cases before : t < start
  · rw [beats_before _ _ before, beats_before _ _ before, beats_before _ _ (by omega)]
    rfl
  obtain ⟨k, r, lt, rfl⟩ := exists_beat (Nat.not_lt.mp before)
  have a := h1 k
  have b := h2 k
  rw [beats_at _ _ _ _ _ lt, beats_at _ _ _ _ _ lt]
  by_cases reached : d ≤ r
  · have place : start + 64 * k + r = start + d + 64 * k + (r - d) := by omega
    rw [place, beats_at _ _ _ _ _ (by omega), ← Bool.and_or_distrib_left, ← Bool.decide_or]
    congr 2
    refine propext ?_
    omega
  · have first : r < one k := by omega
    have both : r < max (one k) (d + two k) := by omega
    have quiet : beats (start + d) n two (start + 64 * k + r) = false := by
      obtain _ | k := k
      · exact beats_before _ _ (by omega)
      · have c := h2 k
        have place : start + 64 * (k + 1) + r = start + d + 64 * k + (64 + r - d) := by omega
        have spent : ¬64 + r - d < two k := by omega
        rw [place, beats_at _ _ _ _ _ (by omega), decide_eq_false spent, Bool.and_false]
    rw [quiet, decide_eq_true first, decide_eq_true both, Bool.or_false]

/-- A first bit whose sender begins T/8 late drives what one on time drives, beside another's. -/
theorem join_late_beats {start n : Nat} {one two : Nat → Nat} (some_ : 0 < n) (h1 : ∀ k, 16 ≤ one k ∧ one k ≤ 48)
    (b : Bool) (h2 : two 0 = bitHold b) (t : Nat) :
    (beats start n one t || (({ start := start, lead := start + 8, one := b } : SentBit).drives t ||
      beats (start + 64) (n - 1) (fun k => two (k + 1)) t)) = beats start n (fun k => max (one k) (two k)) t := by
  by_cases before : t < start
  · rw [beats_before _ _ before, beats_before _ _ before, beats_before _ _ (by omega)]
    simp only [SentBit.drives, Bool.false_or, Bool.or_false, decide_eq_false_iff_not]
    omega
  obtain ⟨k, r, lt, rfl⟩ := exists_beat (Nat.not_lt.mp before)
  have a := h1 k
  rw [beats_at _ _ _ _ _ lt, beats_at _ _ _ _ _ lt]
  have hb := bitHold_range b
  obtain _ | k := k
  · rw [beats_before _ _ (by omega), Bool.or_false]
    simp only [SentBit.drives, h2, some_, decide_true, Bool.true_and, ← Bool.decide_or]
    congr 1
    refine propext ?_
    omega
  · have place : start + 64 * (k + 1) + r = start + 64 + 64 * k + r := by omega
    have after : ¬start + 64 + 64 * k + r < start + bitHold b := by omega
    have count : (k < n - 1) = (k + 1 < n) := propext (by omega)
    rw [place, beats_at _ _ _ _ _ lt]
    simp only [SentBit.drives, after, and_false, decide_false, Bool.false_or, count,
      ← Bool.and_or_distrib_left, ← Bool.decide_or]
    congr 2
    refine propext ?_
    omega

/-- A level that two senders make reaches T/2 exactly where one of them sends 0. -/
theorem zero_of_either {d : Nat} (near : d ≤ 8) (x y : Bool) :
    (!decide (32 < max (bitHold x) (d + bitHold y))) = (x && y) := by
  cases x <;> cases y <;> simp [bitHold]
  omega

/-- Two senders, the second told of the first one's leads, drive one level a bit period. -/
theorem twoSenders {start timer : Nat} (le : start ≤ timer) {a b : List Bool} (length : a.length = b.length) :
    ∃ d, d ≤ 8 ∧
      (bitsWire (sendBits start (a.map fun x => (x, none)))).join (bitsWire (sendBits timer (told start b 0))) =
        beats start a.length fun k => max (bitHold (a.getD k true)) (d + bitHold (b.getD k true)) := by
  have ranges (l : List Bool) (k : Nat) : 16 ≤ bitHold (l.getD k true) ∧ bitHold (l.getD k true) ≤ 48 :=
    bitHold_range _
  by_cases soon : timer ≤ start + 8
  · refine ⟨timer - start, by omega, ?_⟩
    have place : timer = start + (timer - start) := by omega
    rw [sendBits_told_soon (by omega), bitsWire_own, bitsWire_own, ← length]
    conv_lhs => rw [place]
    exact join_beats (by omega) (ranges a) (ranges b)
  · refine ⟨0, by decide, ?_⟩
    cases b with
    | nil =>
      obtain rfl : a = [] := List.eq_nil_of_length_eq_zero length
      funext t
      simp [told, sendBits, bitsWire, Wire.join, beats]
    | cons x rest =>
      have count : rest.length = a.length - 1 := by rw [length]; rfl
      have second (t : Nat) : bitsWire (sendBits timer (told start (x :: rest) 0)) t =
          (({ start := start, lead := start + 8, one := x } : SentBit).drives t ||
            beats (start + 64) (a.length - 1) (fun k => bitHold (rest.getD k true)) t) := by
        rw [sendBits_told_late (by omega), ← count, ← bitsWire_own]
        rfl
      funext t
      rw [Wire.join, second, bitsWire_own]
      simp only [Nat.zero_add]
      exact join_late_beats (by rw [length]; exact Nat.succ_pos _) (ranges a) x
        (two := fun k => bitHold ((x :: rest).getD k true)) rfl t

/-- Two senders are read bit by bit as 0 where either sends 0. -/
theorem readBits_twoSenders {start timer : Nat} (later : 1 ≤ start) (le : start ≤ timer) {a b : List Bool}
    (length : a.length = b.length) :
    ((bitsWire (sendBits start (a.map fun x => (x, none)))).join
        (bitsWire (sendBits timer (told start b 0)))).seen.readBits a.length start =
      .bits (List.zipWith (· && ·) a b) (start + 64 * (a.length - 1)) := by
  obtain ⟨d, near, joined⟩ := twoSenders le length
  have range (k : Nat) : 8 ≤ max (bitHold (a.getD k true)) (d + bitHold (b.getD k true)) ∧
      max (bitHold (a.getD k true)) (d + bitHold (b.getD k true)) ≤ 56 := by
    have := bitHold_range (a.getD k true)
    have := bitHold_range (b.getD k true)
    omega
  have seen := Wire.seen_steady (w := beats start a.length fun k =>
      max (bitHold (a.getD k true)) (d + bitHold (b.getD k true)))
    (beats_before _ _ (by omega)) fun t change i lt => beats_steady range t change i lt
  have read := Wire.readBits_beats range (fun t _ => seen t) a.length 0 (by omega)
  rw [Nat.mul_zero, Nat.add_zero] at read
  rw [joined, read, Nat.zero_add]
  congr 1
  refine List.ext_getElem (by simp [length]) fun k h _ => ?_
  rw [List.length_map, List.length_range] at h
  rw [List.getElem_map, List.getElem_range, List.getElem_zipWith, Nat.zero_add, zero_of_either near,
    List.getD_eq_getElem _ _ h, List.getD_eq_getElem _ _ (by omega)]

end TwoSenders

/-! ### Drive faults (R40) -/

section Faults

variable {s : State} {start : Nat} {taken refused : Option Nat}

theorem sendBits_own {timer : Nat} {bits : List Bool} {b : SentBit}
    (mem : b ∈ sendBits timer (bits.map fun x => (x, none))) : b.lead = b.start ∧ timer ≤ b.start := by
  induction bits generalizing timer with
  | nil => exact absurd mem List.not_mem_nil
  | cons x rest ih =>
    obtain _ | ⟨_, later⟩ := mem
    · exact ⟨rfl, Nat.le_refl _⟩
    · obtain ⟨lead, le⟩ := ih later
      refine ⟨lead, Nat.le_trans ?_ le⟩
      exact Nat.le_add_right timer 64

/-- At each time at which a sender reads its frame's line it has driven the wire for T/8. -/
theorem frameChecks_held {body : List Bool} {t : Nat} (mem : t ∈ frameChecks start body) :
    ∃ u, 1 ≤ u ∧ u ≤ t ∧ (∀ i, i < 8 → frameWire start body (u + i) = true) ∧
      ∀ v, u ≤ v → v ≤ t → frameWire start body v = true := by
  have mark (v : Nat) (low : start ≤ v) (high : v < start + 128) : frameWire start body v = true := by
    rw [frameWire, Wire.join, markWire, decide_eq_true ⟨low, high⟩, Bool.true_or]
  simp only [frameChecks, List.mem_append, List.mem_cons, List.not_mem_nil, or_false, List.mem_flatMap] at mem
  obtain (rfl | rfl) | ⟨b, sent, here⟩ := mem
  · exact ⟨start + 1, by omega, by omega, fun i lt => mark _ (by omega) (by omega),
      fun v low high => mark v (by omega) (by omega)⟩
  · exact ⟨start + 1, by omega, by omega, fun i lt => mark _ (by omega) (by omega),
      fun v low high => mark v (by omega) (by omega)⟩
  · obtain ⟨lead, le⟩ := sendBits_own sent
    have bit (v : Nat) (low : b.start ≤ v) (high : v < b.start + bitHold b.one) : frameWire start body v = true := by
      have drives : b.drives v = true := by rw [SentBit.drives, lead]; exact decide_eq_true ⟨low, high⟩
      have all : bitsWire (sendBits (firstLead start) (frameBits body)) v = true :=
        List.any_eq_true.mpr ⟨b, sent, drives⟩
      rw [frameWire, Wire.join, all, Bool.or_true]
    have hold := bitHold_range b.one
    have first : 1 ≤ b.start := Nat.le_trans (by unfold firstLead; omega) le
    rw [SentBit.checks, List.mem_cons] at here
    obtain rfl | zero := here
    · exact ⟨b.start, first, by omega, fun i lt => bit _ (by omega) (by omega),
        fun v low high => bit v low (by omega)⟩
    · cases one : b.one with
      | true => simp [one] at zero
      | false =>
        rw [one] at zero hold bit
        obtain rfl : t = b.start + 32 := by simpa using zero
        exact ⟨b.start, first, by omega, fun i lt => bit _ (by omega) (by omega),
          fun v low high => bit v low (by rw [bitHold]; simp; omega)⟩

/-- So has a receiver that reads the line in the slot it asserts. -/
theorem slotChecks_held {d : SlotDrive} {t : Nat} (mem : t ∈ slotChecks d taken refused) :
    ∃ u, 1 ≤ u ∧ u ≤ t ∧ (∀ i, i < 8 → slotWire d taken refused (u + i) = true) ∧
      ∀ v, u ≤ v → v ≤ t → slotWire d taken refused v = true := by
  suffices driven : ∃ lead, t = lead + 32 ∧ ∀ v, lead + 8 ≤ v → v < lead + 48 → slotWire d taken refused v = true by
    obtain ⟨lead, rfl, drives⟩ := driven
    exact ⟨lead + 8, by omega, by omega, fun i lt => drives _ (by omega) (by omega),
      fun v low high => drives v low (by omega)⟩
  cases d with
  | neither => exact absurd mem List.not_mem_nil
  | taken =>
    cases taken with
    | none => exact absurd mem List.not_mem_nil
    | some lead =>
      refine ⟨lead, List.mem_singleton.mp mem, fun v low high => ?_⟩
      simp [slotWire, low, high]
  | refused =>
    cases taken with
    | none => exact absurd mem List.not_mem_nil
    | some _ =>
      cases refused with
      | none => exact absurd mem List.not_mem_nil
      | some lead =>
        refine ⟨lead, List.mem_singleton.mp mem, fun v low high => ?_⟩
        simp [slotWire, low, high]

/-- A station whose driver pulls the wire finds no drive fault. -/
theorem State.faultFound_none (other : Wire) :
    s.faultFound start taken refused ((s.drives start taken refused).join other) = none := by
  have seen {u t : Nat} {part : Wire} (first : 1 ≤ u) (le : u ≤ t)
      (driven : ∀ v, part v = true → s.drives start taken refused v = true)
      (held : ∀ i, i < 8 → part (u + i) = true) (lasts : ∀ v, u ≤ v → v ≤ t → part v = true) :
      ((s.drives start taken refused).join other).seen t = true := by
    refine Wire.seen_dominant first le (fun i lt => ?_) fun v low high => ?_
    · rw [Wire.join, driven _ (held i lt), Bool.true_or]
    · rw [Wire.join, driven _ (lasts v low high), Bool.true_or]
  rw [State.faultFound, Wire.faultAt, List.find?_eq_none]
  intro t mem fault
  suffices dominant : ((s.drives start taken refused).join other).seen t = true by
    rw [dominant, Bool.not_true, Bool.and_false] at fault
    cases fault
  rw [List.mem_append] at mem
  obtain own | slot := mem
  · cases found : s.onLineEntry with
    | none => rw [found] at own; exact absurd own List.not_mem_nil
    | some x =>
      rw [found] at own
      obtain ⟨u, first, le, held, lasts⟩ := frameChecks_held own
      refine seen first le (fun v driven => ?_) held lasts
      rw [State.drives, found, Wire.join]
      dsimp only
      rw [driven, Bool.true_or]
  · obtain ⟨u, first, le, held, lasts⟩ := slotChecks_held slot
    refine seen first le (fun v driven => ?_) held lasts
    rw [State.drives, Wire.join, driven, Bool.or_true]

theorem State.onLineEntry_eq_none (idle : ∀ e ∈ s.traffic.queue, e.onLine = false) : s.onLineEntry = none := by
  rw [State.onLineEntry, Traffic.onLineIndex, indexWhere_eq_none.mpr idle]
  rfl

theorem State.onLineEntry_isSome_of {e : OutEntry} (mem : e ∈ s.traffic.queue) (onLine : e.onLine = true) :
    ∃ x, s.onLineEntry = some x := by
  have sending : s.traffic.sending = true := List.any_eq_true.mpr ⟨e, mem, onLine⟩
  exact Option.ne_none_iff_exists'.mp (State.onLineEntry_isSome sending)

/-- On a wire that stays recessive a sender finds the fault T/8 into its start mark. -/
theorem State.faultFound_sender {e : OutEntry} (mem : e ∈ s.traffic.queue) (onLine : e.onLine = true) :
    s.faultFound start taken refused (fun _ => false) = some (start + 8) := by
  obtain ⟨x, found⟩ := State.onLineEntry_isSome_of mem onLine
  have drives : s.drives start taken refused (start + 8) = true := by
    rw [State.drives, found, Wire.join]
    dsimp only
    rw [frameWire, Wire.join, markWire, decide_eq_true (by omega), Bool.true_or, Bool.true_or]
  rw [State.faultFound, Wire.faultAt, found]
  exact List.find?_cons_of_pos (by rw [drives, Wire.seen_recessive]; rfl)

/-- And a receiver finds it at T/2 of the slot it asserts. -/
theorem State.faultFound_receiver {lead : Nat} (idle : ∀ e ∈ s.traffic.queue, e.onLine = false)
    (asserts : (s.line.slot = .taken ∧ taken = some lead) ∨
      (s.line.slot = .refused ∧ taken ≠ none ∧ refused = some lead)) :
    s.faultFound start taken refused (fun _ => false) = some (lead + 32) := by
  have none := State.onLineEntry_eq_none idle
  obtain ⟨checks, slot⟩ : slotChecks s.line.slot taken refused = [lead + 32] ∧
      slotWire s.line.slot taken refused (lead + 32) = true := by
    obtain ⟨slot, rfl⟩ | ⟨slot, some_, rfl⟩ := asserts
    · rw [slot]
      exact ⟨rfl, by simp [slotWire]⟩
    · obtain ⟨x, rfl⟩ := Option.ne_none_iff_exists'.mp some_
      rw [slot]
      exact ⟨rfl, by simp [slotWire]⟩
  have drives : s.drives start taken refused (lead + 32) = true := by
    rw [State.drives, Wire.join, slot, Bool.or_true]
  rw [State.faultFound, Wire.faultAt, none, checks]
  exact List.find?_cons_of_pos (by rw [drives, Wire.seen_recessive]; rfl)

end Faults

/-! ### The statement -/

/-- A frame on the wire, with the slots its receivers assert, is received whole. -/
theorem receive_framed {f : Frame} (short : f.payload.length ≤ 40) {start : Nat} {receivers : List SlotDrive}
    {w : Wire} (seen : ∀ t, w t = framed start (bodyBits f) receivers t) :
    w.receive start = some (.bits (bodyBits f) (start + 192 + 64 * (38 + 8 * f.payload.length))) := by
  have bits := bodyBits_length f
  have header : bodyField ((bodyBits f).take 23) 17 6 = f.payload.length := by
    rw [← bodyField_length f short, bodyField, bodyField, List.drop_take, List.take_take]
    rfl
  have whole : (bodyBits f).take (39 + 8 * f.payload.length) = bodyBits f := List.take_of_length_le (by omega)
  have last : 39 + 8 * f.payload.length - 1 = 38 + 8 * f.payload.length := by omega
  rw [Wire.receive, startMark_framed _ _ seen, Option.map_some, readBits_framed seen (by omega)]
  dsimp only
  rw [header, if_neg (by omega), readBits_framed seen (by omega), whole, last]

theorem readSlots_framed {body : List Bool} {start : Nat} {receivers : List SlotDrive} (some_ : 0 < body.length)
    {w : Wire} (seen : ∀ t, w t = framed start body receivers t) :
    w.readSlots (start + 192 + 64 * (body.length - 1)) =
      some (receivers.contains .taken, receivers.contains .refused) := by
  have next : body.length - 1 + 1 = body.length := by omega
  have asserted (b : Bool) : decide (32 < bitHold (!b)) = b := by cases b <;> decide
  have taken : frameHold body receivers body.length = bitHold (!receivers.contains .taken) := by
    rw [frameHold, if_neg (Nat.lt_irrefl _), if_pos rfl]
  have refused : frameHold body receivers (body.length + 1) = bitHold (!receivers.contains .refused) := by
    rw [frameHold, if_neg (by omega), if_neg (by omega)]
  rw [Wire.readSlots, readSlot_framed seen (by omega), next, Option.bind_some, readSlot_framed seen (by omega),
    Option.map_some, taken, refused, asserted, asserted]

/-- Settles O5: the levels of a frame are one a bit period, which the filter leaves and a receiver reads. -/
theorem frameRoundTrip : Obligations.FrameRoundTrip := by
  refine ⟨fun f cls source kind number short => ⟨readBody_bodyBits cls source kind number short,
      fun start receivers later => ?wire⟩,
    fun w t => ⟨fun edge i lt => Wire.seen_edge edge lt, fun level held => Wire.seen_of_holds held⟩,
    fun a b start timer later le length => readBits_twoSenders later le length,
    fun w n lead => ⟨fun long => ?_, fun short missing => ?_⟩,
    fun s start taken refused => ⟨State.faultFound_none, fun ⟨e, mem, onLine⟩ => State.faultFound_sender mem onLine,
      fun lead idle asserts => State.faultFound_receiver idle asserts⟩⟩
  case wire =>
    intro last wire
    have bits := bodyBits_length f
    have first : last + 64 = start + 192 + 64 * (bodyBits f).length := by rw [bits]; omega
    have second : last + 128 = start + 192 + 64 * ((bodyBits f).length + 1) := by rw [bits]; omega
    have same : wire = framed start (bodyBits f) receivers := by
      funext t
      rw [← frameWire_join, ← first, ← second]
    have seen (t : Nat) : wire.seen t = framed start (bodyBits f) receivers t := by
      rw [same]
      exact framed_seen later _ _ t
    have place : last = start + 192 + 64 * ((bodyBits f).length - 1) := by rw [bits]; omega
    refine ⟨receive_framed short seen, ?_⟩
    rw [place]
    exact readSlots_framed (by omega) seen
  · have found := Wire.longLevel_isSome.mpr long
    rw [Wire.readBits, if_neg (by omega), if_pos found]
  · have none : w.nextFall (lead + 32) 96 = none := by
      refine Wire.nextFall_eq_none fun i lt edge => missing (32 + i) (by omega) (by omega) ?_
      rwa [← Nat.add_assoc]
    rw [Wire.readBits, if_neg (by omega), if_neg (fun found => short (Wire.longLevel_isSome.mp found)), none]

end Sys2Proof.Machine


namespace Sys2Proof.Machine

open Sys2Proof

/-! ## Parity (R9) -/

section Parity

theorem oddOnes_succ (width v : Nat) : oddOnes (width + 1) v = (oddOnes width v ^^ v.testBit width) := by
  simp only [oddOnes, List.range_succ, List.foldl_append, List.foldl_cons, List.foldl_nil]

theorem oddOnes_congr {width v u : Nat} (same : ∀ i, i < width → v.testBit i = u.testBit i) :
    oddOnes width v = oddOnes width u := by
  induction width with
  | zero => rfl
  | succ width ih =>
    rw [oddOnes_succ, oddOnes_succ, ih fun i lt => same i (by omega), same width (by omega)]

/-- An odd number of ones is counted. -/
theorem oddOnes_eq (width v : Nat) :
    oddOnes width v = decide (((List.range width).filter fun i => v.testBit i).length % 2 = 1) := by
  induction width with
  | zero => rfl
  | succ width ih =>
    rw [oddOnes_succ, ih, List.range_succ, List.filter_append, List.length_append, List.filter_cons, List.filter_nil]
    generalize ((List.range width).filter fun i => v.testBit i).length = n
    cases v.testBit width with
    | false => simp
    | true => rcases Nat.mod_two_eq_zero_or_one n with even | odd <;> simp [Nat.add_mod, *]

theorem encodeCell_bit (c : Byte) {i : Nat} (lt : i < 8) :
    (encodeCell c).toNat.testBit i = c.toNat.testBit i := by
  rw [encodeCell, BitVec.testBit_toNat, BitVec.getLsbD_append, if_pos lt]
  rfl

theorem encodeCell_top (c : Byte) : (encodeCell c).toNat.testBit 8 = !oddOnes 8 c.toNat := by
  rw [encodeCell, BitVec.testBit_toNat, BitVec.getLsbD_append, if_neg (by decide)]
  cases oddOnes 8 c.toNat <;> rfl

theorem goodParity_encodeCell (c : Byte) : goodParity (encodeCell c) = true := by
  have low : oddOnes 8 (encodeCell c).toNat = oddOnes 8 c.toNat :=
    oddOnes_congr fun i lt => encodeCell_bit c lt
  rw [goodParity, oddOnes_succ, low, encodeCell_top]
  cases oddOnes 8 c.toNat <;> rfl

theorem cellCode_encodeCell (c : Byte) : cellCode (encodeCell c) = c := by
  refine BitVec.eq_of_getLsbD_eq fun i lt => ?_
  rw [cellCode, BitVec.getLsbD_setWidth, decide_eq_true lt, Bool.true_and, encodeCell, BitVec.getLsbD_append,
    if_pos lt]

end Parity

/-! ## Codes written and read (R9) -/

section Codes

variable {block : Nat} {m : Memory}

theorem read_writeCodes (codes : List Byte) (first : Nat) (form : m.wf = true) (x : Nat) :
    Memory.read (writeCodes block first codes m) x =
      if 32 * block + first ≤ x ∧ x < 32 * block + first + codes.length then
        encodeCell (codes.getD (x - (32 * block + first)) 0#8)
      else m.read x := by
  induction codes generalizing first m with
  | nil => rw [writeCodes, if_neg (by simp)]
  | cons c rest ih =>
    rw [writeCodes, ih (first + 1) (Memory.wf_write _ _ form), List.length_cons]
    by_cases here : x = 32 * block + first
    · subst here
      rw [if_neg (by omega), if_pos (by omega), Memory.read_write_same _ _ form, Nat.sub_self]
      rfl
    · rw [Memory.read_write_other _ _ form (Ne.symm here)]
      by_cases after : 32 * block + (first + 1) ≤ x ∧ x < 32 * block + (first + 1) + rest.length
      · have place : x - (32 * block + first) = x - (32 * block + (first + 1)) + 1 := by omega
        rw [if_pos after, if_pos (by omega), place, List.getD_cons_succ]
      · rw [if_neg after, if_neg (by omega)]

/-- Codes are read back as they were written. -/
theorem readCells_writeCodes (codes : List Byte) (first : Nat) (form : m.wf = true) :
    readCells block first codes.length (writeCodes block first codes m) = codes.map encodeCell := by
  refine List.ext_getElem (by simp [readCells]) fun i h _ => ?_
  have lt : i < codes.length := by simpa [readCells] using h
  simp only [readCells, List.getElem_map, List.getElem_range]
  rw [read_writeCodes codes first form, if_pos (by omega), Nat.add_sub_cancel_left, List.getD_eq_getElem _ _ lt]

theorem read_writeCodes_outside (codes : List Byte) (first : Nat) (form : m.wf = true) {x : Nat}
    (outside : x < 32 * block + first ∨ 32 * block + first + codes.length ≤ x) :
    Memory.read (writeCodes block first codes m) x = m.read x := by
  rw [read_writeCodes codes first form, if_neg (by omega)]

end Codes

/-! ## A read of the store port (R9, R11, R195) -/

section Reads

variable {s : State}

/-- What RESTART leaves waiting for the access of the port. -/
def Desk.accessEnded (d : Desk) : Desk :=
  if d.op = .restarting then
    { d with
        op := .idle,
        response := some { name := d.command.getD 0#8, result := .done, field := none, data := .nothing } }
  else d

theorem Desk.accessEnded_latched (d : Desk) (n : Notice) : d.accessEnded.latched n = d.latched n := by
  unfold Desk.accessEnded
  split <;> rfl

/-- The end of an access serves the port on, and answers the RESTART that waited for it. -/
theorem State.endAccess_eq (s : State) :
    s.endAccess = { s with port := s.port.complete, desk := s.desk.accessEnded } := by
  unfold State.endAccess Desk.accessEnded
  dsimp only
  split
  · next h =>
    have h' : s.desk.op = .restarting := h
    rw [if_pos h']
    rfl
  · next h =>
    have h' : ¬s.desk.op = .restarting := h
    rw [if_neg h']
    rfl

variable (a : Access) (upsets : List Upset)

/-- The text RAM with the upsets a read meets. -/
def State.upset (s : State) : State :=
  s.onStore fun st => { st with text := applyUpsets a.block upsets st.text }

/-- The cells a read meets. -/
def State.cellsRead (s : State) : List TextCell :=
  readCells a.block a.first a.count (applyUpsets a.block upsets s.store.text)

theorem State.readBlock_marked (marked : a.block ∈ s.store.marks) :
    s.readBlock a upsets = (s.upset a upsets, { codes := List.replicate a.count 0x1A#8, damaged := true }) := by
  have here : (s.upset a upsets).store.marks.contains a.block = true := List.contains_iff_mem.mpr marked
  exact if_pos here

theorem State.readBlock_good (unmarked : a.block ∉ s.store.marks)
    (good : ∀ v ∈ s.cellsRead a upsets, goodParity v = true) :
    s.readBlock a upsets =
      (s.upset a upsets, { codes := (s.cellsRead a upsets).map cellCode, damaged := false }) := by
  have here : ¬(s.upset a upsets).store.marks.contains a.block = true := fun h =>
    unmarked (List.contains_iff_mem.mp h)
  have all : (s.cellsRead a upsets).all goodParity = true := List.all_eq_true.mpr good
  exact (if_neg here).trans (if_pos all)

theorem State.readBlock_bad (unmarked : a.block ∉ s.store.marks)
    (bad : ∃ v ∈ s.cellsRead a upsets, goodParity v = false) :
    s.readBlock a upsets =
      (((s.upset a upsets).onStore (Store.mark a.block)).raise .storeDamage,
        { codes := List.replicate a.count 0x1A#8, damaged := true }) := by
  have here : ¬(s.upset a upsets).store.marks.contains a.block = true := fun h =>
    unmarked (List.contains_iff_mem.mp h)
  have some_ : ¬(s.cellsRead a upsets).all goodParity = true := by
    obtain ⟨v, mem, wrong⟩ := bad
    exact fun all => absurd (wrong.symm.trans (List.all_eq_true.mp all v mem)) nofun
  exact (if_neg here).trans (if_neg some_)

end Reads

/-- A notice raised leaves the state but for the flags and what they drive. -/
theorem State.raise_rest (n : Notice) (s : State) :
    (s.raise n).store = s.store ∧ (s.raise n).port = s.port ∧ (s.raise n).line = s.line ∧
      (s.raise n).traffic = s.traffic ∧ (s.raise n).pass = s.pass ∧ (s.raise n).fit = s.fit ∧
      (s.raise n).page = s.page ∧ (s.raise n).clock = s.clock ∧ (s.raise n).screen = s.screen ∧
      onlyNotices s (s.raise n) := by
  rw [State.raise_eq n s]
  exact ⟨rfl, rfl, rfl, rfl, rfl, rfl, rfl, rfl, rfl, rfl⟩

/-- Settles O27. -/
theorem parityKept : Obligations.ParityKept := by
  refine ⟨fun block first codes m form => ⟨readCells_writeCodes codes first form,
      fun x outside => read_writeCodes_outside codes first form outside⟩,
    fun c => ⟨cellCode_encodeCell c, goodParity_encodeCell c⟩, fun v => ?_, fun a upsets s => ?_⟩
  · rw [goodParity, oddOnes_eq, decide_eq_true_eq]
    rfl
  intro text cells x d fill
  have ended : s.endAccess = { s with port := s.port.complete, desk := d } := s.endAccess_eq
  have read : x = State.readBlock a upsets { s with port := s.port.complete, desk := d } :=
    congrArg (State.readBlock a upsets) ended
  have flags (n : Notice) : d.latched n = s.desk.latched n := s.desk.accessEnded_latched n
  clear_value x d
  subst read
  clear ended
  let served : State := { s with port := s.port.complete, desk := d }
  refine ⟨?_, fun marked => ?_, fun unmarked good => ?_, fun unmarked bad => ?_⟩
  · unfold State.readBlock
    dsimp only
    repeat' split
    · exact ⟨rfl, rfl, rfl, rfl, rfl, rfl, rfl, rfl⟩
    · exact ⟨rfl, rfl, rfl, rfl, rfl, rfl, rfl, rfl⟩
    · obtain ⟨_, port, line, traffic, pass, fit, page, clock, screen, _⟩ :=
        State.raise_rest .storeDamage _
      exact ⟨port, line, traffic, pass, fit, page, clock, screen⟩
  · rw [State.readBlock_marked (s := served) a upsets marked]
    exact ⟨rfl, rfl, rfl⟩
  · rw [State.readBlock_good (s := served) a upsets unmarked good]
    exact ⟨rfl, rfl, rfl⟩
  · rw [State.readBlock_bad (s := served) a upsets unmarked bad]
    obtain ⟨store, _, _, _, _, _, _, _, _, desk⟩ := State.raise_rest .storeDamage _
    refine ⟨rfl, State.raise_latched .storeDamage _, fun n other => (State.raise_latched_of_ne other _).trans (flags n), desk,
      store.trans ?_⟩
    simp only [State.upset, State.onStore, Store.mark, List.contains_iff_mem]
    rfl

end Sys2Proof.Machine


namespace Sys2Proof.Machine

open Sys2Proof

/-! ## The rewrite of a PLACE (R16) -/

section Rewriting

variable {r : Rewrite} {old : List Byte}

theorem lt_blocksFor {n i : Nat} : i < blocksFor n ↔ 32 * i < n := by
  unfold blocksFor ceilDiv
  omega

theorem Rewrite.hasRead_iff {i : Nat} : r.hasRead i = true ↔ ∃ h ∈ r.held, h.1 = i := by
  simp [Rewrite.hasRead]

/-- With no block to read next, every old block is held that comes before the one to write or is needed for it. -/
theorem Rewrite.hasRead_of_nextRead {i : Nat} (none : r.nextRead = none) (first : r.start / 32 ≤ i)
    (inside : 32 * i < r.oldLength) (wanted : i ≤ r.next ∨ r.needs r.next i = true) : r.hasRead i = true := by
  by_contra unread
  rw [Bool.not_eq_true] at unread
  rw [Rewrite.nextRead, List.find?_eq_none] at none
  have lt := lt_blocksFor.mpr inside
  have mem : i ∈ (List.range (blocksFor r.oldLength - r.start / 32)).map (r.start / 32 + ·) :=
    List.mem_map.mpr ⟨i - r.start / 32, List.mem_range.mpr (by omega), Nat.add_sub_cancel' first⟩
  refine none i mem ?_
  obtain le | needed := wanted
  · simp [unread, le]
  · simp [unread, needed]

/-- An old character is the one that was read. -/
theorem Rewrite.oldChar_eq {q : Nat} (read : r.hasRead (q / 32) = true) (inside : q < old.length)
    (held : ∀ h ∈ r.held, h.2 = (old.drop (32 * h.1)).take 32) : r.oldChar q = old[q] := by
  obtain ⟨x, mem, block⟩ := Rewrite.hasRead_iff.mp read
  obtain ⟨h, found⟩ : ∃ h, r.held.find? (fun h => decide (h.1 = q / 32)) = some h :=
    Option.isSome_iff_exists.mp (List.find?_isSome.mpr ⟨x, mem, decide_eq_true block⟩)
  have same : h.1 = q / 32 := by simpa using List.find?_some found
  have codes := held h (List.mem_of_find?_eq_some found)
  rw [same] at codes
  rw [Rewrite.oldChar, found]
  simp only [Option.map_some, Option.getD_some, codes]
  have here : ((old.drop (32 * (q / 32))).take 32)[q % 32]? = some old[q] := by
    rw [List.getElem?_take, if_pos (Nat.mod_lt q (by decide)), List.getElem?_drop,
      List.getElem?_eq_some_iff]
    have place : 32 * (q / 32) + q % 32 = q := Nat.div_add_mod q 32
    exact ⟨by omega, by simp only [place]⟩
  rw [List.getD_eq_getElem?_getD, here, Option.getD_some]

/-- The new text, read at an offset. -/
theorem getElem?_replaced {start stop : Nat} {text : List Byte} (le : start ≤ stop) (inside : stop ≤ old.length) (p : Nat) :
    (old.take start ++ text ++ old.drop stop)[p]? =
      if p < start then old[p]?
      else if p < start + text.length then text[p - start]?
      else old[p - (start + text.length) + stop]? := by
  have length : (old.take start).length = start := by rw [List.length_take]; omega
  have both : (old.take start ++ text).length = start + text.length := by rw [List.length_append, length]
  rw [List.getElem?_append, both]
  split
  · rw [List.getElem?_append, length]
    split
    · next before => rw [List.getElem?_take, if_pos before]
    · rfl
  · next after =>
    rw [if_neg (by omega), List.getElem?_drop, Nat.add_comm stop]

end Rewriting

/-- Settles O24: every old character that the new block shows lies in a block that has been read. -/
theorem rewriteBlockRight : Obligations.RewriteBlockRight := by
  intro r old new le inside oldLength newLength first some_ none held
  have read {i : Nat} (low : r.start / 32 ≤ i) (within : 32 * i < old.length)
      (wanted : i ≤ r.next ∨ r.needs r.next i = true) : r.hasRead i = true :=
    Rewrite.hasRead_of_nextRead none low (by rw [oldLength]; exact within) wanted
  refine ⟨fun i low high within => Rewrite.hasRead_iff.mp (read low within (.inl high)), ?_⟩
  have length : new.length = r.start + r.text.length + (old.length - r.stop) := by
    simp only [new, List.length_append, List.length_take, List.length_drop]
    omega
  refine List.ext_getElem? fun i => ?_
  rw [Rewrite.newBlock, List.getElem?_map, List.getElem?_take, List.getElem?_drop]
  by_cases here : i < charsIn r.newLength r.next
  · have bounds : i < 32 ∧ 32 * r.next + i < new.length := by
      unfold charsIn at here
      omega
    obtain ⟨short, whole⟩ := bounds
    rw [List.getElem?_range here, if_pos short, Option.map_some]
    show some (r.newChar (32 * r.next + i)) = (old.take r.start ++ r.text ++ old.drop r.stop)[_]?
    rw [getElem?_replaced le inside]
    unfold Rewrite.newChar Rewrite.textEnd
    split
    · next before =>
      have block : (32 * r.next + i) / 32 = r.next := by omega
      have known : r.hasRead ((32 * r.next + i) / 32) = true :=
        read (by omega) (by omega) (.inl (by omega))
      rw [Rewrite.oldChar_eq known (by omega) held, List.getElem?_eq_getElem]
    · split
      · next inText =>
        rw [List.getD_eq_getElem _ _ (by omega), List.getElem?_eq_getElem]
      · next after =>
        have offset : r.oldOffset (32 * r.next + i) = 32 * r.next + i - (r.start + r.text.length) + r.stop := rfl
        have within : r.oldOffset (32 * r.next + i) < old.length := by rw [offset]; omega
        have needed : r.needs r.next (r.oldOffset (32 * r.next + i) / 32) = true := by
          have bounds : max (32 * r.next) r.textEnd ≤ 32 * r.next + i ∧
              32 * r.next + i < min (32 * r.next + 32) r.newLength := by
            unfold Rewrite.textEnd
            omega
          simp only [Rewrite.needs, Rewrite.oldOffset, Bool.and_eq_true]
          exact ⟨⟨decide_eq_true (by omega), decide_eq_true (Nat.div_le_div_right (by omega))⟩,
            decide_eq_true (Nat.div_le_div_right (by omega))⟩
        have known : r.hasRead (r.oldOffset (32 * r.next + i) / 32) = true :=
          read (by rw [offset]; exact Nat.div_le_div_right (by omega)) (by omega) (.inr needed)
        rw [Rewrite.oldChar_eq known within held, List.getElem?_eq_getElem]
        rfl
  · have none : (List.range (charsIn r.newLength r.next))[i]? = Option.none :=
      List.getElem?_eq_none (by rw [List.length_range]; omega)
    rw [none, Option.map_none]
    split
    · refine (List.getElem?_eq_none ?_).symm
      unfold charsIn at here
      omega
    · rfl

/-! ## The port (R11) -/

theorem Port.noneWaits_iff {p : Port} : p.noneWaits = true ↔ ∀ q, p.waiting q = none := by
  simp only [Port.noneWaits, Bool.and_eq_true, Option.isNone_iff_eq_none, and_assoc]
  constructor
  · rintro ⟨slip, desk, page, fit, row⟩ q
    cases q <;> assumption
  · intro none
    exact ⟨none .slip, none .desk, none .page, none .fit, none .row⟩

theorem Port.setWaiting_busy (p : Port) (r : Requester) (a : Option Access) : (p.setWaiting r a).busy = p.busy := by
  cases r <;> rfl

theorem Port.request_waits {a : Access} {p : Port} (busy : ¬(p.busy = none ∧ ∀ q, p.waiting q = none)) :
    p.request a = p.setWaiting a.purpose.requester (some a) := by
  rw [Port.request, if_neg]
  rwa [Bool.and_eq_true, Option.isNone_iff_eq_none, Port.noneWaits_iff]

/-- The place of a requester in the order of R11. -/
def Requester.rank : Requester → Nat
  | .slip => 1
  | .desk => 2
  | .page => 3
  | .fit => 4
  | .row => 5

theorem Port.complete_none {p : Port} (silent : ∀ q, p.waiting q = none) :
    p.complete = { p with busy := none } := by
  obtain ⟨busy, slip, desk, page, fit, row⟩ := p
  obtain rfl : slip = none := silent .slip
  obtain rfl : desk = none := silent .desk
  obtain rfl : page = none := silent .page
  obtain rfl : fit = none := silent .fit
  obtain rfl : row = none := silent .row
  rfl

/-- The waiting requester that stands highest is granted. -/
theorem Port.complete_grants {p : Port} {q : Requester} {a : Access} (waits : p.waiting q = some a)
    (first : ∀ x : Requester, x.rank < q.rank → p.waiting x = none) :
    p.complete.busy = some a ∧ ∀ x, p.complete.waiting x = if x = q then none else p.waiting x := by
  have grant : p.complete = { p.setWaiting q none with busy := some a } := by
    obtain ⟨busy, slip, desk, page, fit, row⟩ := p
    cases q with
    | slip =>
      obtain rfl : slip = some a := waits
      rfl
    | desk =>
      obtain rfl : slip = none := first .slip (by decide)
      obtain rfl : desk = some a := waits
      rfl
    | page =>
      obtain rfl : slip = none := first .slip (by decide)
      obtain rfl : desk = none := first .desk (by decide)
      obtain rfl : page = some a := waits
      rfl
    | fit =>
      obtain rfl : slip = none := first .slip (by decide)
      obtain rfl : desk = none := first .desk (by decide)
      obtain rfl : page = none := first .page (by decide)
      obtain rfl : fit = some a := waits
      rfl
    | row =>
      obtain rfl : slip = none := first .slip (by decide)
      obtain rfl : desk = none := first .desk (by decide)
      obtain rfl : page = none := first .page (by decide)
      obtain rfl : fit = none := first .fit (by decide)
      obtain rfl : row = some a := waits
      rfl
  rw [grant]
  refine ⟨rfl, fun x => ?_⟩
  exact Port.waiting_setWaiting x q none p

/-! ## The accesses of the desk link (R13, R16, R17) -/

section DeskAccess

variable {s : State} {a : Access} {upsets : List Upset}

theorem substitute_fst (codes : List Byte) (ok : Byte → Bool) :
    (substitute ok codes).1 = codes.map fun c => if ok c = true then c else 0x3F#8 := rfl

/-- 0x1A is stored as 0x3F, and counted (R13). -/
theorem substitute_fill (codes : List Byte) :
    substitute (fun c => decide (c ≠ 0x1A#8)) codes =
      (codes.map fun c => if c = 0x1A#8 then 0x3F#8 else c, codes.count 0x1A#8) := by
  unfold substitute
  congr 1
  · refine List.map_congr_left fun c _ => ?_
    by_cases fill : c = 0x1A#8 <;> simp [fill]
  · rw [List.count, List.countP_eq_length_filter]
    congr 1
    refine List.filter_congr fun c _ => ?_
    by_cases fill : c = 0x1A#8 <;> simp [fill]

theorem blocksFor_le_iff {n i : Nat} : blocksFor n ≤ i ↔ n ≤ 32 * i := by
  rw [← Nat.not_lt, lt_blocksFor, Nat.not_lt]

/-- A rewrite that is not finished asks for its next read, or for its next write. -/
theorem State.continuePlace_goes {r : Rewrite} (more : r.nextRead = none → 32 * r.next < r.newLength) :
    (∃ i, r.nextRead = some i ∧
      s.continuePlace r = (s.onDesk fun d => { d with op := .rewriting r }).requestChain (.rewriteRead i)
        (((s.story r.key).map (·.chain)).getD []) r.oldLength i) ∨
    (r.nextRead = none ∧
      s.continuePlace r = (s.onDesk fun d => { d with op := .rewriting r }).requestChain (.rewriteWrite r.next)
        (((s.story r.key).map (·.chain)).getD []) r.newLength r.next) := by
  unfold State.continuePlace
  dsimp only
  cases next : r.nextRead with
  | some i => exact .inl ⟨i, rfl, rfl⟩
  | none => exact .inr ⟨rfl, if_pos (lt_blocksFor.mpr (more next))⟩

/-- An access that ends while the desk link's operation is not RESTART serves the port on. -/
theorem State.endAccess_serves (op : s.desk.op ≠ .restarting) : s.endAccess = s.onPort Port.complete := by
  rw [State.endAccess_eq, Desk.accessEnded, if_neg op]
  rfl

/-- A read changes the text of the store, its marks and damaged fields, and the flags. -/
theorem State.readBlock_rest (a : Access) (upsets : List Upset) (s : State) :
    let x := s.readBlock a upsets
    x.1.port = s.port ∧ x.1.line = s.line ∧ x.1.traffic = s.traffic ∧ x.1.pass = s.pass ∧ x.1.fit = s.fit ∧
      x.1.page = s.page ∧ x.1.clock = s.clock ∧ x.1.screen = s.screen ∧ onlyNotices s x.1 := by
  unfold State.readBlock
  dsimp only
  repeat' split
  · exact ⟨rfl, rfl, rfl, rfl, rfl, rfl, rfl, rfl, rfl⟩
  · exact ⟨rfl, rfl, rfl, rfl, rfl, rfl, rfl, rfl, rfl⟩
  · obtain ⟨_, rest⟩ := State.raise_rest .storeDamage
      ((s.onStore fun st => { st with text := applyUpsets a.block upsets st.text }).onStore (Store.mark a.block))
    exact rest

/-- What an access of the desk link's operation leaves as it was. -/
structure ServedOn (s t : State) : Prop where
  port : t.port = s.port.complete
  line : t.line = s.line
  traffic : t.traffic = s.traffic
  pass : t.pass = s.pass
  fit : t.fit = s.fit
  page : t.page = s.page
  clock : t.clock = s.clock
  screen : t.screen = s.screen
  command : t.desk.command = s.desk.command
  response : t.desk.response = s.desk.response

theorem State.endRead_servedOn (op : s.desk.op ≠ .restarting) : ServedOn s (s.endRead a upsets).1 := by
  have ended := State.endAccess_serves op
  obtain ⟨port, line, traffic, pass, fit, page, clock, screen, desk⟩ := s.endAccess.readBlock_rest a upsets
  have desk : (s.endRead a upsets).1.desk = _ := desk
  have command : (s.endRead a upsets).1.desk.command = s.endAccess.desk.command := by rw [desk]
  have response : (s.endRead a upsets).1.desk.response = s.endAccess.desk.response := by rw [desk]
  clear desk
  unfold State.endRead at command response ⊢
  rw [ended] at port line traffic pass fit page clock screen command response ⊢
  exact ⟨port, line, traffic, pass, fit, page, clock, screen, command, response⟩

theorem State.writeBlock_servedOn (op : s.desk.op ≠ .restarting) (codes : List Byte) (n : Nat) :
    ServedOn s (s.endAccess.writeBlock a codes n) := by
  rw [State.endAccess_serves op]
  exact ⟨rfl, rfl, rfl, rfl, rfl, rfl, rfl, rfl, rfl, rfl⟩

theorem exec_rewriteRead {r : Rewrite} {i : Nat} (busy : s.port.busy = some a) (op : s.desk.op = .rewriting r)
    (purpose : a.purpose = .rewriteRead i) :
    exec (.rewriteAccessCompletion upsets) s =
      .next ((s.endRead a upsets).1.continuePlace
        { r with held := r.held ++ [(i, (s.endRead a upsets).2.codes)] }) := by
  show Host.Outcome.next (s.rewriteCompleted upsets) = _
  simp only [State.rewriteCompleted, busy, op, purpose]

theorem exec_rewriteWrite {r : Rewrite} {j : Nat} (busy : s.port.busy = some a) (op : s.desk.op = .rewriting r)
    (purpose : a.purpose = .rewriteWrite j) :
    exec (.rewriteAccessCompletion upsets) s =
      .next ((s.endAccess.writeBlock a ((r.newBlock j).map fun c => if c = 0x1A#8 then 0x3F#8 else c)
        ((r.newBlock j).count 0x1A#8)).continuePlace { r with next := j + 1 }) := by
  show Host.Outcome.next (s.rewriteCompleted upsets) = _
  simp only [State.rewriteCompleted, busy, op, purpose, substitute_fill]

theorem exec_readTextCompletion {r : ReadOp} (busy : s.port.busy = some a) (op : s.desk.op = .reading r)
    (purpose : a.purpose = .readText) :
    exec (.readTextAccessCompletion upsets) s =
      .next ((s.endRead a upsets).1.continueRead { r with got := r.got ++ (s.endRead a upsets).2.codes }) := by
  have serving : s.serving (fun p => decide (p = .readText)) = some a := by
    simp [State.serving, busy, purpose]
  show Host.Outcome.next (s.readTextCompleted upsets) = _
  simp only [State.readTextCompleted, serving, op]

end DeskAccess

/-- Settles O25. -/
theorem deskAccessServed : Obligations.DeskAccessServed := by
  refine ⟨fun a p => ⟨fun free => Port.request_free free.1 (Port.noneWaits_iff.mpr free.2), fun busy => ?_⟩,
    fun p => ⟨Port.complete_none, fun q a waits first => Port.complete_grants waits first⟩,
    fun s a upsets busy => ?_⟩
  · rw [Port.request_waits busy]
    exact ⟨Port.setWaiting_busy .., fun q => Port.waiting_setWaiting ..⟩
  intro x rest goesOn
  have going {t : State} (on : ServedOn s t) {r : Rewrite} (more : r.nextRead = none → 32 * r.next < r.newLength) :
      (t.continuePlace r).store = t.store ∧ goesOn r (t.continuePlace r) := by
    obtain ⟨i, next, asks⟩ | ⟨next, asks⟩ := State.continuePlace_goes (s := t) more
    · rw [asks]
      exact ⟨rfl, rfl, on.response, ⟨on.line, on.traffic, on.pass, on.fit, on.page, on.clock, on.screen⟩,
        .inl ⟨i, next, by rw [← on.port]; rfl⟩⟩
    · rw [asks]
      exact ⟨rfl, rfl, on.response, ⟨on.line, on.traffic, on.pass, on.fit, on.page, on.clock, on.screen⟩,
        .inr ⟨next, by rw [← on.port]; rfl⟩⟩
  refine ⟨fun r i op purpose => ?_, fun r j op purpose => ?_, fun r op purpose => ?_⟩
  · intro r' more
    have on : ServedOn s x.1 := State.endRead_servedOn (by rw [op]; nofun)
    obtain ⟨store, goes⟩ := going on more
    exact ⟨_, exec_rewriteRead busy op purpose, store, goes⟩
  · intro r' codes more
    have on : ServedOn s (s.endAccess.writeBlock a codes ((r.newBlock j).count 0x1A#8)) :=
      State.writeBlock_servedOn (by rw [op]; nofun) ..
    obtain ⟨store, goes⟩ := going on more
    refine ⟨_, exec_rewriteWrite busy op purpose, store.trans ?_, goes⟩
    rw [State.endAccess_serves (by rw [op]; nofun)]
    rfl
  · intro got p
    have on : ServedOn s x.1 := State.endRead_servedOn (by rw [op]; nofun)
    refine ⟨_, exec_readTextCompletion busy op purpose, ?_⟩
    by_cases more : got.length < r.count
    · rw [if_pos more]
      have asks := State.continueRead_goes (s := x.1) (r := { r with got := got }) more
      rw [asks]
      exact ⟨rfl, ⟨on.line, on.traffic, on.pass, on.fit, on.page, on.clock, on.screen⟩, rfl, on.response,
        by rw [← on.port]; rfl⟩
    · rw [if_neg more]
      have done : x.1.continueRead { r with got := got } = x.1.done (.text got) := if_neg more
      rw [done]
      refine ⟨rfl, ⟨on.line, on.traffic, on.pass, on.fit, on.page, on.clock, on.screen⟩, rfl, on.port, ?_⟩
      rw [← on.command]
      rfl

end Sys2Proof.Machine


namespace Sys2Proof.Machine

open Sys2Proof

/-! ## One record changed (R3, R21) -/

section Records

theorem Store.story_change {k : Key} {f : Story → Story} (key : ∀ r, (f r).key = r.key) (st : Store) :
    (Store.change k f st).story k = (st.story k).map f := by
  simp only [Store.story, Store.change]
  induction st.stories with
  | nil => rfl
  | cons r rest ih =>
    by_cases here : r.key = k
    · simp [here, key]
    · simp [here, ih]

theorem Store.story_key {st : Store} {k : Key} {r : Story} (h : st.story k = some r) : r.key = k := by
  simpa using List.find?_some h

theorem State.story_key {s : State} {k : Key} {r : Story} (h : s.story k = some r) : r.key = k := Store.story_key h

/-- A record but for its page lock, after changes that leave the records so. -/
theorem KeepsStore.story {s t : State} (h : KeepsStore s t) {k : Key} {r : Story} (stands : s.story k = some r) :
    ∃ q, t.story k = some q ∧ q.unlocked = r.unlocked := by
  have same := story_unlocked h.stories k
  rw [stands, Option.map_some] at same
  exact Option.map_eq_some_iff.mp same

theorem unlocked_chain {q r : Story} (h : q.unlocked = r.unlocked) : q.chain = r.chain := by
  have := congrArg Story.chain h
  exact this

theorem RowsFollow.keepsStore {s t : State} (h : RowsFollow s t) : KeepsStore s t where
  stories := by rw [h.store]
  storeRest := by rw [h.store]
  line := h.line
  pass := h.pass
  clock := h.clock
  slots := by rw [h.traffic]
  counts := by rw [h.traffic]
  desk := by rw [onlyNotices, h.desk]
  notices := fun n stood => by rw [h.desk]; exact stood

end Records

/-! ## What the fit engine is told (R22, R105) -/

theorem State.fitInEdit_editKey (k : Key) (s : State) : (s.fitInEdit k).fit.editKey = some k := by
  unfold State.fitInEdit
  dsimp only
  rw [(State.settleFits_follows _).editKey]
  split
  · rw [(State.stopRun_follows ..).editKey]
    rfl
  · rfl

theorem State.fitTextChanged_editKey (k : Key) (s : State) : (s.fitTextChanged k).fit.editKey ≠ some k := by
  have dropped : (s.fit.editKey.filter (· ≠ k)) ≠ some k := by
    intro same
    obtain ⟨_, differs⟩ := Option.filter_eq_some_iff.mp same
    simp at differs
  unfold State.fitTextChanged
  dsimp only
  rw [(State.settleFits_follows _).editKey]
  repeat' split
  · exact dropped
  · rw [(State.stopRun_follows ..).editKey]
    exact dropped
  · exact dropped

theorem State.notifyInEdit_editKey (k : Key) (s : State) : (s.notifyInEdit k).fit.editKey = some k := by
  unfold State.notifyInEdit
  exact State.fitInEdit_editKey k _

theorem State.notifyTextChanged_editKey (k : Key) (s : State) : (s.notifyTextChanged k).fit.editKey ≠ some k := by
  unfold State.notifyTextChanged
  exact State.fitTextChanged_editKey k _

/-! ## Windows told of a story (R22, R176) -/

theorem toldInEdit_of_screen {k : Key} {s u t v : State} (told : toldInEdit k u v) (before : u.screen = s.screen)
    (after : t.screen = v.screen) : toldInEdit k s t := by
  unfold toldInEdit windowsTold at told ⊢
  rw [after, ← before]
  exact told

theorem toldTextChanged_of_screen {k : Key} {n : Nat} {s u t v : State} (told : toldTextChanged k n u v)
    (before : u.screen = s.screen) (after : t.screen = v.screen) : toldTextChanged k n s t := by
  unfold toldTextChanged windowsTold at told ⊢
  rw [after, ← before]
  exact told

section Told

variable {k : Key} {s u : State}

theorem State.notifyInEdit_window (n : Nat) (lane : n < 8) (s : State) :
    (s.notifyInEdit k).screen.windows[n]? = (s.screen.windows[n]?).map fun w =>
      if w.key = some k then { w.dirtyRows textRow with lineMap := none, waiting := true } else w := by
  unfold State.notifyInEdit
  rw [State.fitInEdit_screen, State.windowsInEdit_get _ _ _ lane]

theorem State.notifyInEdit_told (k : Key) (s : State) : toldInEdit k s (s.notifyInEdit k).settleRows := by
  refine State.settleRows_toldInEdit fun n w lane here => ?_
  rw [State.notifyInEdit_window n lane, here, Option.map_some]

theorem Window.dirtyRows_stale {w : Window} (rows : ∀ r, 1 ≤ r → r ≤ 20 → w.dirty[r]? = some true) (r : Nat)
    (low : 1 ≤ r) (high : r ≤ 20) : (w.dirtyRows textRow).dirty[r]? = some true := by
  simp [Window.dirtyRows, List.getElem?_mapIdx, rows r low high]

theorem Window.dirtyRows_staging (w : Window) {q : Row} (staged : (w.dirtyRows textRow).staging = .ready q) :
    q.number = 0 := by
  simp only [Window.dirtyRows] at staged
  split at staged
  · cases staged
  · next kept =>
    rw [staged] at kept
    simp [Staging.holds, textRow] at kept
    omega

/-- A text-changed notification after an in-edit one. -/
theorem State.settleRows_toldAgain {x : State} {len : Nat} {r : Story} (before : toldInEdit k s x)
    (windows : ∀ n v, n < 8 → x.screen.windows[n]? = some v → u.screen.windows[n]? = some (if v.key = some k then
      { v.dirtyRows textRow with lineMap := none, waiting := false, cursor := v.cursor.map (min len) } else v))
    (stands : u.story k = some r) (some_ : 0 < len → 0 < r.length) : toldTextChanged k len s u.settleRows := by
  intro n w lane here
  obtain ⟨v, there, shown, stale⟩ := before n w lane here
  have now := windows n v lane there
  obtain ⟨v', after, shown'⟩ := shown_get (State.settleRows_follows u).windows now
  have key : v.key = w.key := by
    have := congrArg Prod.fst shown
    simp only [Window.shown] at this
    rw [this]
    split <;> rfl
  refine ⟨v', after, ?_, fun onKey more whole => ?_⟩
  · rw [shown', key]
    split
    · next onKey =>
      rw [if_pos onKey] at shown
      simp only [Window.shown, Prod.mk.injEq, Window.dirtyRows] at shown ⊢
      obtain ⟨key, mode, cursor, _⟩ := shown
      exact ⟨key, mode, by rw [cursor], trivial⟩
    · next other =>
      rw [if_neg other] at shown
      exact shown
  · obtain ⟨lineMap, top, rows, staged⟩ := stale onKey trivial whole
    rw [key, if_pos onKey] at now
    have there : StaleAt n w.top u :=
      ⟨_, now, rfl, top, Window.dirtyRows_stale rows, fun q => Window.dirtyRows_staging v,
        .inr ⟨k, r, key.trans onKey, stands, some_ more⟩⟩
    obtain ⟨v'', here', lineMap', top', rows', staged', _⟩ := there.settleRows
    cases after.symm.trans here'
    exact ⟨lineMap', top', rows', staged'⟩

end Told

/-! ## The completion of a PLACE (R16) -/

/-- What the end of a PLACE of story `q`, `new` characters long now, makes of the state `y` it ends in. -/
structure PlaceEnded (k : Key) (new : Nat) (q : Story) (y t : State) : Prop where
  stories : t.store.stories.map Story.unlocked =
    y.store.stories.map fun p => if p.key = k then
      { p.unlocked with
          chain := p.chain.take ((new + 31) / 32), length := new,
          damaged := (p.chain.take ((new + 31) / 32)).any fun b => decide (b ∈ y.store.marks),
          fit := none, receivedFrom := none, inEdit := false }
      else p.unlocked
  storeRest : t.store =
    { y.store with
        stories := t.store.stories, pool := (q.chain.drop ((new + 31) / 32)).reverse ++ y.store.pool,
        marks := y.store.marks.filter (· ∉ q.chain.drop ((new + 31) / 32)) }
  editKey : t.fit.editKey ≠ some k
  op : t.desk.op = .idle
  response : t.desk.response =
    some { name := y.desk.command.getD 0#8, result := .done, field := none, data := .placed new }
  ready : t.desk.ready = y.desk.ready
  line : t.line = y.line
  pass : t.pass = y.pass
  clock : t.clock = y.clock
  slots : t.traffic.slots = y.traffic.slots

section Completing

variable {k : Key} {q : Story} {y : State}

/-- The store at the end of a PLACE, before the windows and the fit engine are told. -/
def State.placed (r : Rewrite) (extra : List Nat) (y : State) : State :=
  (y.onStore fun st =>
    Store.change r.key
      (fun q =>
        { q with chain := q.chain.take (blocksFor r.newLength), length := r.newLength,
                 damaged := (q.chain.take (blocksFor r.newLength)).any fun b => st.marks.contains b, fit := none,
                 receivedFrom := none, inEdit := false })
      (Store.giveBack extra st)).onDesk fun d => { d with op := .idle }

theorem State.completePlace_eq {r : Rewrite} (stands : y.story r.key = some q) :
    y.completePlace r =
      (((y.placed r (q.chain.drop (blocksFor r.newLength))).notifyTextChanged r.key).settleRows).done
        (.placed r.newLength) := by
  simp only [State.completePlace, stands]
  rfl

theorem State.placed_story {r : Rewrite} (stands : y.story r.key = some q) (extra : List Nat) :
    ∃ p, (y.placed r extra).story r.key = some p ∧ p.length = r.newLength := by
  have changed := Store.story_change (k := r.key) (f := fun q : Story =>
    { q with chain := q.chain.take (blocksFor r.newLength), length := r.newLength,
             damaged := (q.chain.take (blocksFor r.newLength)).any fun b => y.store.marks.contains b,
             fit := none, receivedFrom := none, inEdit := false }) (fun _ => rfl) (Store.giveBack extra y.store)
  have here : (Store.giveBack extra y.store).story r.key = some q := stands
  rw [here, Option.map_some] at changed
  exact ⟨_, changed, rfl⟩

theorem State.completePlace_ended {r : Rewrite} (stands : y.story r.key = some q) :
    PlaceEnded r.key r.newLength q y (y.completePlace r) := by
  rw [State.completePlace_eq stands]
  have placed_stories : (y.placed r (q.chain.drop (blocksFor r.newLength))).store.stories.map Story.unlocked =
      y.store.stories.map fun p => if p.key = r.key then
        { p.unlocked with
            chain := p.chain.take (blocksFor r.newLength), length := r.newLength,
            damaged := (p.chain.take (blocksFor r.newLength)).any fun b => decide (b ∈ y.store.marks),
            fit := none, receivedFrom := none, inEdit := false }
        else p.unlocked := by
    show ((y.store.stories.map fun p => if p.key = r.key then _ else p).map Story.unlocked) = _
    rw [List.map_map]
    refine List.map_congr_left fun p _ => ?_
    simp only [Function.comp_apply, List.contains_eq_mem]
    split <;> rfl
  have placed_rest (l : List Story) :
      { (y.placed r (q.chain.drop (blocksFor r.newLength))).store with stories := l } =
        { y.store with
            stories := l, pool := (q.chain.drop (blocksFor r.newLength)).reverse ++ y.store.pool,
            marks := y.store.marks.filter (· ∉ q.chain.drop (blocksFor r.newLength)) } := by
    simp only [State.placed, State.onDesk, State.onStore, Store.change, Store.giveBack, List.contains_eq_mem]
    congr 1
    refine List.filter_congr fun b _ => ?_
    simp
  have placed_desk : (y.placed r (q.chain.drop (blocksFor r.newLength))).desk = { y.desk with op := .idle } := rfl
  have placed_line : (y.placed r (q.chain.drop (blocksFor r.newLength))).line = y.line := rfl
  have placed_pass : (y.placed r (q.chain.drop (blocksFor r.newLength))).pass = y.pass := rfl
  have placed_clock : (y.placed r (q.chain.drop (blocksFor r.newLength))).clock = y.clock := rfl
  have placed_traffic : (y.placed r (q.chain.drop (blocksFor r.newLength))).traffic = y.traffic := rfl
  generalize y.placed r (q.chain.drop (blocksFor r.newLength)) = v at *
  have unset := State.notifyTextChanged_editKey r.key v
  have kept := State.notifyTextChanged_keeps r.key v
  generalize v.notifyTextChanged r.key = w at *
  have rows := State.settleRows_follows w
  have kept' := kept.trans rows.keepsStore
  have unset' : w.settleRows.fit.editKey ≠ some r.key := by rw [rows.fit]; exact unset
  generalize w.settleRows = x at *
  have desk := kept'.desk
  rw [onlyNotices, placed_desk] at desk
  exact {
    stories := kept'.stories.trans placed_stories
    storeRest := kept'.storeRest.trans (placed_rest _)
    editKey := unset'
    op := rfl
    response := by
      have command : x.desk.command = y.desk.command := by rw [desk]
      rw [← command]
      rfl
    ready := by
      have ready : x.desk.ready = y.desk.ready := by rw [desk]
      exact ready
    line := kept'.line.trans placed_line
    pass := kept'.pass.trans placed_pass
    clock := kept'.clock.trans placed_clock
    slots := kept'.slots.trans (congrArg Traffic.slots placed_traffic) }

/-- What the windows show once the end of the rewrite has been told. -/
theorem State.placed_notified {r : Rewrite} (stands : y.story r.key = some q) :
    ∃ (u : State) (p : Story), y.completePlace r = (u.settleRows).done (.placed r.newLength) ∧ u.story r.key = some p ∧
      p.length = r.newLength ∧
      ∀ n v, n < 8 → y.screen.windows[n]? = some v → u.screen.windows[n]? = some (if v.key = some r.key then
        { v.dirtyRows textRow with lineMap := none, waiting := false, cursor := v.cursor.map (min r.newLength) }
        else v) := by
  obtain ⟨p, here, length⟩ := State.placed_story stands (q.chain.drop (blocksFor r.newLength))
  have told := (State.notifyTextChanged_keeps r.key (y.placed r (q.chain.drop (blocksFor r.newLength)))).story here
  obtain ⟨p', there, same⟩ := told
  have length' : p'.length = r.newLength := by
    have := congrArg Story.length same
    exact this.trans length
  refine ⟨_, p', State.completePlace_eq stands, there, length', fun n v lane at_n => ?_⟩
  rw [State.notifyTextChanged_window r.key r.newLength _ n lane (by rw [here, Option.map_some, length]; rfl)]
  have windows : (y.placed r (q.chain.drop (blocksFor r.newLength))).screen.windows[n]? = some v := at_n
  rw [windows, Option.map_some]

theorem State.done_screen (d : ResponseData) (x : State) : (x.done d).screen = x.screen := rfl

theorem State.completePlace_told {s : State} {r : Rewrite} (stands : y.story r.key = some q)
    (screen : y.screen = s.screen) : toldTextChanged r.key r.newLength s (y.completePlace r) := by
  obtain ⟨u, p, eq, there, length, windows⟩ := State.placed_notified stands
  rw [eq]
  have told := State.settleRows_toldTextChanged (k := r.key) (len := r.newLength) (s := y) (u := u)
    (fun n w lane at_n => windows n w lane at_n) there (by rw [length]; exact id)
  exact toldTextChanged_of_screen told screen (State.done_screen ..)

theorem State.completePlace_toldAgain {s : State} {r : Rewrite} (stands : y.story r.key = some q)
    (before : toldInEdit r.key s y) : toldTextChanged r.key r.newLength s (y.completePlace r) := by
  obtain ⟨u, p, eq, there, length, windows⟩ := State.placed_notified stands
  rw [eq]
  have told := State.settleRows_toldAgain before windows there (by rw [length]; exact id)
  exact toldTextChanged_of_screen told rfl (State.done_screen ..)

end Completing

/-! ## The checks of PLACE in their order (R15) -/

section Checks

variable {k : Key} {start stop : Nat} {text : List Byte} {s : State} {r : Story}

theorem legalCode_iff (c : Byte) :
    legalCode c = true ↔ c = 0x0A#8 ∨ (0x20 ≤ c.toNat ∧ c.toNat ≤ 0x7F) := by
  simp [legalCode, within_iff]

theorem State.placeRefusal_of_story (stands : s.story k = some r) :
    s.placeRefusal k start stop text =
      if r.custody ≠ .held then some .wrongState
      else if r.lock ≠ none then some .locked
      else if ¬(start ≤ stop ∧ stop ≤ r.length) then some .badField
      else if ¬∀ c ∈ text, c = 0x0A#8 ∨ (0x20 ≤ c.toNat ∧ c.toNat ≤ 0x7F) then some .badText
      else if 16384 < r.length - (stop - start) + text.length then some .tooLong
      else if s.store.pool.length <
          (r.length - (stop - start) + text.length + 31) / 32 - (r.length + 31) / 32 then some .noRoom
      else none := by
  have legal : (text.all legalCode = true) ↔ ∀ c ∈ text, c = 0x0A#8 ∨ (0x20 ≤ c.toNat ∧ c.toNat ≤ 0x7F) := by
    simp only [List.all_eq_true, legalCode_iff]
  simp only [State.placeRefusal, stands, Story.isHeld, ← legal, Option.isSome_iff_ne_none, Bool.not_eq_true',
    decide_eq_false_iff_not, Bool.and_eq_false_iff, not_and_or, Bool.not_eq_true]
  rfl

/-- PLACE reaches its owner in a state that takes it. -/
theorem exec_place (hears : s.hearsHost) (short : text.length ≤ 32) :
    exec (.place k start stop text) s =
      .next ((s.takeTransfer (nameByte .place)).unless (s.placeRefusal k start stop text)
        (State.place k start stop text)) :=
  congrArg Host.Outcome.next
    ((if_neg (Nat.not_lt.mpr short)).trans (State.command_of_hearsHost hears (by decide)))

theorem exec_place_refused {result : Result} (hears : s.hearsHost) (short : text.length ≤ 32)
    (refused : s.placeRefusal k start stop text = some result) :
    exec (.place k start stop text) s = .next (s.replied .place result none .nothing) := by
  rw [exec_place hears short, refused, State.unless, State.takeTransfer_refuse]

theorem exec_place_long (hears : s.hearsHost) (long : 32 < text.length) :
    exec (.place k start stop text) s = .next (s.replied .place .badField none .nothing) := by
  refine congrArg Host.Outcome.next ((if_pos long).trans ?_)
  rw [State.unreadable, if_pos hears.1, State.takeTransfer_refuse]

end Checks

/-! ## The taking of PLACE (R16) -/

section Taking

variable {k : Key} {start stop : Nat} {text : List Byte} {s : State} {r : Story}

/-- The rewrite a PLACE begins. -/
def rewriteOf (k : Key) (start stop : Nat) (text : List Byte) (r : Story) : Rewrite :=
  { key := k, start := start, stop := stop, text := text, oldLength := r.length,
    newLength := r.length - (stop - start) + text.length, held := [], next := start / 32 }

/-- The state in which the rewrite begins: the growth blocks taken, in edit set, and its readers told. -/
def State.placing (k : Key) (grown : Nat) (s : State) : State :=
  ((s.onStore (Store.beginPlace k grown)).notifyInEdit k).settleRows

theorem State.place_eq (stands : s.story k = some r) :
    s.place k start stop text =
      (s.placing k ((r.length - (stop - start) + text.length + 31) / 32 - (r.length + 31) / 32)).continuePlace
        (rewriteOf k start stop text r) := by
  simp only [State.place, stands]
  rfl

theorem State.placing_keeps (k : Key) (grown : Nat) (s : State) :
    KeepsStore (s.onStore (Store.beginPlace k grown)) (s.placing k grown) :=
  (State.notifyInEdit_keeps k _).trans (State.settleRows_follows _).keepsStore

theorem State.placing_stories (k : Key) (grown : Nat) (s : State) :
    (s.placing k grown).store.stories.map Story.unlocked =
      s.store.stories.map fun q => if q.key = k then
        { q.unlocked with inEdit := true, chain := q.chain ++ s.store.pool.take grown } else q.unlocked := by
  refine (State.placing_keeps k grown s).stories.trans ?_
  show (s.store.stories.map fun q => if q.key = k then _ else q).map Story.unlocked = _
  rw [List.map_map]
  refine List.map_congr_left fun q _ => ?_
  simp only [Function.comp_apply]
  split <;> rfl

theorem State.placing_story (stands : s.story k = some r) (grown : Nat) :
    ∃ q, (s.placing k grown).story k = some q ∧ q.chain = r.chain ++ s.store.pool.take grown := by
  have begun : (s.onStore (Store.beginPlace k grown)).story k =
      some { r with inEdit := true, chain := r.chain ++ s.store.pool.take grown } := by
    have changed := Store.story_change (k := k) (f := fun r : Story =>
      { r with inEdit := true, chain := r.chain ++ s.store.pool.take grown }) (fun _ => rfl)
      { s.store with pool := s.store.pool.drop grown }
    have here : ({ s.store with pool := s.store.pool.drop grown } : Store).story k = some r := stands
    rw [here] at changed
    exact changed
  obtain ⟨q, there, same⟩ := (State.placing_keeps k grown s).story begun
  exact ⟨q, there, unlocked_chain same⟩

theorem State.placing_told (k : Key) (grown : Nat) (s : State) : toldInEdit k s (s.placing k grown) := by
  unfold State.placing
  exact toldInEdit_of_screen (State.notifyInEdit_told k (s.onStore (Store.beginPlace k grown))) rfl rfl

theorem State.placing_editKey (k : Key) (grown : Nat) (s : State) : (s.placing k grown).fit.editKey = some k := by
  rw [State.placing, (State.settleRows_follows _).fit]
  exact State.notifyInEdit_editKey k _

/-- A request is granted, or waits in its requester's place. -/
theorem Port.request_asked (a : Access) (p : Port) :
    (p.request a).busy = some a ∨ (p.request a).waiting a.purpose.requester = some a := by
  unfold Port.request
  split
  · exact .inl rfl
  · right
    rw [Port.waiting_setWaiting, if_pos rfl]

/-- The first old block a rewrite reads is that of from. -/
theorem rewriteOf_nextRead :
    (rewriteOf k start stop text r).nextRead =
      if start / 32 < (r.length + 31) / 32 then some (start / 32) else none := by
  unfold Rewrite.nextRead
  have blocks : blocksFor (rewriteOf k start stop text r).oldLength = (r.length + 31) / 32 := rfl
  have first : (rewriteOf k start stop text r).start / 32 = start / 32 := rfl
  simp only [blocks, first]
  split
  · next some_ =>
    obtain ⟨n, count⟩ : ∃ n, (r.length + 31) / 32 - start / 32 = n + 1 := ⟨_, (Nat.succ_pred (by omega)).symm⟩
    rw [count, List.range_succ_eq_map]
    simp [rewriteOf, Rewrite.hasRead]
  · next none =>
    have count : (r.length + 31) / 32 - start / 32 = 0 := by omega
    rw [count]
    rfl

end Taking

/-- Settles O23. -/
theorem placeBegins : Obligations.PlaceBegins := by
  intro k start stop text s hears no
  refine ⟨exec_place_long hears, fun short missing =>
    exec_place_refused hears short (by simp [State.placeRefusal, missing]), fun r short stands => ?_⟩
  intro held range legal new grown first chain
  have check := State.placeRefusal_of_story (start := start) (stop := stop) (text := text) stands
  refine ⟨fun notHeld => ?_, fun isHeld locked => ?_, fun isHeld free out => ?_, fun isHeld free inside bad => ?_,
    fun isHeld free inside sound long => ?_, fun isHeld free inside sound fits full => ?_,
    fun isHeld free inside sound fits room work silent => ?_⟩
  · exact exec_place_refused hears short (check.trans (if_pos notHeld))
  · exact exec_place_refused hears short (check.trans ((if_neg (not_not.mpr isHeld)).trans (if_pos locked)))
  · exact exec_place_refused hears short (check.trans ((if_neg (not_not.mpr isHeld)).trans
      ((if_neg (not_not.mpr free)).trans (if_pos out))))
  · exact exec_place_refused hears short (check.trans ((if_neg (not_not.mpr isHeld)).trans
      ((if_neg (not_not.mpr free)).trans ((if_neg (not_not.mpr inside)).trans (if_pos bad)))))
  · exact exec_place_refused hears short (check.trans ((if_neg (not_not.mpr isHeld)).trans
      ((if_neg (not_not.mpr free)).trans ((if_neg (not_not.mpr inside)).trans ((if_neg (not_not.mpr sound)).trans
        (if_pos long))))))
  · exact exec_place_refused hears short (check.trans ((if_neg (not_not.mpr isHeld)).trans
      ((if_neg (not_not.mpr free)).trans ((if_neg (not_not.mpr inside)).trans ((if_neg (not_not.mpr sound)).trans
        ((if_neg (Nat.not_lt.mpr fits)).trans (if_pos full)))))))
  · have passed : s.placeRefusal k start stop text = none :=
      check.trans ((if_neg (not_not.mpr isHeld)).trans
      ((if_neg (not_not.mpr free)).trans ((if_neg (not_not.mpr inside)).trans ((if_neg (not_not.mpr sound)).trans
        ((if_neg (Nat.not_lt.mpr fits)).trans (if_neg (Nat.not_lt.mpr room)))))))
    let taken := s.takeTransfer (nameByte .place)
    have row : exec (.place k start stop text) s =
        .next ((taken.placing k grown).continuePlace (rewriteOf k start stop text r)) := by
      rw [exec_place hears short, passed]
      exact congrArg Host.Outcome.next (State.place_eq (s := taken) stands)
    refine ⟨_, row, ?_⟩
    have kept := State.placing_keeps k grown taken
    have stories := State.placing_stories k grown taken
    have rest := kept.storeRest
    have told := State.placing_told k grown taken
    have editKey := State.placing_editKey k grown taken
    obtain ⟨q, there, chain_eq⟩ := State.placing_story (s := taken) stands grown
    have chain' : (((taken.placing k grown).story k).map (·.chain)).getD [] = chain := by
      rw [there]
      exact chain_eq
    have desk := kept.desk
    have ready : (taken.placing k grown).desk.ready = false := by rw [desk]; rfl
    have command : (taken.placing k grown).desk.command = some (nameByte .place) := by rw [desk]; rfl
    have response : (taken.placing k grown).desk.response = none := by rw [desk]; exact silent
    have line := kept.line
    have pass := kept.pass
    have clock := kept.clock
    have slots := kept.slots
    generalize taken.placing k grown = v at *
    have read := rewriteOf_nextRead (k := k) (start := start) (stop := stop) (text := text) (r := r)
    by_cases reads : first < (r.length + 31) / 32
    · rw [if_pos reads] at read
      have asks : v.continuePlace (rewriteOf k start stop text r) =
          (v.onDesk fun d => { d with op := .rewriting (rewriteOf k start stop text r) }).requestChain
            (.rewriteRead first) chain r.length first := by
        rw [State.continuePlace, read, ← chain']
        rfl
      rw [asks]
      refine ⟨stories, rest, editKey, told, rfl, ready, command, response, ?_, line, pass, clock, slots⟩
      rw [if_pos reads]
      exact Port.request_asked _ _
    · rw [if_neg reads] at read
      have writes : first < (new + 31) / 32 := work.resolve_left reads
      have asks : v.continuePlace (rewriteOf k start stop text r) =
          (v.onDesk fun d => { d with op := .rewriting (rewriteOf k start stop text r) }).requestChain
            (.rewriteWrite first) chain new first := by
        rw [State.continuePlace, read, ← chain']
        exact if_pos writes
      rw [asks]
      refine ⟨stories, rest, editKey, told, rfl, ready, command, response, ?_, line, pass, clock, slots⟩
      rw [if_neg reads]
      exact Port.request_asked _ _

/-- A rewrite with nothing left to read or to write is complete. -/
theorem State.continuePlace_completes {s : State} {r : Rewrite} (read : r.nextRead = none)
    (written : r.newLength ≤ 32 * r.next) :
    s.continuePlace r = (s.onDesk fun d => { d with op := .rewriting r }).completePlace r := by
  rw [State.continuePlace, read]
  exact if_neg (Nat.not_lt.mpr (blocksFor_le_iff.mpr written))

/-- A read leaves each record its chain. -/
theorem State.readBlock_chain {s : State} {k : Key} {q : Story} (a : Access) (upsets : List Upset)
    (stands : s.story k = some q) : ∃ p, (s.readBlock a upsets).1.story k = some p ∧ p.chain = q.chain := by
  have found (st : Store) (here : st.story k = some q) :
      ∃ p, (Store.mark a.block st).story k = some p ∧ p.chain = q.chain := by
    unfold Store.story at here ⊢
    simp only [Store.mark]
    refine ⟨if q.chain.contains a.block then { q with damaged := true } else q, ?_, by split <;> rfl⟩
    have same : (fun r : Story => decide (r.key = k)) ∘
        (fun r : Story => if r.chain.contains a.block then { r with damaged := true } else r) =
          fun r => decide (r.key = k) := by
      funext r
      simp only [Function.comp_apply]
      split <;> rfl
    rw [List.find?_map, same, here]
    rfl
  unfold State.readBlock
  dsimp only
  repeat' split
  · exact ⟨q, stands, rfl⟩
  · exact ⟨q, stands, rfl⟩
  · obtain ⟨store, _⟩ := State.raise_rest .storeDamage
      ((s.onStore fun st => { st with text := applyUpsets a.block upsets st.text }).onStore (Store.mark a.block))
    obtain ⟨p, here, chain⟩ := found { s.store with text := applyUpsets a.block upsets s.store.text } stands
    exact ⟨p, by rw [State.story, store]; exact here, chain⟩

/-- Settles O26. -/
theorem placeCompletes : Obligations.PlaceCompletes := by
  unfold Obligations.PlaceCompletes
  intro ends
  have ended {k : Key} {new : Nat} {q p : Story} {c : Option Byte} {s y t : State}
      (chain : p.chain = q.chain) (h : PlaceEnded k new p y t) (told : toldTextChanged k new s t)
      (command : y.desk.command = c) (line : y.line = s.line) (pass : y.pass = s.pass)
      (clock : y.clock = s.clock) (slots : y.traffic.slots = s.traffic.slots) : ends k new q y.store c s t := by
    refine ⟨h.stories, ?_, h.editKey, told, h.op, ?_, h.line.trans line, h.pass.trans pass, h.clock.trans clock,
      h.slots.trans slots⟩
    · rw [← chain]; exact h.storeRest
    · rw [← command]; exact h.response
  have finishes {s v : State} {p q : Story} (r : Rewrite) (on : ServedOn s v) (chain : p.chain = q.chain)
      (here : v.story r.key = some p) :
      ends r.key r.newLength q v.store s.desk.command s
        ((v.onDesk fun d => { d with op := .rewriting r }).completePlace r) := by
    have here' : (v.onDesk fun d => { d with op := .rewriting r }).story r.key = some p := here
    exact ended chain (State.completePlace_ended here') (State.completePlace_told here' on.screen) on.command on.line
      on.pass on.clock (congrArg Traffic.slots on.traffic)
  refine ⟨fun s a upsets r q busy op stands => ⟨fun j purpose read written => ?_, fun i purpose => ?_⟩,
    fun k start r s hears stands held free start_eq whole short => ?_⟩
  · intro codes
    have served := State.endAccess_serves (s := s) (by rw [op]; nofun)
    have row := exec_rewriteWrite (upsets := upsets) busy op purpose
    rw [served, State.continuePlace_completes read written] at row
    refine ⟨_, row, ?_⟩
    have on : ServedOn s ((s.onPort Port.complete).writeBlock a codes ((r.newBlock j).count 0x1A#8)) := by
      rw [← served]
      exact State.writeBlock_servedOn (by rw [op]; nofun) ..
    exact finishes { r with next := j + 1 } on rfl stands
  · intro x read written
    have on : ServedOn s x.1 := State.endRead_servedOn (by rw [op]; nofun)
    have row := exec_rewriteRead (upsets := upsets) busy op purpose
    rw [State.continuePlace_completes read written] at row
    refine ⟨_, row, ?_⟩
    have served := State.endAccess_serves (s := s) (by rw [op]; nofun)
    obtain ⟨p, here, chain⟩ := State.readBlock_chain (s := s.endAccess) a upsets
      (show s.endAccess.story r.key = some q by rw [served]; exact stands)
    exact finishes { r with held := r.held ++ [(i, x.2.codes)] } on chain here
  · subst start_eq
    have new : r.length - (r.length - r.length) + ([] : List Byte).length = r.length := by simp
    have check := State.placeRefusal_of_story (start := r.length) (stop := r.length) (text := []) stands
    rw [new] at check
    have passed : s.placeRefusal k r.length r.length [] = none := by
      rw [check, if_neg (not_not.mpr held), if_neg (not_not.mpr free), if_neg (by simp), if_neg (by simp),
        if_neg (by omega), if_neg (by omega)]
    let taken := s.takeTransfer (nameByte .place)
    have grown : (r.length + 31) / 32 - (r.length + 31) / 32 = 0 := Nat.sub_self _
    have rewrite_eq : (rewriteOf k r.length r.length [] r).newLength = r.length := new
    have read := rewriteOf_nextRead (k := k) (start := r.length) (stop := r.length) (text := []) (r := r)
    rw [if_neg (by omega)] at read
    have row : exec (.place k r.length r.length []) s =
        .next (((taken.placing k 0).onDesk fun d =>
          { d with op := .rewriting (rewriteOf k r.length r.length [] r) }).completePlace
            (rewriteOf k r.length r.length [] r)) := by
      rw [exec_place hears (Nat.zero_le _), passed]
      refine congrArg Host.Outcome.next ((State.place_eq (s := taken) stands).trans ?_)
      rw [new, grown]
      refine State.continuePlace_completes read ?_
      rw [rewrite_eq]
      show r.length ≤ 32 * (r.length / 32)
      omega
    have kept := State.placing_keeps k 0 taken
    have stories := State.placing_stories k 0 taken
    have rest := kept.storeRest
    have told := State.placing_told k 0 taken
    obtain ⟨q, there, chain⟩ := State.placing_story (s := taken) stands 0
    have chain' : q.chain = r.chain := chain.trans (List.append_nil _)
    have desk := kept.desk
    have ready : (taken.placing k 0).desk.ready = false := by rw [desk]; rfl
    have command : (taken.placing k 0).desk.command = some (nameByte .place) := by rw [desk]; rfl
    have line := kept.line
    have pass := kept.pass
    have clock := kept.clock
    have slots := kept.slots
    generalize taken.placing k 0 = v at row stories rest told there ready command line pass clock slots
    have over_ := State.completePlace_ended (r := rewriteOf k r.length r.length [] r)
      (y := v.onDesk fun d => { d with op := .rewriting (rewriteOf k r.length r.length [] r) }) there
    have windows := State.completePlace_toldAgain (s := s) (r := rewriteOf k r.length r.length [] r)
      (y := v.onDesk fun d => { d with op := .rewriting (rewriteOf k r.length r.length [] r) }) there told
    rw [rewrite_eq] at over_ windows
    refine ⟨_, row, over_.ready.trans ready, ?_⟩
    obtain ⟨_, _, others⟩ := ended chain' over_ windows command line pass clock slots
    refine ⟨?_, ?_, others⟩
    · have through (l : List Story) : (l.map fun p => if p.key = k then
          { p.unlocked with
              chain := p.chain.take ((r.length + 31) / 32), length := r.length,
              damaged := (p.chain.take ((r.length + 31) / 32)).any fun b => decide (b ∈ s.store.marks),
              fit := none, receivedFrom := none, inEdit := false }
          else p.unlocked) = (l.map Story.unlocked).map (fun p => if p.key = k then
          { p with
              chain := p.chain.take ((r.length + 31) / 32), length := r.length,
              damaged := (p.chain.take ((r.length + 31) / 32)).any fun b => decide (b ∈ s.store.marks),
              fit := none, receivedFrom := none, inEdit := false }
          else p) := by
        rw [List.map_map]
        exact List.map_congr_left fun p _ => rfl
      have marks : v.store.marks = s.store.marks := by
        have := congrArg Store.marks rest
        exact this
      have done := through v.store.stories
      rw [stories, List.map_map, ← marks] at done
      refine over_.stories.trans (done.trans (List.map_congr_left fun p _ => ?_))
      simp only [Function.comp_apply]
      by_cases here : p.key = k
      · have here' : p.unlocked.key = k := here
        simp only [here, here', if_true, List.take_zero, List.append_nil, marks]
      · have here' : ¬p.unlocked.key = k := here
        rw [if_neg here, if_neg here, if_neg here']
    · have done := over_.storeRest
      rw [chain'] at done
      generalize (State.completePlace _ _).store = u at done ⊢
      exact done.trans (congrArg (fun st : Store =>
        { st with
            stories := u.stories, pool := (r.chain.drop ((r.length + 31) / 32)).reverse ++ st.pool,
            marks := st.marks.filter (· ∉ r.chain.drop ((r.length + 31) / 32)) }) rest)

end Sys2Proof.Machine


namespace Sys2Proof.Machine

open Sys2Proof

/-! ## A command that meets its checks (R180, R184) -/

section Checked

variable {c : CommandName} {s : State} {refusal : State → Option Result} {go : State → State}

/-- A taken command whose checks find a refusal leaves the reply and nothing else. -/
theorem State.command_unless_refused {r : Result} (hears : s.hearsHost) (notSettle : c ≠ .settle)
    (found : refusal (s.takeTransfer (nameByte c)) = some r) :
    (Host.Outcome.next (s.command c fun s => s.unless (refusal s) go) : Host.Outcome State Fault Refusal) =
      .next (s.replied c r none .nothing) := by
  rw [State.command_of_hearsHost hears notSettle, found, State.unless, State.takeTransfer_refuse]

/-- A taken command that passes its checks is carried out. -/
theorem State.command_unless_goes (hears : s.hearsHost) (notSettle : c ≠ .settle)
    (passed : refusal (s.takeTransfer (nameByte c)) = none) :
    (Host.Outcome.next (s.command c fun s => s.unless (refusal s) go) : Host.Outcome State Fault Refusal) =
      .next (go (s.takeTransfer (nameByte c))) := by
  rw [State.command_of_hearsHost hears notSettle, passed, State.unless]

end Checked

/-! ## A story freed (R18, R20, R22, R176) -/

theorem Store.free_id {k : Key} {st : Store} {r : Story} (stands : st.story k = some r) :
    Store.free k id st =
      { st with
          stories := st.stories.filter fun q => q.key ≠ k, pool := r.chain.reverse ++ st.pool,
          marks := st.marks.filter (· ∉ r.chain) } := by
  simp [Store.free, stands, Store.giveBack]

theorem State.fitStoryFreed_keeps (k : Key) (s : State) : KeepsStore s (s.fitStoryFreed k) := by
  unfold State.fitStoryFreed
  extract_lets noted
  have first : KeepsStore s noted := KeepsStore.onFit _ s
  refine first.trans (KeepsStore.trans ?_ (.ofSettle (State.settleFits_follows _)))
  split
  · exact .ofSettle (State.stopRun_follows ..)
  · exact .refl _

theorem State.fitStoryFreed_screen (k : Key) (s : State) : (s.fitStoryFreed k).screen = s.screen := by
  unfold State.fitStoryFreed
  dsimp only
  rw [State.settleFits_screen]
  split
  · rw [State.stopRun_screen]; rfl
  · rfl

theorem State.notifyStoryFreed_keeps (k : Key) (s : State) : KeepsStore s (s.notifyStoryFreed k) :=
  (KeepsStore.ofWin (State.windowsStoryFreed_only k s)).trans (State.fitStoryFreed_keeps k _)

/-- A window on a freed story: the rows it sends anew, and nothing shown. -/
def Window.freed (w : Window) : Window :=
  (w.dirtyRows (if w.mode = .edit then anyRow else textRow)).blanked

theorem State.windowsStoryFreed_get (k : Key) (s : State) (n : Nat) (lane : n < 8) :
    (s.windowsStoryFreed k).screen.windows[n]? =
      (s.screen.windows[n]?).map fun w => if w.key = some k then w.freed else w := by
  unfold State.windowsStoryFreed
  refine State.eachWindowOn_get k _ Window.freed (fun m n s => ?_) s n lane
  dsimp only
  rw [State.onWindow_get, State.dirty_get]
  by_cases here : m = n
  · subst here
    cases s.screen.windows[m]? with
    | none => simp
    | some w => simp [Window.freed]
  · simp [here]

theorem Window.freed_shown (w : Window) : w.freed.shown = (none, .read, none, false) := rfl

/-- What the freeing of story `r` leaves, the rows following it. -/
theorem State.freeStory_rows {k : Key} {r : Story} {s : State} (stands : s.story k = some r) :
    KeepsStore { s with store :=
      { s.store with
          stories := s.store.stories.filter fun q => q.key ≠ k, pool := r.chain.reverse ++ s.store.pool,
          marks := s.store.marks.filter (· ∉ r.chain) } } (s.freeStory k).settleRows ∧
    ∀ (n : Nat) (w : Window), s.screen.windows[n]? = some w → n < 8 →
      ∃ v : Window, (s.freeStory k).settleRows.screen.windows[n]? = some v ∧
        v.shown = if w.key = some k then (none, .read, none, false) else w.shown := by
  have freed : s.onStore (Store.free k id) = { s with store :=
      { s.store with
          stories := s.store.stories.filter fun q => q.key ≠ k, pool := r.chain.reverse ++ s.store.pool,
          marks := s.store.marks.filter (· ∉ r.chain) } } := by
    rw [State.onStore, Store.free_id stands]
  have rows := State.settleRows_follows (s.freeStory k)
  refine ⟨?_, fun n w here lane => ?_⟩
  · rw [← freed]
    exact (State.notifyStoryFreed_keeps k _).trans rows.keepsStore
  · have now : (s.freeStory k).screen.windows[n]? = some (if w.key = some k then w.freed else w) := by
      unfold State.freeStory State.notifyStoryFreed
      rw [State.fitStoryFreed_screen, State.windowsStoryFreed_get _ _ _ lane]
      show (s.screen.windows[n]?).map _ = _
      rw [here, Option.map_some]
    obtain ⟨v, there, shown⟩ := shown_get rows.windows now
    refine ⟨v, there, ?_⟩
    rw [shown]
    split
    · exact Window.freed_shown w
    · rfl

/-! ## The checks of DROP STORY and RESOLVE (R18, R20) -/

section StoryLeaves

variable {k : Key} {s : State} {r : Story}

theorem Story.isDoubt_iff (r : Story) : r.isDoubt = true ↔ ∃ c, r.custody = .doubt c := by
  cases h : r.custody <;> simp [Story.isDoubt, h]

theorem State.dropRefusal_of_story (stands : s.story k = some r) :
    s.dropRefusal k = if r.custody = .outbound then some .wrongState
      else if r.lock ≠ none then some .locked else none := by
  simp [State.dropRefusal, stands, Option.isSome_iff_ne_none]

theorem State.resolveRefusal_of_story (stands : s.story k = some r) :
    s.resolveRefusal k = if r.isDoubt then none else some .wrongState := by
  simp [State.resolveRefusal, stands]

/-- What `Obligations.StoryLeaves` says of a story freed by command `c`. -/
theorem State.freeStory_answered (c : CommandName) (stands : s.story k = some r) :
    let t := (((s.takeTransfer (nameByte c)).freeStory k).settleRows).done .nothing
    t.store.stories.map Story.unlocked =
        (s.store.stories.filter fun q => q.key ≠ k).map Story.unlocked ∧
      t.store =
        { s.store with
            stories := t.store.stories, pool := r.chain.reverse ++ s.store.pool,
            marks := s.store.marks.filter (· ∉ r.chain) } ∧
      t.line = s.line ∧ t.pass = s.pass ∧ t.clock = s.clock ∧ t.traffic.slots = s.traffic.slots ∧
      (∀ (n : Nat) (w : Window), s.screen.windows[n]? = some w → n < 8 →
        ∃ v : Window, t.screen.windows[n]? = some v ∧
          v.shown = if w.key = some k then (none, .read, none, false) else w.shown) ∧
      answeredDone c .nothing t := by
  have stands' : (s.takeTransfer (nameByte c)).story k = some r := stands
  obtain ⟨keeps, windows⟩ := State.freeStory_rows stands'
  generalize ((s.takeTransfer (nameByte c)).freeStory k).settleRows = u at *
  have desk := keeps.desk
  rw [onlyNotices] at desk
  have ready : u.desk.ready = false := by rw [desk]; rfl
  have command : u.desk.command = some (nameByte c) := by rw [desk]; rfl
  exact ⟨keeps.stories, keeps.storeRest, keeps.line, keeps.pass, keeps.clock, keeps.slots, windows,
    ready, command, by simp [State.done, State.respond, command]⟩

end StoryLeaves

/-- Settles O29: both commands meet their checks in turn, and a freed story is what `State.freeStory` leaves. -/
theorem storyLeaves : Obligations.StoryLeaves := by
  intro k s hears freed custody
  refine ⟨fun absent => ⟨?_, fun keep => ?_⟩, fun r stands => ⟨?_, ?_, ?_, ?_, ?_⟩⟩
  · exact State.command_unless_refused hears (by decide)
      (by rw [State.dropRefusal, State.takeTransfer_story, absent])
  · exact State.command_unless_refused hears (by decide)
      (by rw [State.resolveRefusal, State.takeTransfer_story, absent])
  · intro outbound
    refine State.command_unless_refused hears (by decide) ?_
    rw [State.dropRefusal_of_story ((State.takeTransfer_story ..).trans stands), if_pos outbound]
  · intro notOutbound locked
    refine State.command_unless_refused hears (by decide) ?_
    rw [State.dropRefusal_of_story ((State.takeTransfer_story ..).trans stands), if_neg notOutbound, if_pos locked]
  · intro notOutbound unlocked
    refine ⟨_, State.command_unless_goes hears (by decide) ?_, State.freeStory_answered .dropStory stands⟩
    rw [State.dropRefusal_of_story ((State.takeTransfer_story ..).trans stands), if_neg notOutbound,
      if_neg (not_not.mpr unlocked)]
  · intro settled keep
    refine State.command_unless_refused hears (by decide) ?_
    rw [State.resolveRefusal_of_story ((State.takeTransfer_story ..).trans stands), if_neg]
    exact fun doubt => absurd ((Story.isDoubt_iff r).mp doubt) (by simpa using settled)
  · intro carbon doubt
    have passed : State.resolveRefusal k (s.takeTransfer (nameByte .resolve)) = none := by
      rw [State.resolveRefusal_of_story ((State.takeTransfer_story ..).trans stands),
        if_pos ((Story.isDoubt_iff r).mpr ⟨carbon, doubt⟩)]
    have goes (keep : Bool) : exec (.resolve k keep) s =
        .next (((s.takeTransfer (nameByte .resolve)).resolve k keep).done .nothing) :=
      State.command_unless_goes hears (by decide) passed
    have dropped : ((s.takeTransfer (nameByte .resolve)).story k).any (fun r => decide (r.custody = .doubt true)) =
        carbon := by
      rw [State.takeTransfer_story, stands, Option.any_some, doubt]
      cases carbon <;> rfl
    refine ⟨goes true, fun kept => ?_, fun freed => ⟨_, goes false, ?_⟩⟩
    · rw [goes false, State.resolve, if_neg (by decide), if_pos (dropped.trans kept)]
      rfl
    · rw [State.resolve, if_neg (by decide), if_neg (by rw [dropped, freed]; decide)]
      exact State.freeStory_answered .resolve stands

end Sys2Proof.Machine


namespace Sys2Proof.Machine

open Sys2Proof

/-! ## What changes windows and the row builder alone (R166, R170) -/

section OthersWait

theorem othersWait_refl (x : Option Access) : othersWait x x := ⟨fun _ h => h, fun _ h _ _ => h⟩

theorem othersWait_of_eq {x y : Option Access} (h : y = x) : othersWait x y := h ▸ othersWait_refl x

theorem othersWait.trans {x y z : Option Access} (h : othersWait x y) (k : othersWait y z) : othersWait x z :=
  ⟨fun a here => h.1 a (k.1 a here),
    fun a here notWalk notRender => k.2 a (h.2 a here notWalk notRender) notWalk notRender⟩

/-- Withdrawing the row builder's reads leaves every other request. -/
theorem othersWait_filter (x : Option Access) : othersWait x (x.filter fun a => !a.purpose.isRow) := by
  refine ⟨fun a here => (Option.filter_eq_some_iff.mp here).1, fun a here notWalk notRender => ?_⟩
  rw [here, Option.filter_some, if_pos (by simp [Purpose.isRow, notWalk, notRender])]

end OthersWait

namespace OnlyScreen

variable {s t u : State}

/-- A change of the desk unit, of windows, of the row builder and of the flash notice. -/
theorem of_windows (h : OnlyWindows s t) (port : t.port = s.port) : OnlyScreen s t where
  store := h.store
  line := h.line
  traffic := h.traffic
  pass := h.pass
  fit := h.fit
  page := h.page
  clock := h.clock
  slipPort := othersWait_of_eq (by rw [port])
  deskPort := othersWait_of_eq (by rw [port])
  pagePort := othersWait_of_eq (by rw [port])
  fitPort := othersWait_of_eq (by rw [port])
  busy := fun a there => ⟨a.aside, by rw [port]; exact there⟩
  lanes := h.lanes
  timer := h.timer
  lastFlash := h.lastFlash
  status := h.status

theorem refl (s : State) : OnlyScreen s s := of_windows (OnlyWindows.refl s) rfl

theorem trans (h : OnlyScreen s t) (k : OnlyScreen t u) : OnlyScreen s u where
  store := k.store.trans h.store
  line := k.line.trans h.line
  traffic := k.traffic.trans h.traffic
  pass := k.pass.trans h.pass
  fit := k.fit.trans h.fit
  page := k.page.trans h.page
  clock := k.clock.trans h.clock
  slipPort := h.slipPort.trans k.slipPort
  deskPort := h.deskPort.trans k.deskPort
  pagePort := h.pagePort.trans k.pagePort
  fitPort := h.fitPort.trans k.fitPort
  busy := fun a there => by
    obtain ⟨_, once⟩ := h.busy a there
    obtain ⟨y, twice⟩ := k.busy _ once
    exact ⟨y, twice⟩
  lanes := k.lanes.trans h.lanes
  timer := k.timer.trans h.timer
  lastFlash := k.lastFlash.trans h.lastFlash
  status := k.status.trans h.status

theorem foldl {α : Type} {f : State → α → State} (h : ∀ s a, OnlyScreen s (f s a)) (l : List α) (s : State) :
    OnlyScreen s (l.foldl f s) := by
  induction l generalizing s with
  | nil => exact refl s
  | cons a l ih => exact (h s a).trans (ih _)

/-- What the desk unit changes is not told of. -/
theorem onDesk (f : Desk → Desk) (s : State) : OnlyScreen s (s.onDesk f) := { refl s with }

theorem onWindow (n : Nat) (f : Window → Window) (s : State) : OnlyScreen s (s.onWindow n f) := { refl s with }

end OnlyScreen

theorem RowsFollow.onlyScreen {s t : State} (h : RowsFollow s t) : OnlyScreen s t where
  store := h.store
  line := h.line
  traffic := h.traffic
  pass := h.pass
  fit := h.fit
  page := h.page
  clock := h.clock
  slipPort := othersWait_of_eq h.slipPort
  deskPort := othersWait_of_eq h.deskPort
  pagePort := othersWait_of_eq h.pagePort
  fitPort := othersWait_of_eq h.fitPort
  busy := fun a there => ⟨a.aside, h.busy a there⟩
  lanes := h.lanes
  timer := h.timer
  lastFlash := h.lastFlash
  status := h.status

theorem State.abandonBuild_onlyScreen (s : State) : OnlyScreen s s.abandonBuild :=
  { OnlyScreen.refl s with
    slipPort := othersWait_filter _, deskPort := othersWait_filter _, pagePort := othersWait_filter _
    fitPort := othersWait_filter _
    busy := fun a there => by
      show ∃ x, s.port.busy.map _ = _
      rw [there, Option.map_some]
      split
      · exact ⟨true, rfl⟩
      · exact ⟨a.aside, rfl⟩ }

theorem State.dirty_onlyScreen (n : Nat) (rows : Nat → Bool) (s : State) : OnlyScreen s (s.dirty n rows) := by
  unfold State.dirty
  split
  · exact (State.abandonBuild_onlyScreen s).trans (OnlyScreen.onWindow ..)
  · exact OnlyScreen.onWindow ..

theorem State.dirtyStatus_onlyScreen (s : State) : OnlyScreen s s.dirtyStatus :=
  OnlyScreen.foldl (fun s n => State.dirty_onlyScreen n _ s) _ s

/-! ## What windows show while rows are dirtied -/

theorem sameWindows_refl (s : State) : sameWindows s s := rfl

theorem sameWindows.trans {s t u : State} (h : sameWindows s t) (k : sameWindows t u) : sameWindows s u :=
  Eq.trans k h

theorem sameWindows_foldl {α : Type} {f : State → α → State} (h : ∀ s a, sameWindows s (f s a)) (l : List α)
    (s : State) : sameWindows s (l.foldl f s) := by
  induction l generalizing s with
  | nil => rfl
  | cons a l ih => exact (h s a).trans (ih _)

theorem State.dirty_sameWindows (n : Nat) (rows : Nat → Bool) (s : State) : sameWindows s (s.dirty n rows) := by
  unfold State.dirty sameWindows
  split <;> exact map_modify_eq Window.shown (Window.dirtyRows rows) (fun _ => rfl) _ _

theorem State.dirtyStatus_sameWindows (s : State) : sameWindows s s.dirtyStatus :=
  sameWindows_foldl (fun s n => State.dirty_sameWindows n _ s) _ s

theorem State.settleRows_sameWindows (s : State) : sameWindows s s.settleRows :=
  (State.settleRows_follows s).windows

/-- The same action on every enabled window. -/
theorem State.eachWindow_get {f : Nat → State → State} {g : Window → Window}
    (acts : ∀ m n s, (f m s).screen.windows[n]? =
      if m = n then (s.screen.windows[n]?).map g else s.screen.windows[n]?) (s : State) (n : Nat) :
    (s.eachWindow f).screen.windows[n]? =
      if n < s.screenCount then (s.screen.windows[n]?).map g else s.screen.windows[n]? := by
  unfold State.eachWindow
  generalize s.screenCount = count
  induction count with
  | zero => simp
  | succ count ih =>
    rw [List.range_succ, List.foldl_append, List.foldl_cons, List.foldl_nil, acts, ih]
    by_cases here : count = n
    · subst here
      simp
    · rw [if_neg here]
      have : n < count ↔ n < count + 1 := by omega
      simp [this]

theorem State.dirtyStatus_get (s : State) (n : Nat) :
    s.dirtyStatus.screen.windows[n]? =
      if n < s.screenCount then (s.screen.windows[n]?).map (Window.dirtyRows statusRowOnly)
      else s.screen.windows[n]? :=
  State.eachWindow_get (fun m n s => State.dirty_get s m n statusRowOnly) s n

/-! ## Rows staged at once (R167) -/

/-- A DIRTY row 0 is the next row. -/
theorem Window.nextRow_of_head {w : Window} (dirty : w.dirty.head? = some true) : w.nextRow = some 0 := by
  unfold Window.nextRow indexWhere
  cases rows : w.dirty with
  | nil => simp [rows] at dirty
  | cons d rest =>
    rw [rows] at dirty
    simp only [List.head?_cons, Option.some.injEq] at dirty
    subst dirty
    simp [List.findIdx_cons]

theorem State.stageAtOnce_other {m n : Nat} (s : State) (other : m ≠ n) :
    (s.stageAtOnce m).screen.windows[n]? = s.screen.windows[n]? := by
  unfold State.stageAtOnce
  repeat' split
  all_goals first
    | rfl
    | rw [State.onWindow_get, if_neg other]

theorem State.stageAtOnce_staged {n : Nat} {s : State} {w : Window} (here : s.screen.windows[n]? = some w)
    (staged : w.staging ≠ .empty) : s.stageAtOnce n = s := by
  unfold State.stageAtOnce
  rw [here]
  exact if_neg staged

theorem State.stageAtOnce_stages {n r : Nat} {s : State} {w : Window} (here : s.screen.windows[n]? = some w)
    (ready : w.staging = .empty) (next : w.nextRow = some r) (none_ : w.needsNoAccess r = true) :
    (s.stageAtOnce n).screen.windows[n]? =
      some (w.stage (if r = 0 then s.statusRow w.mode else blankRow r w.mode)) := by
  unfold State.stageAtOnce
  rw [here]
  dsimp only
  rw [if_pos ready, next]
  dsimp only
  rw [if_pos none_, State.onWindow_get, if_pos rfl, here, Option.map_some]

/-- The row builder takes only a lane that waits for it. -/
theorem State.chooseLane_other {n : Nat} {s : State} {w : Window} (here : s.screen.windows[n]? = some w)
    (notWaits : w.waitsForBuilder = false) : s.chooseLane.screen.windows[n]? = some w := by
  unfold State.chooseLane
  split
  · exact here
  split
  · exact here
  next m chosen =>
  obtain ⟨v, there, waits⟩ := State.nextLane_spec chosen
  have other : m ≠ n := by
    rintro rfl
    rw [here] at there
    cases there
    rw [notWaits] at waits
    cases waits
  rw [there]
  dsimp only
  split
  · exact here
  next r _ =>
  have kept (x : State) (f : Window → Window) (at_n : x.screen.windows[n]? = some w) :
      (x.onWindow m f).screen.windows[n]? = some w := by rw [State.onWindow_get, if_neg other, at_n]
  have rendered (x : State) (q : Story) (at_n : x.screen.windows[n]? = some w) :
      (x.renderOrBlank m r q).screen.windows[n]? = some w := by
    unfold State.renderOrBlank
    repeat' split
    · exact at_n
    · exact at_n
    · exact kept _ _ at_n
    · exact kept _ _ at_n
  have first := kept (s.onScreen fun c => { c with lastServed := m }) (fun w => { w with staging := .building r }) here
  unfold State.takeLane
  dsimp only
  repeat' split
  · exact kept _ _ first
  · exact rendered _ _ first
  · exact rendered _ _ (kept _ _ first)
  · exact first

theorem Window.waits_of_staged {w : Window} (staged : w.staging ≠ .empty) : w.waitsForBuilder = false := by
  simp [Window.waitsForBuilder, staged]

/-- A property of one window kept by each staging and each choice of the row builder. -/
theorem State.settleRows_induct {P : State → Prop} (stage : ∀ m s, P s → P (s.stageAtOnce m))
    (choose : ∀ s, P s → P s.chooseLane) {s : State} (h : P s) : P s.settleRows := by
  have each (x : State) (hx : P x) : P (x.eachWindow State.stageAtOnce) := by
    unfold State.eachWindow
    generalize List.range x.screenCount = l
    induction l generalizing x with
    | nil => exact hx
    | cons m l ih => exact ih _ (stage m x hx)
  unfold State.settleRows
  generalize List.range 9 = l
  induction l generalizing s with
  | nil => exact h
  | cons _ l ih => exact ih (choose _ (each _ h))

theorem State.eachStage_staged {n : Nat} {s : State} {w : Window} (l : List Nat)
    (here : s.screen.windows[n]? = some w) (staged : w.staging ≠ .empty) :
    (l.foldl (fun s n => s.stageAtOnce n) s).screen.windows[n]? = some w := by
  induction l generalizing s with
  | nil => exact here
  | cons m l ih =>
    refine ih ?_
    show (s.stageAtOnce m).screen.windows[n]? = some w
    by_cases same : m = n
    · subst same
      rw [State.stageAtOnce_staged here staged, here]
    · rw [State.stageAtOnce_other s same, here]

/-- A window whose staging is in use stays as it is. -/
theorem State.settleRows_staged {n : Nat} {s : State} {w : Window} (here : s.screen.windows[n]? = some w)
    (staged : w.staging ≠ .empty) : s.settleRows.screen.windows[n]? = some w := by
  refine State.settleRows_induct (P := fun s => s.screen.windows[n]? = some w) (fun m x at_n => ?_)
    (fun x at_n => State.chooseLane_other at_n (Window.waits_of_staged staged)) here
  exact State.eachStage_staged [m] at_n staged

/-- The row builder leaves a window whose next row needs no access alone. -/
theorem Window.waits_of_noAccess {w : Window} {r : Nat} (next : w.nextRow = some r)
    (none_ : w.needsNoAccess r = true) : w.waitsForBuilder = false := by
  simp [Window.waitsForBuilder, next, none_]

/-- What row 0 holds is told by the station, the clock, the status values and the flash notice. -/
theorem statusRow_congr {s t : State} (station : t.desk.station = s.desk.station) (clock : t.clock = s.clock)
    (status : t.screen.status = s.screen.status) (flash : t.screen.flash = s.screen.flash) (mode : Mode) :
    t.statusRow mode = s.statusRow mode := by
  simp only [State.statusRow, station, clock, status, flash]

theorem RowsFollow.statusRow {s t : State} (h : RowsFollow s t) (mode : Mode) : t.statusRow mode = s.statusRow mode :=
  statusRow_congr (by rw [h.desk]) h.clock h.status h.flash mode

/-- The next row of an enabled window with an empty staging goes in at once where it needs no access. -/
theorem State.settleRows_stages {n r : Nat} {s : State} {w : Window} (enabled : n < s.screenCount)
    (here : s.screen.windows[n]? = some w) (ready : w.staging = .empty) (next : w.nextRow = some r)
    (none_ : w.needsNoAccess r = true) :
    s.settleRows.screen.windows[n]? =
      some (w.stage (if r = 0 then s.statusRow w.mode else blankRow r w.mode)) := by
  have before (l : List Nat) (others : n ∉ l) (x : State) (at_n : x.screen.windows[n]? = some w) :
      (l.foldl (fun s n => s.stageAtOnce n) x).screen.windows[n]? = some w := by
    induction l generalizing x with
    | nil => exact at_n
    | cons m l ih =>
      obtain ⟨differs, rest⟩ := List.ne_and_not_mem_of_not_mem_cons others
      refine ih rest _ ?_
      show (x.stageAtOnce m).screen.windows[n]? = some w
      rw [State.stageAtOnce_other x (Ne.symm differs), at_n]
  have each : (s.eachWindow State.stageAtOnce).screen.windows[n]? =
      some (w.stage (if r = 0 then s.statusRow w.mode else blankRow r w.mode)) := by
    unfold State.eachWindow
    obtain ⟨low, high, split, notLow⟩ : ∃ low high, List.range s.screenCount = low ++ n :: high ∧ n ∉ low := by
      obtain ⟨low, high, split⟩ := List.append_of_mem (List.mem_range.mpr enabled)
      have distinct : (low ++ n :: high).Nodup := split ▸ List.nodup_range
      exact ⟨low, high, split, fun mem => (List.nodup_append.mp distinct).2.2 n mem n (by simp) rfl⟩
    rw [split, List.foldl_append, List.foldl_cons]
    have at_n := before low notLow s here
    have follows : RowsFollow s (low.foldl (fun s n => s.stageAtOnce n) s) :=
      RowsFollow.foldl (fun s n => State.stageAtOnce_follows n s) _ s
    refine State.eachStage_staged high ?_ (by simp [Window.stage])
    rw [State.stageAtOnce_stages at_n ready next none_, follows.statusRow]
  have once := State.chooseLane_other each (Window.waits_of_staged (by simp [Window.stage]))
  unfold State.settleRows
  rw [show List.range 9 = 0 :: (List.range 8).map (· + 1) from rfl, List.foldl_cons]
  generalize (List.range 8).map (· + 1) = rest
  generalize (s.eachWindow State.stageAtOnce).chooseLane = x at once
  induction rest generalizing x with
  | nil => exact once
  | cons _ rest ih =>
    refine ih _ (State.chooseLane_other ?_ (Window.waits_of_staged (by simp [Window.stage])))
    exact State.eachStage_staged _ once (by simp [Window.stage])

/-! ## Status rows (R171, R172) -/

theorem State.dirtyStatus_fresh {n : Nat} (s : State) (enabled : n < s.screenCount) : s.dirtyStatus.statusFresh n := by
  intro w here
  rw [State.dirtyStatus_get, if_pos enabled] at here
  obtain ⟨v, _, rfl⟩ := Option.map_eq_some_iff.mp here
  cases rows : v.dirty with
  | nil => exact .inl (by simp [Window.dirtyRows, rows])
  | cons d rest => exact .inr (.inl (by simp [Window.dirtyRows, rows, statusRowOnly]))

theorem statusFresh_of_window {n : Nat} {s t : State} (fresh : s.statusFresh n)
    (window : t.screen.windows[n]? = s.screen.windows[n]?) (row : ∀ mode, t.statusRow mode = s.statusRow mode) :
    t.statusFresh n := by
  intro w here
  rw [window] at here
  rw [row]
  exact fresh w here

/-- With an empty staging and a next row, a fresh status row is the next one. -/
theorem statusFresh_next {n r : Nat} {s : State} {w : Window} (fresh : s.statusFresh n)
    (here : s.screen.windows[n]? = some w) (ready : w.staging = .empty) (next : w.nextRow = some r) : r = 0 := by
  rcases fresh w here with none_ | head | staged
  · rw [Window.nextRow, none_] at next
    cases next
  · rw [Window.nextRow_of_head head] at next
    exact (Option.some.inj next).symm
  · rw [ready] at staged
    cases staged

theorem State.stageAtOnce_fresh {n : Nat} (m : Nat) {s : State} (fresh : s.statusFresh n) :
    (s.stageAtOnce m).statusFresh n := by
  have row := (State.stageAtOnce_follows m s).statusRow
  by_cases same : m = n
  · subst same
    cases here : s.screen.windows[m]? with
    | none =>
      have : s.stageAtOnce m = s := by simp [State.stageAtOnce, here]
      rw [this]
      exact fresh
    | some w =>
      by_cases ready : w.staging = .empty
      · cases next : w.nextRow with
        | none =>
          have : s.stageAtOnce m = s := by simp [State.stageAtOnce, here, next]
          rw [this]
          exact fresh
        | some r =>
          cases statusFresh_next fresh here ready next
          intro v there
          rw [State.stageAtOnce_stages here ready next (by simp [Window.needsNoAccess])] at there
          cases there
          exact .inr (.inr (by rw [row]; rfl))
      · rw [State.stageAtOnce_staged here ready]
        exact fresh
  · exact statusFresh_of_window fresh (State.stageAtOnce_other s same) row

theorem State.chooseLane_fresh {n : Nat} {s : State} (fresh : s.statusFresh n) : s.chooseLane.statusFresh n := by
  have follows := State.chooseLane_follows s
  cases here : s.screen.windows[n]? with
  | none =>
    intro v there
    have lengths := congrArg List.length follows.windows
    simp only [List.length_map] at lengths
    rw [List.getElem?_eq_none (by rw [lengths]; exact List.getElem?_eq_none_iff.mp here)] at there
    cases there
  | some w =>
    refine statusFresh_of_window fresh (Eq.trans (State.chooseLane_other here ?_) here.symm) follows.statusRow
    by_cases ready : w.staging = .empty
    · cases next : w.nextRow with
      | none => simp [Window.waitsForBuilder, next]
      | some r =>
        cases statusFresh_next fresh here ready next
        exact Window.waits_of_noAccess next (by simp [Window.needsNoAccess])
    · exact Window.waits_of_staged ready

theorem State.settleRows_fresh {n : Nat} {s : State} (fresh : s.statusFresh n) : s.settleRows.statusFresh n :=
  State.settleRows_induct (fun m _ h => State.stageAtOnce_fresh m h) (fun _ h => State.chooseLane_fresh h) fresh

/-! ## Values told to the screen unit (R172, R185) -/

/-- A status value told, the rows following: nothing but the value, the windows, the row builder and its requests. -/
theorem State.tellStatus_onlyScreen (f : Status → Status) (s : State) :
    OnlyScreen { s with screen := { s.screen with status := f s.screen.status } } (s.tellStatus f) :=
  State.dirtyStatus_onlyScreen _

theorem State.tellStatus_sameWindows (f : Status → Status) (s : State) : sameWindows s (s.tellStatus f) :=
  State.dirtyStatus_sameWindows (s.onScreen fun c => { c with status := f c.status })

theorem State.tellStatus_desk (f : Status → Status) (s : State) : (s.tellStatus f).desk = s.desk :=
  (State.dirtyStatus_only _).desk

theorem State.tellStatus_flash (f : Status → Status) (s : State) : (s.tellStatus f).screen.flash = s.screen.flash :=
  (State.dirtyStatus_only (s.onScreen fun c => { c with status := f c.status })).flash

theorem State.tellStatus_fresh {n : Nat} (f : Status → Status) (s : State) (enabled : n < s.screenCount) :
    (s.tellStatus f).statusFresh n :=
  State.dirtyStatus_fresh _ enabled

/-- Only the station, the clock and the screen unit bear on a status row. -/
theorem statusFresh_congr {n : Nat} {s t : State} (fresh : s.statusFresh n) (screen : t.screen = s.screen)
    (clock : t.clock = s.clock) (station : t.desk.station = s.desk.station) : t.statusFresh n :=
  statusFresh_of_window fresh (by rw [screen]) fun mode =>
    statusRow_congr station clock (by rw [screen]) (by rw [screen]) mode

end Sys2Proof.Machine


namespace Sys2Proof.Machine

open Sys2Proof

/-! ## The desk state told (R185) -/

theorem OnlyScreen.withDesk {s t : State} (h : OnlyScreen s t) (d e : Desk) :
    OnlyScreen { s with desk := d } { t with desk := e } := { h with }

section EnterDesk

variable (st : DeskState) (s : State)

theorem State.enterDesk_desk : (s.enterDesk st).desk = Desk.refresh { s.desk with state := st } :=
  State.tellStatus_desk _ _

theorem State.enterDesk_onlyScreen (d : Desk) :
    OnlyScreen { s with screen := { s.screen with status := { s.screen.status with desk := st } } }
      (State.enterDesk st { s with desk := d }) :=
  (State.tellStatus_onlyScreen (fun x => { x with desk := st })
    { s with desk := Desk.refresh { d with state := st } }).withDesk s.desk
      (State.enterDesk st { s with desk := d }).desk

theorem State.enterDesk_sameWindows : sameWindows s (s.enterDesk st) :=
  State.tellStatus_sameWindows _ (s.onDesk fun d => Desk.refresh { d with state := st })

theorem State.enterDesk_flash : (s.enterDesk st).screen.flash = s.screen.flash :=
  State.tellStatus_flash _ (s.onDesk fun d => Desk.refresh { d with state := st })

theorem State.enterDesk_fresh {n : Nat} (enabled : n < s.screenCount) : (s.enterDesk st).statusFresh n := by
  refine State.tellStatus_fresh _ (s.onDesk fun d => Desk.refresh { d with state := st }) ?_
  simpa [State.screenCount] using enabled

end EnterDesk

/-! ## TEND (R188, R189, R196) -/

theorem evenParity_iff (b : Byte) :
    evenParity b = true ↔ ((List.range 8).filter fun i => b.getLsbD i).length % 2 = 0 := by
  rw [evenParity, oddOnes_eq]
  simp only [BitVec.testBit_toNat, Bool.not_eq_true', decide_eq_false_iff_not]
  omega

/-- A saturating count is a minimum (section 4.3). -/
theorem bump_eq {limit n : Nat} : bump limit n = min limit (n + 1) := by
  unfold bump
  split <;> omega

theorem State.tendWindow_of_record {s : State} {r : StartRecord} (record : s.desk.record = some r) :
    s.tendWindow = r.tendWindow := by
  simp [State.tendWindow, record]

/-- Settles O54: TEND by its parity, the expiry by the desk state, the lamp phase by its pattern. -/
theorem tended : Obligations.Tended := by
  unfold Obligations.Tended
  intro told
  refine ⟨fun byte r s hears record => ?tend, fun s stopped => ?stopped, fun r w s runs record => ?expiry,
    fun s => ?phase⟩
  case tend =>
    intro even
    have taken : exec (.tend byte) s = .next ((s.takeTransfer (nameByte .tend)).tend byte) :=
      congrArg Host.Outcome.next (State.command_of_hearsHost hears (by decide))
    refine ⟨fun isEven => ⟨_, taken, ?_⟩, fun isOdd => ?_⟩
    · have good := (evenParity_iff byte).mpr isEven
      have window : (s.takeTransfer (nameByte .tend)).tendWindow = r.tendWindow :=
        State.tendWindow_of_record record
      have form : (s.takeTransfer (nameByte .tend)).tend byte =
          (let x : State := { s with desk :=
            { s.desk with
                ready := false, command := some (nameByte .tend), tendTimer := some r.tendWindow, missed := 0 } }
          let z := if s.desk.state = .unattended then (x.enterDesk .onLine).settleRows else x
          z.done (.tended z.desk.state s.desk.missed)) := by
        unfold State.tend
        rw [if_pos good, window]
        rfl
      rw [form]
      dsimp only
      by_cases unattended : s.desk.state = .unattended
      · rw [if_pos unattended, if_pos unattended]
        have only : OnlyScreen (told .onLine s) _ := State.enterDesk_onlyScreen .onLine s
          { s.desk with
              ready := false, command := some (nameByte .tend), tendTimer := some r.tendWindow, missed := 0 }
        generalize before : ({ s with desk :=
          { s.desk with
              ready := false, command := some (nameByte .tend), tendTimer := some r.tendWindow,
              missed := 0 } } : State) = x at only ⊢
        have desk : x.desk = { s.desk with
            ready := false, command := some (nameByte .tend), tendTimer := some r.tendWindow, missed := 0 } := by
          rw [← before]
        have windows : sameWindows s (x.enterDesk .onLine) := by
          rw [← before]
          exact State.enterDesk_sameWindows .onLine _
        have flash : (x.enterDesk .onLine).screen.flash = s.screen.flash := by
          rw [State.enterDesk_flash, ← before]
        have entered := State.enterDesk_desk .onLine x
        rw [desk] at entered
        have rows := State.settleRows_follows (x.enterDesk .onLine)
        generalize x.enterDesk .onLine = y at *
        have settled : y.settleRows.desk = _ := rows.desk.trans entered
        have shows := windows.trans rows.windows
        have only' := only.trans rows.onlyScreen
        have flash' := rows.flash.trans flash
        generalize y.settleRows = z at *
        refine ⟨⟨?_, ?_, ?_⟩, ?_, ?_, ?_, ?_, ?_, ?_, ?_, only'.withDesk _ _, shows, flash'⟩
        all_goals simp [State.done, State.respond, settled, record]
      · have onLine : s.desk.state = .onLine := by
          cases state : s.desk.state with
          | start => exact absurd state hears.2
          | onLine => rfl
          | unattended => exact absurd state unattended
        rw [if_neg unattended, if_neg unattended]
        refine ⟨⟨rfl, rfl, ?_⟩, rfl, rfl, onLine, rfl, record, rfl, rfl, (OnlyScreen.refl s).withDesk _ _, rfl, rfl⟩
        show some (Response.mk _ _ _ (.tended s.desk.state s.desk.missed)) = _
        rw [onLine]
        rfl
    · have bad : ¬evenParity byte = true := fun good => isOdd ((evenParity_iff byte).mp good)
      rw [taken, State.tend, if_neg bad]
      generalize before : s.takeTransfer (nameByte .tend) = x
      have desk : x.desk = { s.desk with ready := false, command := some (nameByte .tend) } := by rw [← before]; rfl
      have others (n : Notice) (other : n ≠ .tendBad) := State.raise_latched_of_ne other x
      have latched := State.raise_latched .tendBad x
      refine ⟨((x.raise .tendBad).refuseField .badField (.tendByte, 0)).desk, congrArg Host.Outcome.next ?_,
        ?_, ?_, ?_, latched, fun n other => (others n other).trans ?_, ?_, ?_, ?_, ?_, ?_, ?_⟩
      · rw [← before]; rfl
      · simp [State.refuseField, State.respond, desk]
      · simp [State.refuseField, State.respond, desk]
      · simp [State.refuseField, State.respond, desk]
      · rw [desk]; rfl
      all_goals simp [State.refuseField, State.respond, desk, record]
  case stopped =>
    exact congrArg Host.Outcome.next (if_neg (by simp [stopped]))
  case expiry =>
    have goes : exec .tendTimerExpiry s = .next
        (let x : State := { s with desk :=
          { s.desk with tendTimer := some r.tendWindow, missed := min 255 (s.desk.missed + 1) } }
         if s.desk.state = .onLine then ((x.enterDesk .unattended).raise .tendMissed).settleRows else x) := by
      refine congrArg Host.Outcome.next ((if_pos (by simp [runs])).trans ?_)
      rw [State.tendWindow_of_record record]
      simp only [bump_eq]
      rfl
    refine ⟨fun other => goes.trans (congrArg Host.Outcome.next (if_neg other)), fun onLine => ⟨_,
      goes.trans (congrArg Host.Outcome.next (if_pos onLine)), ?_⟩⟩
    have only : OnlyScreen (told .unattended s) _ := State.enterDesk_onlyScreen .unattended s
      { s.desk with tendTimer := some r.tendWindow, missed := min 255 (s.desk.missed + 1) }
    generalize before : ({ s with desk :=
      { s.desk with tendTimer := some r.tendWindow, missed := min 255 (s.desk.missed + 1) } } : State) = x at only ⊢
    have desk : x.desk = { s.desk with tendTimer := some r.tendWindow, missed := min 255 (s.desk.missed + 1) } := by
      rw [← before]
    have windows : sameWindows s (x.enterDesk .unattended) := by
      rw [← before]
      exact State.enterDesk_sameWindows .unattended _
    have flash : (x.enterDesk .unattended).screen.flash = s.screen.flash := by
      rw [State.enterDesk_flash, ← before]
    have fresh (n : Nat) (enabled : n < s.screenCount) : (x.enterDesk .unattended).statusFresh n := by
      refine State.enterDesk_fresh .unattended x ?_
      rw [← before]
      exact enabled
    have entered := State.enterDesk_desk .unattended x
    generalize x.enterDesk .unattended = y at *
    have raised : (y.raise .tendMissed).screen = y.screen := rfl
    have only' : OnlyScreen (told .unattended s) (y.raise .tendMissed) := only.withDesk s.desk _
    have others (n : Notice) (other : n ≠ .tendMissed) := State.raise_latched_of_ne other y
    have latched := State.raise_latched .tendMissed y
    have fresh' (n : Nat) (enabled : n < s.screenCount) : (y.raise .tendMissed).statusFresh n :=
      statusFresh_congr (fresh n enabled) rfl rfl (by simp)
    obtain ⟨_, _, _, _, _, _, _, _, _, noticed⟩ := State.raise_rest .tendMissed y
    have rows := State.settleRows_follows (y.raise .tendMissed)
    have fresh'' (n : Nat) (enabled : n < s.screenCount) := State.settleRows_fresh (fresh' n enabled)
    rw [onlyNotices, entered, Desk.refresh_eq, desk] at noticed
    have old (n : Notice) : y.desk.latched n = s.desk.latched n := by
      rw [entered, Desk.latched, Desk.refresh_notices, desk]; rfl
    have windows' : sameWindows s (y.raise .tendMissed) := windows
    have flash' : (y.raise .tendMissed).screen.flash = s.screen.flash := flash
    generalize y.raise .tendMissed = z at *
    have after := rows.desk
    generalize z.settleRows = t at *
    refine ⟨by rw [after]; exact noticed, by rw [after]; exact latched, fun n other => ?_, only'.trans rows.onlyScreen,
      windows'.trans rows.windows, rows.flash.trans flash', fresh''⟩
    rw [after, others n other, old n]
  case phase =>
    refine ⟨fun flashes => congrArg Host.Outcome.next (if_pos flashes), fun notFast notSlow =>
      congrArg Host.Outcome.next (if_neg ?_)⟩
    rintro (fast | slow)
    · exact notFast fast
    · exact notSlow slow

/-! ## REPORT, STATUS and SCREEN STATUS (R177, R192, R194) -/

theorem timeLeft_le (w n : Nat) : timeLeft w n ≤ w := Nat.sub_le _ _

/-- Settles O55: each reply is computed from what stands, and a running timer takes one free value. -/
theorem timesReported : Obligations.TimesReported := by
  refine ⟨fun s ready => ⟨?report, ?status⟩, fun r s hears record => ?screen⟩
  case report =>
    have taken : exec .report s = .next ((s.takeTransfer (nameByte .report)).report) :=
      congrArg Host.Outcome.next (State.command_taken ready (by cases s.desk.state <;> rfl))
    refine ⟨_, s.tendLeft, if s.desk.tendTimer.isSome then s.freeReads + 1 else s.freeReads, taken.trans
      (congrArg Host.Outcome.next (?_ : _ = { s with
        desk := ((s.takeTransfer (nameByte .report)).report).desk, freeReads := _ })), ⟨fun stopped => ?_,
        fun w runs => ⟨_, timeLeft_le w s.freeReads, ?_⟩⟩, ?_⟩
    · cases runs : s.desk.tendTimer <;>
        simp [State.report, State.usedTendLeft, State.takeTransfer, State.onDesk, runs, State.useFree, State.done,
          State.respond]
    · simp [State.tendLeft, stopped]
    · simp [State.tendLeft, runs]
    · cases runs : s.desk.tendTimer <;> cases record : s.desk.record <;>
        simp [State.report, State.usedTendLeft, State.takeTransfer, State.onDesk, runs, record, State.useFree,
          State.done, State.respond, State.tendLeft, Desk.attentionLevel]
  case status =>
    have taken : exec .status s = .next ((s.takeTransfer (nameByte .status)).statusReply) :=
      congrArg Host.Outcome.next (State.command_taken ready (by cases s.desk.state <;> rfl))
    refine ⟨s.tendLeft, if s.desk.tendTimer.isSome then s.freeReads + 1 else s.freeReads, ?_⟩
    intro d planned
    refine ⟨taken.trans (congrArg Host.Outcome.next ?_), fun stopped => ?_, fun w runs =>
      ⟨_, timeLeft_le w s.freeReads, ?_⟩⟩
    · have same : (s.takeTransfer (nameByte .status)).desk.inputs.plannedNow = planned := rfl
      have known : within 1 30 s.desk.station = decide (1 ≤ d.station ∧ d.station ≤ 30) := by
        simp [within, d]
      have now : (s.takeTransfer (nameByte .status)).desk.station = s.desk.station := rfl
      unfold State.statusReply
      dsimp only
      rw [same, now, known]
      cases runs : s.desk.tendTimer <;>
        simp [State.usedTendLeft, State.takeTransfer, State.onDesk, runs, State.useFree, State.done,
          State.respond, State.replied, State.tendLeft, d]
    · simp only [d] at stopped
      simp [State.tendLeft, stopped]
    · simp only [d] at runs
      simp [State.tendLeft, runs]
  case screen =>
    have taken : exec .screenStatus s = .next ((s.takeTransfer (nameByte .screenStatus)).screenStatus) :=
      congrArg Host.Outcome.next (State.command_of_hearsHost hears (by decide))
    refine ⟨s.screen.flash.map fun f => (f, timeLeft (1000 * r.flashHold) s.freeReads),
      if s.screen.flash.isSome then s.freeReads + 1 else s.freeReads, taken.trans (congrArg Host.Outcome.next ?_), ?_,
      fun f m shown => ?_⟩
    · cases shown : s.screen.flash <;>
        simp [State.screenStatus, State.takeTransfer, State.onDesk, State.screenCount, record, shown, State.useFree,
          State.done, State.respond, State.replied, Traffic.holdsKind]
    · cases s.screen.flash <;> rfl
    · obtain ⟨_, _, eq⟩ := Option.map_eq_some_iff.mp shown
      cases eq
      exact timeLeft_le _ _

end Sys2Proof.Machine


namespace Sys2Proof.Machine

open Sys2Proof

/-! ## The deadlines of a SETTLE (R186) -/

/-- The deadline before edition `i` of the list, `before` the one before the first. -/
def deadlineBefore (before : Option Nat) (l : List EditionSpec) : Nat → Option Nat
  | 0 => before
  | i + 1 => (l[i]?).map (·.deadline)

/-- Edition `i` of the list has a deadline of the day that is above the one before it. -/
def deadlineSound (before : Option Nat) (l : List EditionSpec) (i : Nat) : Prop :=
  ∀ e, l[i]? = some e → e.deadline ≤ 1439 ∧ ∀ d, deadlineBefore before l i = some d → d < e.deadline

section Deadlines

variable {before : Option Nat} {e : EditionSpec} {rest : List EditionSpec}

theorem deadlineBefore_cons (i : Nat) :
    deadlineBefore before (e :: rest) (i + 1) = deadlineBefore (some e.deadline) rest i := by
  cases i <;> simp [deadlineBefore]

theorem deadlineSound_cons (i : Nat) :
    deadlineSound before (e :: rest) (i + 1) ↔ deadlineSound (some e.deadline) rest i := by
  simp [deadlineSound, deadlineBefore_cons]

/-- The test that `deadlineFault` makes of the first edition of a list. -/
theorem deadlineSound_head :
    (!within 0 1439 e.deadline || before.any fun d => decide (e.deadline ≤ d)) = true ↔
      ¬deadlineSound before (e :: rest) 0 := by
  simp only [deadlineSound, deadlineBefore, Bool.or_eq_true, Bool.not_eq_true', ← Bool.not_eq_true, within_iff,
    List.getElem?_cons_zero, Option.some.injEq, forall_eq', Option.any_eq_true, decide_eq_true_eq]
  constructor
  · rintro (far | ⟨d, there, above⟩) sound
    · exact far ⟨Nat.zero_le _, sound.1⟩
    · exact absurd (sound.2 d there) (by omega)
  · intro unsound
    by_contra none_
    push Not at none_
    exact unsound ⟨none_.1.2, fun d there => none_.2 d there⟩

/-- The first edition out of order is named by its number. -/
theorem deadlineFault_names (l : List EditionSpec) (before : Option Nat) (n i : Nat)
    (earlier : ∀ j, j < i → deadlineSound before l j) (unsound : ¬deadlineSound before l i) :
    deadlineFault n before l = some (.deadline, n + i) := by
  induction l generalizing before n i with
  | nil => exact absurd (fun e here => by cases here) unsound
  | cons e rest ih =>
    rw [deadlineFault]
    cases i with
    | zero => exact if_pos (deadlineSound_head.mpr unsound)
    | succ i =>
      rw [if_neg fun bad => (deadlineSound_head.mp bad) (earlier 0 (Nat.succ_pos i)),
        ih _ _ i (fun j lt => (deadlineSound_cons j).mp (earlier (j + 1) (Nat.succ_lt_succ lt)))
          fun sound => unsound ((deadlineSound_cons i).mpr sound)]
      rw [Nat.add_assoc, Nat.add_comm 1 i]

theorem deadlineFault_none (l : List EditionSpec) (before : Option Nat) (n : Nat)
    (sound : ∀ i, deadlineSound before l i) : deadlineFault n before l = none := by
  induction l generalizing before n with
  | nil => rfl
  | cons e rest ih =>
    rw [deadlineFault, if_neg fun bad => (deadlineSound_head.mp bad) (sound 0)]
    exact ih _ _ fun i => (deadlineSound_cons i).mp (sound (i + 1))

/-- As R186 says it of the editions of a start record. -/
theorem deadlineSound_iff (l : List EditionSpec) (i : Nat) :
    deadlineSound none l i ↔ ∀ e, l[i]? = some e →
      e.deadline ≤ 1439 ∧ ∀ b, 1 ≤ i → l[i - 1]? = some b → b.deadline < e.deadline := by
  cases i <;> simp [deadlineSound, deadlineBefore]

end Deadlines

/-! ## The checks of SETTLE in their order (R186) -/

section Test

variable {b : Bool} {P : Prop}

theorem not_test (iff : b = true ↔ P) (holds : P) : ¬(!b) = true := by simp [iff.mpr holds]

theorem test_fails (iff : b = true ↔ P) (fails : ¬P) : (!b) = true := by
  simpa using fun h => fails (iff.mp h)

end Test

theorem within_zero_iff {hi n : Nat} : within 0 hi n = true ↔ n ≤ hi := by simp [within]

theorem goodRoles_iff (roles : List Nat) :
    goodRoles roles = true ↔ roles.length ≤ 4 ∧ (∀ x ∈ roles, 1 ≤ x ∧ x ≤ 14) ∧ roles.Nodup := by
  simp [goodRoles, within_iff, and_assoc]

theorem goodEditionCount_iff (count : Nat) (l : List EditionSpec) :
    (within 1 8 count && decide (l.length = count)) = true ↔ 1 ≤ count ∧ count ≤ 8 ∧ l.length = count := by
  simp [within_iff, and_assoc]

/-! ## The station starts (R43, R158, R160, R187) -/

namespace OnlyScreen

variable {s t : State}

theorem withStatus (f : Status → Status) (h : OnlyScreen s t) :
    OnlyScreen { s with screen := { s.screen with status := f s.screen.status } }
      { t with screen := { t.screen with status := f t.screen.status } } :=
  { h with status := congrArg f h.status }

theorem withClock (f : Clock → Clock) (h : OnlyScreen s t) :
    OnlyScreen { s with clock := f s.clock } { t with clock := f t.clock } :=
  { h with clock := congrArg f h.clock }

theorem tellStatus (f : Status → Status) (h : OnlyScreen s t) :
    OnlyScreen { s with screen := { s.screen with status := f s.screen.status } } (t.tellStatus f) :=
  (h.withStatus f).trans (State.tellStatus_onlyScreen f t)

theorem tellDesk (f : LampInputs → LampInputs) (h : OnlyScreen s t) : OnlyScreen s (t.tellDesk f) :=
  h.trans (onDesk _ t)

theorem tellLine (st : LineState) (h : OnlyScreen s t) :
    OnlyScreen { s with screen := { s.screen with status := { s.screen.status with line := st } } } (t.tellLine st) :=
  (h.tellStatus fun x => { x with line := st }).tellDesk _

theorem tellCurrent (c : Current) (h : OnlyScreen s t) :
    OnlyScreen { s with screen := { s.screen with status := { s.screen.status with current := some c } } }
      (t.tellCurrent c) :=
  (h.tellStatus fun x => { x with current := some c }).tellDesk _

theorem enterDesk (st : DeskState) (h : OnlyScreen s t) :
    OnlyScreen { s with screen := { s.screen with status := { s.screen.status with desk := st } } } (t.enterDesk st) :=
  (h.trans (onDesk _ t)).tellStatus fun x => { x with desk := st }

end OnlyScreen

section Told

variable (s : State)

theorem State.tellLine_desk (st : LineState) :
    (s.tellLine st).desk = Desk.refresh { s.desk with inputs := { s.desk.inputs with line := st } } := by
  rw [State.tellLine, State.tellDesk, State.onDesk_desk, State.tellStatus_desk]

theorem State.tellCurrent_desk (c : Current) :
    (s.tellCurrent c).desk = Desk.refresh { s.desk with inputs := { s.desk.inputs with current := some c } } := by
  rw [State.tellCurrent, State.tellDesk, State.onDesk_desk, State.tellStatus_desk]

theorem State.tellLine_flash (st : LineState) : (s.tellLine st).screen.flash = s.screen.flash := State.tellStatus_flash _ s

theorem State.tellCurrent_flash (c : Current) : (s.tellCurrent c).screen.flash = s.screen.flash :=
  State.tellStatus_flash _ s

/-- A window with every row DIRTY and nothing staged stays so while status values are told. -/
theorem State.tellStatus_settled (f : Status → Status) {n : Nat} {s : State}
    (here : s.screen.windows[n]? = some Window.settled) :
    (s.tellStatus f).screen.windows[n]? = some Window.settled := by
  rw [State.tellStatus, State.dirtyStatus_get]
  have same : (s.onScreen fun c => { c with status := f c.status }).screen.windows[n]? = some Window.settled := here
  rw [same]
  split <;> rfl

end Told

/-- A settled window is given row 0 at once. -/
theorem State.settleRows_settled {n : Nat} {s : State} (enabled : n < s.screenCount)
    (here : s.screen.windows[n]? = some Window.settled) :
    s.settleRows.screen.windows[n]? =
      some
        { key := none, mode := .read, top := 0, cursor := none, dirty := false :: List.replicate 20 true,
          staging := .ready (s.settleRows.statusRow .read), lineMap := none, waiting := false } := by
  rw [State.settleRows_stages enabled here rfl (Window.nextRow_of_head rfl) rfl,
    (State.settleRows_follows s).statusRow, if_pos rfl]
  rfl

/-- The station as SETTLE leaves it before the screen unit and the desk unit are told. -/
def State.joined (record : StartRecord) (s : State) : State :=
  { s with
      desk := Desk.refresh { s.desk with record := some record, tendTimer := some firstWindow },
      line := { s.line with state := .joining, quiet := 0, join := 0, recessive := 0 },
      screen :=
        { s.screen with
            windows := List.replicate record.screens Window.settled ++ s.screen.windows.drop record.screens,
            timer := true } }

/-- The station just before its rows follow the taking of SETTLE. -/
def State.started (record : StartRecord) (s : State) : State :=
  (((((s.joined record).tellLine .joining).onClock fun c =>
    { c with editions := List.replicate record.editions.length .opened }).tellCurrent
      (some (1, .opened)))).enterDesk .onLine

section Started

variable {record : StartRecord} {s : State}

theorem currentOf_opened {n : Nat} (some_ : 1 ≤ n) :
    currentOf (List.replicate n EditionState.opened) = some (1, .opened) := by
  obtain ⟨m, rfl⟩ := Nat.exists_eq_add_of_le' some_
  simp [List.replicate_succ, currentOf, indexWhere, List.findIdx_cons]

theorem State.settleDesk_eq (dormant : s.line.state = .dormant) (count : 1 ≤ record.editions.length) :
    s.settleDesk record = (s.started record).settleRows.done (.settled record) := by
  have lanes : (s.onDesk fun d =>
      Desk.refresh { d with record := some record, tendTimer := some firstWindow }).screenCount = record.screens := by
    simp [State.screenCount]
  have joins : (s.onDesk fun d =>
      Desk.refresh { d with record := some record, tendTimer := some firstWindow }).startLanes.enterJoining =
        (s.joined record).tellLine .joining := by
    rw [State.startLanes, lanes]
    exact if_neg (by show ¬s.line.state = _; rw [dormant]; decide)
  have current (x : State) : (x.onClock fun c =>
      { c with editions := List.replicate record.editions.length .opened }).current = some (1, .opened) :=
    currentOf_opened count
  unfold State.settleDesk
  dsimp only
  rw [joins, List.map_const', current]
  rfl

/-- The desk unit after SETTLE, before the reply. -/
theorem State.started_desk : (s.started record).desk =
    Desk.refresh
      { Desk.refresh
          { Desk.refresh
              { Desk.refresh { s.desk with record := some record, tendTimer := some firstWindow } with
                  inputs := { s.desk.inputs with line := .joining } } with
              inputs := { s.desk.inputs with line := .joining, current := some (some (1, .opened)) } } with
          state := .onLine } := by
  unfold State.started
  rw [State.enterDesk_desk, State.tellCurrent_desk, State.onClock_desk, State.tellLine_desk]
  simp only [Desk.refresh_inputs, State.joined]

theorem State.started_onlyScreen :
    OnlyScreen
      { s with
          line := { s.line with state := .joining, quiet := 0, join := 0, recessive := 0 },
          clock := { s.clock with editions := List.replicate record.editions.length EditionState.opened },
          screen :=
            { s.screen with
                timer := true,
                status :=
                  { s.screen.status with
                      line := .joining, desk := .onLine, current := some (some (1, .opened)) } } }
      (s.started record) :=
  have joined : OnlyScreen
      { s with
          line := { s.line with state := .joining, quiet := 0, join := 0, recessive := 0 },
          screen := { s.screen with timer := true } } (s.joined record) := { OnlyScreen.refl _ with }
  (((joined.tellLine .joining).withClock fun c =>
    { c with editions := List.replicate record.editions.length .opened }).tellCurrent _).enterDesk .onLine

theorem State.started_flash : (s.started record).screen.flash = s.screen.flash := by
  unfold State.started
  rw [State.enterDesk_flash, State.tellCurrent_flash]
  exact State.tellLine_flash (s.joined record) .joining

theorem State.started_windows {n : Nat} (low : n < record.screens) :
    (s.started record).screen.windows[n]? = some Window.settled := by
  have joined : (s.joined record).screen.windows[n]? = some Window.settled := by
    show (List.replicate _ Window.settled ++ _)[n]? = _
    rw [List.getElem?_append_left (by simpa using low), List.getElem?_replicate, if_pos low]
  unfold State.started
  refine State.tellStatus_settled _ ?_
  refine State.tellStatus_settled _ ?_
  exact State.tellStatus_settled _ joined

end Started

/-- Settles O53: the first check that fails is named, and the taken record starts the station. -/
theorem settled : Obligations.Settled := by
  intro r s ready start no station rate roles typeset policy source day count deadline screens upTo3 upTo8
  have taken : exec (.settle r) s = .next ((s.takeTransfer (nameByte .settle)).settleCommand r) :=
    congrArg Host.Outcome.next (State.command_taken ready (by rw [start]; rfl))
  have refused {f : FieldName} {n : Nat} (fault : settleFault s.desk.station r = some (f, n)) : no f n := by
    have fault' : settleFault (s.takeTransfer (nameByte .settle)).desk.station r = some (f, n) := fault
    show exec (.settle r) s = _
    rw [taken, State.settleCommand, fault']
    rfl
  have ordered (i : Nat) : deadlineSound none r.editions i ↔ deadline i := deadlineSound_iff r.editions i
  have through3 (h : upTo3) (x : Option (FieldName × Nat)) : _ → settleFault s.desk.station r = x :=
    ((if_neg (not_test within_iff h.1)).trans ((if_neg (not_test within_zero_iff h.2.1)).trans
      (if_neg (not_test (goodRoles_iff _) h.2.2)))).trans
  have through8 (h : upTo8) (x : Option (FieldName × Nat)) : _ → settleFault s.desk.station r = x := fun rest =>
    through3 h.1 x (((if_neg (not_test within_iff h.2.1)).trans ((if_neg (not_test within_zero_iff h.2.2.1)).trans
      ((if_neg (not_test within_zero_iff h.2.2.2.1)).trans (if_neg (not_test within_zero_iff h.2.2.2.2))))).trans rest)
  refine ⟨fun bad => refused (if_pos (test_fails within_iff bad)), fun h1 bad => refused ?_,
    fun h1 h2 bad => refused ?_, fun h3 bad => refused (through3 h3 _ (if_pos (test_fails within_iff bad))),
    fun h3 h4 bad => refused (through3 h3 _ ?_), fun h3 h4 h5 bad => refused (through3 h3 _ ?_),
    fun h3 h4 h5 h6 bad => refused (through3 h3 _ ?_), fun h8 bad => refused (through8 h8 _ ?_),
    fun i h8 h9 earlier bad => refused (through8 h8 _ ?_), fun h8 h9 sound bad => refused (through8 h8 _ ?_),
    fun h8 h9 sound h11 dormant => ?_⟩
  · exact (if_neg (not_test within_iff h1)).trans (if_pos (test_fails within_zero_iff bad))
  · exact (if_neg (not_test within_iff h1)).trans ((if_neg (not_test within_zero_iff h2)).trans
      (if_pos (test_fails (goodRoles_iff _) bad)))
  · exact (if_neg (not_test within_iff h4)).trans (if_pos (test_fails within_zero_iff bad))
  · exact (if_neg (not_test within_iff h4)).trans ((if_neg (not_test within_zero_iff h5)).trans
      (if_pos (test_fails within_zero_iff bad)))
  · exact (if_neg (not_test within_iff h4)).trans ((if_neg (not_test within_zero_iff h5)).trans
      ((if_neg (not_test within_zero_iff h6)).trans (if_pos (test_fails within_zero_iff bad))))
  · exact if_pos (test_fails (goodEditionCount_iff ..) bad)
  · refine (if_neg (not_test (goodEditionCount_iff ..) h9)).trans ?_
    rw [deadlineFault_names r.editions none 1 i (fun j lt => (ordered j).mpr (earlier j lt))
      fun fine => bad ((ordered i).mp fine), Nat.add_comm]
  · refine (if_neg (not_test (goodEditionCount_iff ..) h9)).trans ?_
    rw [deadlineFault_none r.editions none 1 fun i => (ordered i).mpr (sound i)]
    exact if_pos (test_fails within_iff bad)
  · intro stored
    have passes : settleFault (s.takeTransfer (nameByte .settle)).desk.station r = none := by
      refine through8 h8 none ((if_neg (not_test (goodEditionCount_iff ..) h9)).trans ?_)
      rw [deadlineFault_none r.editions none 1 fun i => (ordered i).mpr (sound i)]
      exact if_neg (not_test within_iff h11)
    have length : stored.editions.length = r.editionCount := by
      show (r.editions.map _).length = _
      rw [List.length_map, h9.2.2]
    have clamped : clampRecord r = stored := rfl
    refine ⟨((s.takeTransfer (nameByte .settle)).started stored).settleRows.done (.settled stored),
      taken.trans (congrArg Host.Outcome.next ?_), ?_⟩
    · rw [State.settleCommand, passes, clamped]
      exact State.settleDesk_eq dormant (by rw [length]; exact h9.1)
    have only := State.started_onlyScreen (record := stored) (s := s.takeTransfer (nameByte .settle))
    rw [length] at only
    have desk := State.started_desk (record := stored) (s := s.takeTransfer (nameByte .settle))
    have flash := State.started_flash (record := stored) (s := s.takeTransfer (nameByte .settle))
    have windows (n : Nat) (low : n < r.screenCount) :=
      State.started_windows (record := stored) (s := s.takeTransfer (nameByte .settle)) (n := n) low
    generalize (s.takeTransfer (nameByte .settle)).started stored = x at *
    have rows := State.settleRows_follows x
    have lanes : x.screenCount = r.screenCount := by simp [State.screenCount, desk, stored]
    have staged (n : Nat) (low : n < r.screenCount) := State.settleRows_settled (by rw [lanes]; exact low) (windows n low)
    have desk' := rows.desk.trans desk
    have only' := only.trans rows.onlyScreen
    have flash' := rows.flash.trans flash
    generalize x.settleRows = y at *
    refine ⟨⟨?_, ?_, ?_⟩, ?_, ?_, ?_, ?_, ?_, ?_, ?_, ?_, only'.withDesk _ _, flash', staged⟩
    all_goals simp [State.done, State.respond, desk', State.takeTransfer, firstWindow]
    simp [Desk.attentionLevel]

end Sys2Proof.Machine


namespace Sys2Proof.Machine

open Sys2Proof

/-! ## What the desk unit is told (R120, R196) -/

/-- Of the desk unit only the lamp's inputs and the outputs differ. -/
def toldInputs (x : LampInputs) (s t : State) : Prop :=
  ∃ (attention : Bool) (lamp : LampPattern) (lit : Bool),
    t = { s with desk := { s.desk with inputs := x, attention := attention, lamp := lamp, lit := lit } }

theorem toldInputs_refl (s : State) : toldInputs s.desk.inputs s s := ⟨_, _, _, rfl⟩

/-- A refresh changes the outputs alone. -/
theorem Desk.refresh_outputs (d : Desk) : ∃ (attention : Bool) (lamp : LampPattern) (lit : Bool),
    d.refresh = { d with attention := attention, lamp := lamp, lit := lit } := by
  unfold Desk.refresh
  split
  · exact ⟨_, _, _, rfl⟩
  · exact ⟨_, _, _, rfl⟩

theorem State.tellDesk_told (f : LampInputs → LampInputs) (s : State) :
    toldInputs (f s.desk.inputs) s (s.tellDesk f) := by
  obtain ⟨attention, lamp, lit, outputs⟩ := Desk.refresh_outputs { s.desk with inputs := f s.desk.inputs }
  exact ⟨attention, lamp, lit, by rw [State.tellDesk, State.onDesk, outputs]⟩

/-- The counts of PLANNED plans without the plan that stands in a slot. -/
def State.plannedWithout (slot : Nat) (s : State) : List Nat :=
  match s.plan slot with
  | some p =>
      if p.state = .planned then s.desk.inputs.planned.modify (p.edition - 1) (· - 1) else s.desk.inputs.planned
  | none => s.desk.inputs.planned

theorem State.oldPlanLeaves_told (slot : Nat) (s : State) :
    toldInputs { s.desk.inputs with planned := s.plannedWithout slot } s (s.oldPlanLeaves slot) := by
  unfold State.oldPlanLeaves State.plannedWithout
  cases s.plan slot with
  | none => exact toldInputs_refl s
  | some p =>
    by_cases planned : p.state = .planned
    · simp only [if_pos planned]
      exact State.tellDesk_told (fun i => { i with planned := i.planned.modify (p.edition - 1) (· - 1) }) s
    · simp only [if_neg planned]
      exact toldInputs_refl s

/-! ## The checks of PLAN PAGE (R121) -/

/-- What R121 asks of the fields of a placement. -/
def placementSound (p : PlacementSpec) : Prop :=
  1 ≤ p.key.origin ∧ p.key.origin ≤ 30 ∧ 1 ≤ p.key.serial ∧ p.key.serial ≤ 4095 ∧
  1 ≤ p.columns ∧ p.columns ≤ 6 ∧ p.setting.face ≤ 3 ∧ 60 ≤ p.setting.measure ∧
  p.setting.measure ≤ 400 ∧ 10 ≤ p.setting.size ∧ p.setting.size ≤ 144 ∧ p.budget ≤ 2000

/-- A check of a chain that names what it finds: the chain finds nothing where the check and the rest do not. -/
theorem check_eq_none {α : Type} {b : Bool} {a : α} {rest : Option α} :
    (if (!b) = true then some a else rest) = none ↔ b = true ∧ rest = none := by
  cases b <;> simp

theorem placementFault_eq_none (p : PlacementSpec) : placementFault p = none ↔ placementSound p := by
  simp only [placementFault, check_eq_none, Bool.and_eq_true, within_iff, Nat.zero_le, true_and, placementSound,
    and_assoc, and_true]

theorem placementsFault_eq_none (l : List PlacementSpec) (i : Nat) :
    placementsFault i l = none ↔ ∀ p ∈ l, placementSound p := by
  induction l generalizing i with
  | nil => simp [placementsFault]
  | cons p rest ih =>
    rw [List.forall_mem_cons, ← placementFault_eq_none, ← ih (i + 1), placementsFault]
    cases placementFault p <;> simp

theorem repeatedKey_eq_none (l : List PlacementSpec) (earlier : List Key) (i : Nat) :
    repeatedKey i earlier l = none ↔ (l.map (·.key)).Nodup ∧ ∀ p ∈ l, p.key ∉ earlier := by
  induction l generalizing i earlier with
  | nil => simp [repeatedKey]
  | cons p rest ih =>
    rw [repeatedKey]
    by_cases seen : p.key ∈ earlier
    · simp [seen]
    · rw [if_neg (by simpa using seen), ih, List.forall_mem_cons]
      simp only [List.map_cons, List.nodup_cons, List.mem_map, List.mem_cons, not_or, seen, not_false_eq_true, true_and]
      constructor
      · rintro ⟨distinct, others⟩
        exact ⟨⟨fun ⟨q, mem, same⟩ => (others q mem).1 same, distinct⟩, fun q mem => (others q mem).2⟩
      · rintro ⟨⟨fresh, distinct⟩, others⟩
        exact ⟨distinct, fun q mem => ⟨fun same => fresh ⟨q, mem, same⟩, others q mem⟩⟩

theorem planFault_eq_none (count page edition : Nat) (l : List PlacementSpec) :
    planFault count page edition l = none ↔
      1 ≤ page ∧ page ≤ 96 ∧ 1 ≤ edition ∧ edition ≤ 8 ∧ edition ≤ count ∧ 1 ≤ l.length ∧ l.length ≤ 12 ∧
        (l.map (·.key)).Nodup ∧ ∀ p ∈ l, placementSound p := by
  have ranges := placementsFault_eq_none l 0
  unfold planFault
  cases found : placementsFault 0 l with
  | some f =>
    rw [found] at ranges
    simp only [reduceCtorEq, false_iff] at ranges
    simp only [check_eq_none, reduceCtorEq, and_false, ranges]
  | none =>
    have fine := ranges.mp found
    simp only [check_eq_none, Bool.and_eq_true, decide_eq_true_eq, within_iff, repeatedKey_eq_none, and_assoc,
      List.not_mem_nil, not_false_eq_true, implies_true, and_true, iff_true_intro fine]

theorem State.slotBusy_iff (slot : Nat) (s : State) :
    s.slotBusy slot = true ↔
      ∃ p, s.plan slot = some p ∧ (p.state = .queued ∨ p.state = .fitting ∨ p.state = .sending) := by
  have (st : PlanState) : st.underWay = true ↔ st = .queued ∨ st = .fitting ∨ st = .sending := by
    cases st <;> simp [PlanState.underWay]
  simp [State.slotBusy, Option.any_eq_true, this]

/-! ## The slot written or emptied (R121, R122) -/

section Written

variable {slot : Nat} {s : State}

theorem State.clearPlan_answers (c : CommandName) :
    ∃ (attention : Bool) (lamp : LampPattern) (lit : Bool),
      (((s.takeTransfer (nameByte c)).oldPlanLeaves slot).setPlan slot none).done .nothing =
        { s with
            page := { s.page with plans := s.page.plans.set slot none },
            desk :=
              { s.desk with
                  ready := false, command := some (nameByte c), op := .idle,
                  response := some { name := nameByte c, result := .done, field := none, data := .nothing },
                  inputs := { s.desk.inputs with planned := s.plannedWithout slot },
                  attention := attention, lamp := lamp, lit := lit } } := by
  obtain ⟨attention, lamp, lit, left⟩ := State.oldPlanLeaves_told slot (s.takeTransfer (nameByte c))
  refine ⟨attention, lamp, lit, ?_⟩
  rw [left]
  rfl

theorem State.writePlan_answers (c : CommandName) (page edition : Nat) (send : Bool) (l : List PlacementSpec) :
    ∃ (attention : Bool) (lamp : LampPattern) (lit : Bool),
      (s.takeTransfer (nameByte c)).writePlan slot page edition send l =
        { s with
            page := { s.page with plans := s.page.plans.set slot (some (planOf page edition send l)) },
            desk :=
              { s.desk with
                  ready := false, command := some (nameByte c), op := .idle,
                  response :=
                    some
                      { name := nameByte c, result := .done, field := none,
                        data := .planned (l.map fun p => (min 8 p.setting.lead, min 36 p.setting.indent)) },
                  inputs :=
                    { s.desk.inputs with planned := (s.plannedWithout slot).modify (edition - 1) (· + 1) },
                  attention := attention, lamp := lamp, lit := lit } } := by
  obtain ⟨_, _, _, left⟩ := State.oldPlanLeaves_told slot (s.takeTransfer (nameByte c))
  obtain ⟨attention, lamp, lit, enters⟩ := State.tellDesk_told
    (fun i => { i with planned := i.planned.modify (edition - 1) (· + 1) })
    (((s.takeTransfer (nameByte c)).oldPlanLeaves slot).setPlan slot (some (planOf page edition send l)))
  refine ⟨attention, lamp, lit, ?_⟩
  unfold State.writePlan State.planEnters
  rw [enters, left]
  rfl

end Written

/-- Settles O43: both commands make their checks in turn, and the slot is written with what the desk unit is told. -/
theorem planSlotWritten : Obligations.PlanSlotWritten := by
  intro slot page edition send l d s hears record plan busy left written wrong sound
  have clears : exec (.clearPlan slot) s = .next ((s.takeTransfer (nameByte .clearPlan)).clearPlan slot) :=
    congrArg Host.Outcome.next (State.command_of_hearsHost hears (by decide))
  have plans : exec plan s = .next ((s.takeTransfer (nameByte .planPage)).planPage slot page edition send l) :=
    congrArg Host.Outcome.next (State.command_of_hearsHost hears (by decide))
  have table (n : Byte) : (s.takeTransfer n).editionTable = d.editions :=
    State.editionTable_of_record (s := s.takeTransfer n) record
  have slotBusy (n : Byte) : (s.takeTransfer n).slotBusy slot = true ↔ busy := State.slotBusy_iff slot (s.takeTransfer n)
  refine ⟨fun high => ?_, fun low isBusy => ?_, fun low free => ?_, planFault_eq_none .., fun f low free bad => ?_,
    fun low free fine => ?_⟩
  · have bad : (!within 0 3 slot) = true := test_fails within_zero_iff (by omega)
    exact ⟨clears.trans (congrArg Host.Outcome.next (if_pos bad)), plans.trans (congrArg Host.Outcome.next (if_pos bad))⟩
  · have fine : ¬(!within 0 3 slot) = true := not_test within_zero_iff low
    exact
      ⟨clears.trans (congrArg Host.Outcome.next ((if_neg fine).trans (if_pos ((slotBusy _).mpr isBusy)))),
        plans.trans (congrArg Host.Outcome.next ((if_neg fine).trans (if_pos ((slotBusy _).mpr isBusy))))⟩
  · have fine : ¬(!within 0 3 slot) = true := not_test within_zero_iff low
    obtain ⟨attention, lamp, lit, answers⟩ := State.clearPlan_answers (slot := slot) (s := s) .clearPlan
    refine ⟨_, clears.trans (congrArg Host.Outcome.next ((if_neg fine).trans
      ((if_neg fun b => free ((slotBusy _).mp b)).trans answers))), ?_, rfl, rfl, rfl⟩
    exact ⟨rfl, rfl, rfl, rfl, rfl, rfl, rfl, rfl, rfl, rfl⟩
  · have low' : ¬(!within 0 3 slot) = true := not_test within_zero_iff low
    refine plans.trans (congrArg Host.Outcome.next ((if_neg low').trans
      ((if_neg fun b => free ((slotBusy _).mp b)).trans ?_)))
    rw [table, show planFault d.editions.length page edition l = some f from bad]
    rfl
  · have low' : ¬(!within 0 3 slot) = true := not_test within_zero_iff low
    obtain ⟨attention, lamp, lit, answers⟩ :=
      State.writePlan_answers (slot := slot) (s := s) .planPage page edition send l
    refine ⟨_, plans.trans (congrArg Host.Outcome.next ((if_neg low').trans
      ((if_neg fun b => free ((slotBusy _).mp b)).trans (Eq.trans ?_ answers)))), ?_, rfl, rfl, rfl⟩
    · rw [table, show planFault d.editions.length page edition l = none from fine]
    · exact ⟨rfl, rfl, rfl, rfl, rfl, rfl, rfl, rfl, rfl, rfl⟩

end Sys2Proof.Machine


namespace Sys2Proof.Machine

open Sys2Proof

/-! ## The changes that follow at once, one by one (R104, R124 to R128) -/

/-- What the page engine does when the fit queue has no run to begin. -/
def State.pageStep (s : State) : Option State :=
  match s.headPlan with
  | none => none
  | some (slot, p) =>
      if p.state = .queued then
        some ((s.onPlan slot fun p => { p with state := .fitting }).onPage fun e =>
          { e with requests := s.unfitted p, outstanding := [] })
      else if p.state = .fitting then
        match s.page.requests with
        | i :: rest =>
            if s.fit.waiting.isSome then none
            else
              match p.placements[i]? with
              | none => some (s.onPage fun e => { e with requests := rest })
              | some q =>
                  some ((s.onFit (FitEngine.pageRequest q.key q.setting)).onPage fun e =>
                    { e with requests := rest, outstanding := e.outstanding ++ [i] })
        | [] => if s.page.outstanding = [] then some (s.fitCheck slot p) else none
      else none

section FitStep

variable {s : State} {slot : Nat} {p : Plan}

/-- No run is to be begun. -/
def State.noRunToBegin (s : State) : Prop := s.fit.run = none → s.fit.queue = []

theorem State.fitStep_begins {q : FitRequest} {l : List FitRequest} (idle : s.fit.run = none)
    (queue : s.fit.queue = q :: l) : s.fitStep = some (s.beginRun q) := by
  unfold State.fitStep
  rw [idle, queue]

theorem State.fitStep_page (noRun : s.noRunToBegin) : s.fitStep = s.pageStep := by
  unfold State.fitStep
  cases run : s.fit.run with
  | none =>
    rw [noRun run]
    rfl
  | some r => rfl

theorem State.pageStep_noHead (noHead : s.headPlan = none) : s.pageStep = none := by
  unfold State.pageStep
  rw [noHead]

theorem State.pageStep_queued (head : s.headPlan = some (slot, p)) (queued : p.state = .queued) :
    s.pageStep =
      some ((s.onPlan slot fun p => { p with state := .fitting }).onPage fun e =>
        { e with requests := s.unfitted p, outstanding := [] }) := by
  unfold State.pageStep
  rw [head]
  exact if_pos queued

theorem State.pageStep_other (head : s.headPlan = some (slot, p)) (notQueued : p.state ≠ .queued)
    (notFitting : p.state ≠ .fitting) : s.pageStep = none := by
  unfold State.pageStep
  rw [head]
  exact (if_neg notQueued).trans (if_neg notFitting)

section Fitting

variable (head : s.headPlan = some (slot, p)) (fitting : p.state = .fitting)

include head fitting

theorem State.pageStep_waits {i : Nat} {rest : List Nat} (requests : s.page.requests = i :: rest)
    (waits : s.fit.waiting ≠ none) : s.pageStep = none := by
  unfold State.pageStep
  simp only [head, fitting, reduceCtorEq, if_false, if_true, requests]
  exact if_pos (Option.isSome_iff_ne_none.mpr waits)

theorem State.pageStep_requests {i : Nat} {rest : List Nat} {q : Placement} (requests : s.page.requests = i :: rest)
    (free : s.fit.waiting = none) (placed : p.placements[i]? = some q) :
    s.pageStep =
      some ((s.onFit (FitEngine.pageRequest q.key q.setting)).onPage fun e =>
        { e with requests := rest, outstanding := e.outstanding ++ [i] }) := by
  unfold State.pageStep
  simp only [head, fitting, reduceCtorEq, if_false, if_true, requests, free, Option.isSome_none, Bool.false_eq_true,
    placed]

theorem State.pageStep_skips {i : Nat} {rest : List Nat} (requests : s.page.requests = i :: rest)
    (free : s.fit.waiting = none) (absent : p.placements[i]? = none) :
    s.pageStep = some (s.onPage fun e => { e with requests := rest }) := by
  unfold State.pageStep
  simp only [head, fitting, reduceCtorEq, if_false, if_true, requests, free, Option.isSome_none, Bool.false_eq_true,
    absent]

theorem State.pageStep_outstanding (requests : s.page.requests = []) (waits : s.page.outstanding ≠ []) :
    s.pageStep = none := by
  unfold State.pageStep
  simp only [head, fitting, reduceCtorEq, if_false, if_true, requests]
  exact if_neg waits

theorem State.pageStep_checks (requests : s.page.requests = []) (none_ : s.page.outstanding = []) :
    s.pageStep = some (s.fitCheck slot p) := by
  unfold State.pageStep
  simp only [head, fitting, reduceCtorEq, if_false, if_true, requests]
  exact if_pos none_

end Fitting

/-- The page engine has nothing to do: no head plan is QUEUED, and a FITTING one has a request that cannot join, or
fits outstanding with none left to request. -/
def State.pageIdle (s : State) : Prop :=
  ∀ slot p, s.headPlan = some (slot, p) →
    p.state ≠ .queued ∧
      (p.state = .fitting →
        (s.page.requests ≠ [] ∧ s.fit.waiting ≠ none) ∨ (s.page.requests = [] ∧ s.page.outstanding ≠ []))

theorem State.pageStep_eq_none : s.pageStep = none ↔ s.pageIdle := by
  cases head : s.headPlan with
  | none =>
    refine ⟨fun _ slot p here => ?_, fun _ => State.pageStep_noHead head⟩
    rw [head] at here
    cases here
  | some x =>
    obtain ⟨slot, p⟩ := x
    have here : s.pageIdle ↔ p.state ≠ .queued ∧ (p.state = .fitting →
        (s.page.requests ≠ [] ∧ s.fit.waiting ≠ none) ∨ (s.page.requests = [] ∧ s.page.outstanding ≠ [])) := by
      refine ⟨fun idle => idle slot p head, fun idle slot' p' there => ?_⟩
      rw [head] at there
      cases there
      exact idle
    rw [here]
    by_cases queued : p.state = .queued
    · simp [State.pageStep_queued head queued, queued]
    by_cases fitting : p.state = .fitting
    · cases requests : s.page.requests with
      | nil =>
        by_cases none_ : s.page.outstanding = []
        · simp [State.pageStep_checks head fitting requests none_, fitting, none_]
        · simp [State.pageStep_outstanding head fitting requests none_, fitting, none_]
      | cons i rest =>
        by_cases free : s.fit.waiting = none
        · cases placed : p.placements[i]? with
          | none => simp [State.pageStep_skips head fitting requests free placed, fitting, free]
          | some q => simp [State.pageStep_requests head fitting requests free placed, fitting, free]
        · simp [State.pageStep_waits head fitting requests free, fitting, free]
    · simp [State.pageStep_other head queued fitting, queued, fitting]

theorem State.fitStep_eq_none : s.fitStep = none ↔ s.noRunToBegin ∧ s.pageIdle := by
  by_cases noRun : s.noRunToBegin
  · rw [State.fitStep_page noRun, State.pageStep_eq_none]
    simp [noRun]
  · have ⟨idle, busy⟩ : s.fit.run = none ∧ s.fit.queue ≠ [] := by simpa [State.noRunToBegin] using noRun
    obtain ⟨q, l, queue⟩ := List.exists_cons_of_ne_nil busy
    simp [State.fitStep_begins idle queue, noRun]

theorem State.headPlan_congr {t : State} (page : t.page = s.page) : t.headPlan = s.headPlan := by
  unfold State.headPlan State.plan
  rw [page]

theorem State.pageIdle_congr {t : State} (idle : s.pageIdle) (page : t.page = s.page)
    (waiting : t.fit.waiting = s.fit.waiting) : t.pageIdle := by
  intro slot p head
  rw [State.headPlan_congr page] at head
  rw [page, waiting]
  exact idle slot p head

/-- With a send order that is empty the page engine has nothing to do. -/
theorem State.pageIdle_of_empty (empty : s.page.sendOrder = []) : s.pageIdle := by
  intro slot p head
  simp [State.headPlan, empty] at head

end FitStep

/-! ## Until none is left -/

/-- The state `n` changes on, if that many follow. -/
def State.fitSteps : Nat → State → Option State
  | 0, s => some s
  | n + 1, s => s.fitStep.bind (State.fitSteps n)

theorem State.settleFitsFor_idle {s : State} (idle : s.fitStep = none) (fuel : Nat) : State.settleFitsFor fuel s = s := by
  cases fuel with
  | zero => rfl
  | succ fuel =>
    unfold State.settleFitsFor
    rw [idle]

theorem State.settleFitsFor_steps {n fuel : Nat} {s t : State} (steps : s.fitSteps n = some t) (enough : n ≤ fuel)
    (idle : t.fitStep = none) : State.settleFitsFor fuel s = t := by
  induction n generalizing s fuel with
  | zero =>
    cases steps
    exact State.settleFitsFor_idle idle fuel
  | succ n ih =>
    obtain ⟨u, once, rest⟩ := Option.bind_eq_some_iff.mp steps
    obtain ⟨fuel, rfl⟩ := Nat.exists_eq_add_of_le' (Nat.lt_of_lt_of_le (Nat.succ_pos n) enough)
    unfold State.settleFitsFor
    rw [once]
    exact ih rest (by omega)

theorem State.settleFits_steps {n : Nat} {s t : State} (steps : s.fitSteps n = some t) (few : n ≤ 512)
    (idle : t.fitStep = none) : s.settleFits = t :=
  State.settleFitsFor_steps steps few idle

theorem State.settleFits_idle {s : State} (idle : s.fitStep = none) : s.settleFits = s :=
  State.settleFitsFor_idle idle 512

theorem State.settleFits_once {s t : State} (step : s.fitStep = some t) (idle : t.fitStep = none) : s.settleFits = t :=
  State.settleFits_steps (n := 1) (by rw [State.fitSteps, step]; rfl) (by decide) idle

/-! ## FIT (R100 to R104) -/

section Fit

variable {k : Key} {w : Setting} {s : State} {r : Story}

theorem goodSetting_iff (w : Setting) :
    goodSetting w = true ↔
      w.face ≤ 3 ∧ 60 ≤ w.measure ∧ w.measure ≤ 400 ∧ 10 ≤ w.size ∧ w.size ≤ 144 := by
  simp [goodSetting, within_iff, and_assoc]

theorem FitEngine.hasSame_iff (e : FitEngine) (c : Setting) :
    e.hasSame k c = true ↔ ∃ q ∈ e.queue, q.key = k ∧ q.setting = c := by
  simp [FitEngine.hasSame, FitRequest.same]

theorem State.fitRefusal_of_story (stands : s.story k = some r) :
    s.fitRefusal k w = if !goodSetting w then some .badField
      else if s.fit.hasSame k (clampSetting w) ||
        (decide (s.fit.queue.length < 4) && s.fit.waiting.isNone) then none else some .busy := by
  simp only [State.fitRefusal, stands]

/-- A run of a story with text that is not in edit reads its first block. -/
theorem State.beginRun_reads {q : FitRequest} (stands : s.story q.key = some r) (notInEdit : s.fit.editKey ≠ some q.key)
    (text : 0 < r.length) :
    s.beginRun q =
      (s.onFit fun e =>
        { e with run := some (.reading
            { table := (s.fit.face q.setting.face).table, capacity := capacityOf q.setting,
              firstCap := firstCapacityOf q.setting, length := r.length, block := 0, breaker := Breaker.start,
              lines := 0, overwide := false }) }).onPort
        (Port.request { purpose := .fitRead, block := r.chain.getD 0 0, first := 0, count := min 32 r.length,
                        aside := false }) := by
  have nonempty : ¬r.length = 0 := by omega
  simp only [State.beginRun, stands, if_neg notInEdit, if_neg nonempty, State.requestChain, State.requestAccess,
    charsIn, Nat.mul_zero, Nat.sub_zero]

end Fit

/-- Settles O39: the request joins or is the youngest, and only an idle engine begins its run. -/
theorem fitRequested : Obligations.FitRequested := by
  intro k w s hears idle c sound same room cap
  obtain ⟨noRun, pageIdle⟩ := State.fitStep_eq_none.mp idle
  have settle (f : FitEngine → FitEngine) (waiting : (f s.fit).waiting = s.fit.waiting) (runs : (f s.fit).run ≠ none) :
      ((s.takeTransfer (nameByte .fit)).onFit f).settleFits = (s.takeTransfer (nameByte .fit)).onFit f :=
    State.settleFits_idle (State.fitStep_eq_none.mpr ⟨fun none_ => absurd none_ runs,
      State.pageIdle_congr pageIdle rfl waiting⟩)
  refine ⟨fun absent => ?_, fun r stands => ?_⟩
  · exact State.command_unless_refused hears (by decide)
      (by rw [State.fitRefusal, State.takeTransfer_story, absent])
  have check := State.fitRefusal_of_story (w := w) ((State.takeTransfer_story (nameByte .fit) s k).trans stands)
  have goes (fine : sound) (free : (∃ q ∈ s.fit.queue, same q) ∨ room) :
      exec (.fit k w) s = .next ((s.takeTransfer (nameByte .fit)).requestFit k w) := by
    refine State.command_unless_goes hears (by decide) (check.trans ((if_neg ?_).trans (if_pos ?_)))
    · exact not_test (goodSetting_iff w) fine
    · rcases free with joins | room
      · exact Bool.or_eq_true_iff.mpr (.inl ((FitEngine.hasSame_iff ..).mpr joins))
      · exact Bool.or_eq_true_iff.mpr (.inr (by
          have ⟨few, none_⟩ := room
          show (decide (s.fit.queue.length < 4) && s.fit.waiting.isNone) = true
          simp [few, none_]))
  refine ⟨fun bad => ?_, fun fine fresh full => ?_, fun fine joins runs => ?_, fun fine fresh free runs => ?_,
    fun fine empty none_ stopped notInEdit text => ?_⟩
  · exact State.command_unless_refused hears (by decide)
      (check.trans (if_pos (test_fails (goodSetting_iff w) bad)))
  · refine State.command_unless_refused hears (by decide)
      (check.trans ((if_neg (not_test (goodSetting_iff w) fine)).trans (if_neg ?_)))
    rw [Bool.or_eq_true, FitEngine.hasSame_iff]
    rintro (⟨q, mem, there⟩ | free)
    · exact fresh q mem there
    · refine full ?_
      have : (decide (s.fit.queue.length < 4) && s.fit.waiting.isNone) = true := free
      simpa [room] using this
  · have joined : s.fit.hasSame k (clampSetting w) = true := (FitEngine.hasSame_iff ..).mpr joins
    rw [goes fine (.inl joins)]
    simp only [State.requestFit, State.takeTransfer, State.onDesk_fit, joined, if_true]
    have settled := settle (fun e => e.join k (clampSetting w) true false) rfl runs
    rw [State.takeTransfer] at settled
    rw [settled]
    refine congrArg Host.Outcome.next ?_
    simp only [State.done, State.respond, State.onFit, State.onDesk, State.replied, FitEngine.join, FitRequest.same,
      Bool.or_true, Bool.or_false, Bool.and_eq_true, decide_eq_true_eq]
    rfl
  · have fresh' : s.fit.hasSame k (clampSetting w) = false := by
      rw [← Bool.not_eq_true, FitEngine.hasSame_iff]
      rintro ⟨q, mem, there⟩
      exact fresh q mem there
    rw [goes fine (.inr free)]
    simp only [State.requestFit, State.takeTransfer, State.onDesk_fit, fresh', Bool.false_eq_true, if_false]
    have settled := settle (fun e => e.add k (clampSetting w) true false) rfl runs
    rw [State.takeTransfer] at settled
    rw [settled]
    rfl
  · have fresh' : s.fit.hasSame k (clampSetting w) = false := by
      simp [FitEngine.hasSame, empty]
    rw [goes fine (.inr ⟨by rw [empty]; decide, none_⟩)]
    simp only [State.requestFit, State.takeTransfer, State.onDesk_fit, fresh', Bool.false_eq_true, if_false]
    have begins := State.fitStep_begins (s := (s.onDesk fun d =>
      { d with ready := false, command := some (nameByte .fit) }).onFit fun e => e.add k (clampSetting w) true false)
      (q := { key := k, setting := clampSetting w, host := true, page := false }) (l := []) stopped
      (by simp [FitEngine.add, empty])
    have reads := begins.trans (congrArg some (State.beginRun_reads (r := r) stands notInEdit text))
    rw [State.settleFits_once reads (State.fitStep_eq_none.mpr ⟨fun h => (by cases h),
      State.pageIdle_congr pageIdle rfl rfl⟩)]
    refine congrArg Host.Outcome.next ?_
    simp only [State.done, State.respond, State.onFit, State.onDesk, State.replied, State.onPort, FitEngine.add, empty]
    rfl

end Sys2Proof.Machine


namespace Sys2Proof.Machine

open Sys2Proof

/-! ## A run that ends alone in the queue (R106) -/

section EndRun

variable {s : State} {q : FitRequest} {o : FitOutcome}

/-- The fit engine when its one request has left it. -/
def FitEngine.emptied (q : FitRequest) (o : FitOutcome) (e : FitEngine) : FitEngine :=
  { e with
      queue := [], run := none,
      last := if q.host then some { key := q.key, setting := q.setting, outcome := o } else e.last }

/-- The end of the one request's run, its host told. -/
def State.runEnded (q : FitRequest) (o : FitOutcome) (s : State) : State :=
  if q.host then (s.onFit (FitEngine.emptied q o)).raise .fitDone else s.onFit (FitEngine.emptied q o)

theorem State.endRun_alone (queue : s.fit.queue = [q]) (waiting : s.fit.waiting = none) :
    s.endRun o = if q.page then (s.runEnded q o).tellPage q.key q.setting o else s.runEnded q o := by
  have left : s.fit.leave = { s.fit with queue := [], run := none } := by
    simp [FitEngine.leave, queue, waiting]
  unfold State.endRun State.runEnded FitEngine.emptied
  simp only [queue, State.onFit, left]
  cases q.host <;> rfl

theorem State.tellPage_noHead {k : Key} {t : Setting} (noHead : s.headPlan = none) : s.tellPage k t o = s := by
  unfold State.tellPage
  rw [noHead]

theorem State.runEnded_fit : (s.runEnded q o).fit = s.fit.emptied q o := by
  unfold State.runEnded
  split <;> simp

/-- The end of a run changes the fit engine and raises a notice. -/
theorem State.runEnded_rest :
    let t := s.runEnded q o
    t.store = s.store ∧ t.port = s.port ∧ t.line = s.line ∧ t.traffic = s.traffic ∧ t.pass = s.pass ∧
      t.page = s.page ∧ t.clock = s.clock ∧ t.screen = s.screen ∧ (q.host = true → t.desk.latched .fitDone = true) ∧
      onlyNotices s t := by
  unfold State.runEnded
  cases q.host with
  | false => exact ⟨rfl, rfl, rfl, rfl, rfl, rfl, rfl, rfl, nofun, rfl⟩
  | true =>
    obtain ⟨store, port, line, traffic, pass, _, page, clock, screen, desk⟩ :=
      State.raise_rest .fitDone (s.onFit (FitEngine.emptied q o))
    exact ⟨store, port, line, traffic, pass, page, clock, screen, fun _ => State.raise_latched .fitDone _, desk⟩

theorem State.headPlan_empty (empty : s.page.sendOrder = []) : s.headPlan = none := by
  simp [State.headPlan, empty]

/-- With no plan in the send order the page engine does nothing. -/
theorem State.endRun_noHead (queue : s.fit.queue = [q]) (waiting : s.fit.waiting = none)
    (empty : s.page.sendOrder = []) : s.endRun o = s.runEnded q o := by
  obtain ⟨_, _, _, _, _, page, _⟩ := State.runEnded_rest (s := s) (q := q) (o := o)
  have noHead : (s.runEnded q o).headPlan = none := State.headPlan_empty (by rw [page]; exact empty)
  rw [State.endRun_alone queue waiting, State.tellPage_noHead noHead]
  split <;> rfl

end EndRun

/-! ## What follows a frame at once (R60) -/

section Settle

variable {s : State}

theorem State.settleSlips_fit (s : State) : s.settleSlips.fit = s.fit := by
  rw [(State.settleSlips_slip s).rest]

/-- The slip writer and the rows leave the fit queue, the page engine and all but the port and windows. -/
theorem State.settle_idle_fit (idle : s.fitStep = none) : s.settle.fit = s.fit := by
  unfold State.settle
  rw [State.settleFits_idle idle, (State.settleRows_follows _).fit, State.settleSlips_fit]

theorem exec_dispatch {k : FrameKind} {owner : RxSlot → State → State} {x : RxSlot} {rest : List RxSlot}
    (slots : s.traffic.slots = x :: rest) (kind : x.kind = k) :
    s.dispatch k owner = ((owner x s).freeOldest).settle := by
  simp only [State.dispatch, slots]
  exact if_pos kind

/-- A frame set aside leaves its slot free, and nothing else of its own. -/
theorem State.freeOldest_eq {x : RxSlot} {rest : List RxSlot} (slots : s.traffic.slots = x :: rest) :
    s.freeOldest = { s with traffic := { s.traffic with slots := rest } } := by
  simp [State.freeOldest, State.onTraffic, slots]

end Settle

/-! ## WIDTHS (R97, R98) -/

section Widths

variable {s : State} {f p : Nat} {widths : List Nat}

theorem Face.write_eq (low : p ≤ 2) (a : Face) :
    a.write p widths =
      { part0 := if p = 0 then some widths else a.part0, part1 := if p = 1 then some widths else a.part1,
        part2 := if p = 2 then some widths else a.part2 } := by
  match p, low with
  | 0, _ => rfl
  | 1, _ => rfl
  | 2, _ => rfl

/-- The faces with a part written and the notice of a KNOWN face. -/
def State.partWritten (f p : Nat) (widths : List Nat) (s : State) : State :=
  let t := s.onFit fun e => { e with faces := e.faces.modify f (Face.write p widths) }
  if (t.fit.face f).known then t.raise .faceLearned else t

theorem State.learnWidths_eq :
    s.learnWidths f p widths = ((s.partWritten f p widths).onStore (Store.removeFits f)).widthsAtRun f := rfl

theorem State.partWritten_rest :
    let t := s.partWritten f p widths
    let faces := s.fit.faces.modify f (Face.write p widths)
    t.fit = { s.fit with faces := faces } ∧ t.store = s.store ∧ t.port = s.port ∧ t.line = s.line ∧
      t.traffic = s.traffic ∧ t.pass = s.pass ∧ t.page = s.page ∧ t.clock = s.clock ∧
      ((faces.getD f Face.absent).known = true → t.desk.latched .faceLearned = true) := by
  unfold State.partWritten
  dsimp only
  split
  · next known =>
    obtain ⟨store, port, line, traffic, pass, fit, page, clock, _⟩ := State.raise_rest .faceLearned
      (s.onFit fun e => { e with faces := e.faces.modify f (Face.write p widths) })
    exact ⟨fit, store, port, line, traffic, pass, page, clock, fun _ => State.raise_latched .faceLearned _⟩
  · next unknown => exact ⟨rfl, rfl, rfl, rfl, rfl, rfl, rfl, rfl, fun known => absurd known unknown⟩

theorem State.widthsAtRun_follows (s : State) : SettleFollows s (s.widthsAtRun f) := by
  unfold State.widthsAtRun
  repeat' split
  all_goals first
    | exact SettleFollows.refl s
    | exact State.stopRun_follows ..
    | exact SettleFollows.onFit s rfl rfl

/-- A run that reads in the face ends STALE. -/
theorem State.widthsAtRun_reading {r : FitReading} {q : FitRequest} (run : s.fit.run = some (.reading r))
    (queue : s.fit.queue = [q]) (face : q.setting.face = f) : s.widthsAtRun f = s.stopRun .stale := by
  simp only [State.widthsAtRun, run, queue, face, if_true]

/-- A run that waits for the store's answer is marked. -/
theorem State.widthsAtRun_storing {g : FitRecord} {b : Nat} {since text : Bool} {q : FitRequest} {l : List FitRequest}
    (run : s.fit.run = some (.storing g b since text)) (queue : s.fit.queue = q :: l) (face : q.setting.face = f) :
    s.widthsAtRun f = s.onFit fun e => { e with run := some (.storing g b true text) } := by
  simp only [State.widthsAtRun, run, queue, face, if_true]

end Widths

/-- Settles O41: the part is written, the face's records go, and its run ends or is marked. -/
theorem widthsLearned : Obligations.WidthsLearned := by
  intro x rest s slots kind f p widths freed write faces
  have dispatched : exec .widthsDispatch s = .next ((widthsOwner x s).freeOldest).settle :=
    congrArg Host.Outcome.next (exec_dispatch slots kind)
  have tests : (within 0 3 f && within 0 2 p) = true ↔ f ≤ 3 ∧ p ≤ 2 := by simp [within_zero_iff]
  refine ⟨fun bad => ⟨_, dispatched, ?_⟩, fun lowFace lowPart => ⟨_, dispatched, ?_⟩⟩
  · have aside : widthsOwner x s = s := if_neg fun good => bad (tests.mp good)
    rw [aside, State.freeOldest_eq slots]
    exact State.settle_follows _
  · have written : faces = s.fit.faces.modify f (Face.write p widths) :=
      congrArg (fun g => s.fit.faces.modify f g) (funext fun a => (Face.write_eq lowPart a).symm)
    have learned : widthsOwner x s = s.learnWidths f p widths := if_pos (tests.mpr ⟨lowFace, lowPart⟩)
    rw [learned, State.learnWidths_eq]
    have part := State.partWritten_rest (s := s) (f := f) (p := p) (widths := widths)
    rw [← written] at part
    obtain ⟨fit, store, port, line, traffic, pass, page, clock, notice⟩ := part
    generalize s.partWritten f p widths = a at *
    have runs := State.widthsAtRun_follows (f := f) (a.onStore (Store.removeFits f))
    have storing {g : FitRecord} {b : Nat} {since text : Bool} {q : FitRequest} {l : List FitRequest}
        (empty : s.page.sendOrder = []) (run : s.fit.run = some (.storing g b since text))
        (queue : s.fit.queue = q :: l) (face : q.setting.face = f) :
        ((a.onStore (Store.removeFits f)).widthsAtRun f).freeOldest.settle.fit =
          { s.fit with faces := faces, run := some (.storing g b true text) } := by
      have run' : (a.onStore (Store.removeFits f)).fit.run = some (.storing g b since text) := by
        rw [State.onStore_fit, fit, run]
      have queue' : (a.onStore (Store.removeFits f)).fit.queue = q :: l := by rw [State.onStore_fit, fit, queue]
      rw [State.widthsAtRun_storing run' queue' face, State.settle_idle_fit]
      · show { a.fit with run := some (.storing g b true text) } = _
        rw [fit]
      · refine State.fitStep_eq_none.mpr ⟨nofun, State.pageIdle_of_empty ?_⟩
        show a.page.sendOrder = []
        rw [page, empty]
    have reading {r : FitReading} {q : FitRequest} (empty : s.page.sendOrder = []) (waiting : s.fit.waiting = none)
        (run : s.fit.run = some (.reading r)) (queue : s.fit.queue = [q]) (face : q.setting.face = f) :
        ((a.onStore (Store.removeFits f)).widthsAtRun f).freeOldest.settle.fit =
            ({ s.fit with faces := faces } : FitEngine).emptied q .stale ∧
          (q.host = true → ((a.onStore (Store.removeFits f)).widthsAtRun f).desk.latched .fitDone = true) := by
      have run' : (a.onStore (Store.removeFits f)).fit.run = some (.reading r) := by rw [State.onStore_fit, fit, run]
      have queue' : (a.onStore (Store.removeFits f)).fit.queue = [q] := by rw [State.onStore_fit, fit, queue]
      have stopped : (a.onStore (Store.removeFits f)).stopRun .stale =
          ((a.onStore (Store.removeFits f)).onPort (Port.abandon Purpose.isFit)).runEnded q .stale :=
        State.endRun_noHead queue' (by rw [State.onPort_fit, State.onStore_fit, fit, waiting])
          (by rw [State.onPort_page, State.onStore_page, page, empty])
      rw [State.widthsAtRun_reading run' queue' face, stopped]
      obtain ⟨_, _, _, _, _, page', _, _, done, _⟩ := State.runEnded_rest (q := q) (o := .stale)
        (s := (a.onStore (Store.removeFits f)).onPort (Port.abandon Purpose.isFit))
      have fit' := State.runEnded_fit (q := q) (o := .stale)
        (s := (a.onStore (Store.removeFits f)).onPort (Port.abandon Purpose.isFit))
      rw [State.onPort_fit, State.onStore_fit, fit] at fit'
      rw [State.onPort_page, State.onStore_page, page] at page'
      generalize ((a.onStore (Store.removeFits f)).onPort (Port.abandon Purpose.isFit)).runEnded q .stale = y at *
      have fit'' : y.freeOldest.fit = _ := fit'
      have idle : y.freeOldest.fitStep = none := by
        refine State.fitStep_eq_none.mpr ⟨fun _ => by rw [fit'']; rfl, State.pageIdle_of_empty ?_⟩
        show y.page.sendOrder = []
        rw [page', empty]
      exact ⟨(State.settle_idle_fit idle).trans fit'', done⟩
    generalize (a.onStore (Store.removeFits f)).widthsAtRun f = w at *
    have settles := State.settle_follows w.freeOldest
    have after : w.freeOldest.traffic.slots = rest := by
      show w.traffic.slots.tail = rest
      rw [runs.slots, State.onStore_traffic, traffic, slots]
      rfl
    have wStories : w.freeOldest.store.stories = w.store.stories := rfl
    have wRest : w.freeOldest.store = w.store := rfl
    have wNotices : w.freeOldest.desk = w.desk := rfl
    have wPass : w.freeOldest.pass = w.pass := rfl
    have wLine : w.freeOldest.line = w.line := rfl
    have wClock : w.freeOldest.clock = w.clock := rfl
    have wFit : w.freeOldest.fit = w.fit := rfl
    generalize w.freeOldest.settle = t at *
    generalize w.freeOldest = v at *
    have stores : (a.onStore (Store.removeFits f)).store = Store.removeFits f s.store := by
      rw [State.onStore_store, store]
    refine ⟨settles.slots.trans after, ?_, ?_, ?_, ?_, ?_, ?_, fun known => ?_,
      fun empty waiting => ⟨fun r q run queue face => ?_, fun g b since text q l run queue face =>
        storing empty run queue face⟩⟩
    · rw [settles.faces, wFit, runs.faces, State.onStore_fit, fit]
    · rw [settles.stories, wStories, runs.stories, stores]
      rfl
    · have rest := settles.storeRest
      rw [wRest, runs.storeRest, stores] at rest
      exact rest
    · rw [settles.pass, wPass, runs.pass, State.onStore_pass, pass]
    · rw [settles.line, wLine, runs.line, State.onStore_line, line]
    · rw [settles.clock, wClock, runs.clock, State.onStore_clock, clock]
    · exact settles.notices _ (by rw [wNotices]; exact runs.notices _ (notice known))
    · obtain ⟨emptied, done⟩ := reading empty waiting run queue face
      exact ⟨emptied, fun host => settles.notices _ (by rw [wNotices]; exact done host)⟩

end Sys2Proof.Machine


namespace Sys2Proof.Machine

open Sys2Proof

/-! ## Locks released (R21, R125) -/

/-- The records of `keys` without a page lock. -/
def unlockAll (keys : List Key) (l : List Story) : List Story :=
  l.map fun r => if r.key ∈ keys then { r with lock := none } else r

theorem releaseLocks_eq (l : List Placement) (s : State) :
    l.foldl (fun s q => s.releaseLock q.key) s =
      s.onStore fun st => { st with stories := unlockAll (l.map (·.key)) st.stories } := by
  induction l generalizing s with
  | nil => simp [unlockAll, State.onStore]
  | cons q rest ih =>
    rw [List.foldl_cons, ih]
    simp only [State.releaseLock, State.onStore, Store.change, unlockAll, List.map_map, List.map_cons, List.mem_cons]
    have each (r : Story) : ((fun r : Story => if r.key ∈ rest.map (·.key) then { r with lock := none } else r) ∘
        fun r => if r.key = q.key then { r with lock := none } else r) r =
          if r.key = q.key ∨ r.key ∈ rest.map (·.key) then { r with lock := none } else r := by
      by_cases here : r.key = q.key
      · simp [here]
      · simp [here]
    rw [funext each]

/-! ## The end of a plan (R125) -/

/-- The notice of an outcome, raised. -/
def State.notified (o : PlanState) (s : State) : State :=
  match o.notice with
  | some n => s.raise n
  | none => s

theorem State.notified_rest (o : PlanState) (s : State) :
    let t := s.notified o
    t.store = s.store ∧ t.port = s.port ∧ t.line = s.line ∧ t.traffic = s.traffic ∧ t.pass = s.pass ∧ t.fit = s.fit ∧
      t.page = s.page ∧ t.clock = s.clock ∧ t.screen = s.screen ∧ onlyNotices s t := by
  unfold State.notified
  cases o.notice with
  | none => exact ⟨rfl, rfl, rfl, rfl, rfl, rfl, rfl, rfl, rfl, rfl⟩
  | some n => exact State.raise_rest n s

theorem State.notified_latched {o : PlanState} {n : Notice} (notice : o.notice = some n) (s : State) :
    (s.notified o).desk.latched n = true := by
  rw [State.notified, notice]
  exact State.raise_latched n s

section EndPlan

variable {s : State} {slot : Nat} {p : Plan} {o : PlanState}

/-- The plan in a slot given another state. -/
def PageEngine.ended (slot : Nat) (o : PlanState) (e : PageEngine) : PageEngine :=
  { e with plans := e.plans.modify slot (Option.map fun p => { p with state := o })
           sendOrder := e.sendOrder.filter (· ≠ slot) }

/-- A QUEUED plan ends: its locks and its place in the send order. -/
theorem State.endPlan_queued (stands : s.plan slot = some p) (queued : p.state = .queued) :
    s.endPlan slot o =
      State.notified o
        { s with
            store := { s.store with stories := unlockAll (p.placements.map (·.key)) s.store.stories },
            page := s.page.ended slot o } := by
  unfold State.endPlan
  simp only [stands, queued, PlanState.underWay, if_true, reduceCtorEq, if_false, releaseLocks_eq]
  rfl

/-- A FITTING plan ends: its locks, its requests and its place in the send order. -/
theorem State.endPlan_fitting (stands : s.plan slot = some p) (fitting : p.state = .fitting) :
    s.endPlan slot o =
      State.notified o
        { s with
            store := { s.store with stories := unlockAll (p.placements.map (·.key)) s.store.stories },
            fit := s.fit.withdrawPage,
            page := { s.page.ended slot o with requests := [], outstanding := [] } } := by
  unfold State.endPlan
  simp only [stands, fitting, PlanState.underWay, if_true, reduceCtorEq, if_false, releaseLocks_eq]
  rfl

theorem State.ended_plan {t : State} (stands : s.plan slot = some p)
    (plans : t.page.plans = (s.page.ended slot o).plans) : t.plan slot = some { p with state := o } := by
  have changed := State.onPlan_plan (s := s) (slot := slot) (f := fun p => { p with state := o })
  rw [stands, Option.map_some] at changed
  rw [← changed]
  unfold State.plan
  rw [plans]
  rfl

theorem PageEngine.ended_alone {e : PageEngine} (alone : e.sendOrder = [slot]) : (e.ended slot o).sendOrder = [] := by
  simp [PageEngine.ended, alone]

end EndPlan

/-! ## While the page engine rests -/

/-- No head plan is QUEUED or FITTING, so that no fit is asked for and none is told of. -/
def State.pageRests (s : State) : Prop :=
  ∀ slot p, s.headPlan = some (slot, p) → p.state ≠ .queued ∧ p.state ≠ .fitting

theorem State.pageRests_of_empty {s : State} (empty : s.page.sendOrder = []) : s.pageRests := by
  intro slot p head
  rw [State.headPlan_empty empty] at head
  cases head

theorem State.pageRests_congr {s t : State} (rests : s.pageRests) (page : t.page = s.page) : t.pageRests := by
  intro slot p head
  rw [State.headPlan_congr page] at head
  exact rests slot p head

theorem State.pageStep_rests {s : State} (rests : s.pageRests) : s.pageStep = none := by
  cases head : s.headPlan with
  | none => exact State.pageStep_noHead head
  | some x =>
    obtain ⟨notQueued, notFitting⟩ := rests x.1 x.2 head
    exact State.pageStep_other head notQueued notFitting

theorem State.tellPage_rests {s : State} {k : Key} {w : Setting} {o : FitOutcome} (rests : s.pageRests) :
    s.tellPage k w o = s := by
  unfold State.tellPage
  split
  · rfl
  · next slot p head => exact if_neg (rests slot p head).2

/-- The fit engine, its own requests and the desk unit's notices follow, and nothing else. -/
structure FitsFollow (s t : State) : Prop where
  rest : t = { s with fit := t.fit, port := t.port, desk := t.desk }
  notices : ∀ n, s.desk.latched n = true → t.desk.latched n = true
  busy : ∀ a, s.port.busy = some a → t.port.busy = some a
  waits : ∀ q, q ≠ .fit → t.port.waiting q = s.port.waiting q

namespace FitsFollow

variable {s t u : State}

theorem refl (s : State) : FitsFollow s s := ⟨rfl, fun _ h => h, fun _ h => h, fun _ _ => rfl⟩

theorem trans (h : FitsFollow s t) (k : FitsFollow t u) : FitsFollow s u where
  rest := by
    have first := h.rest
    have second := k.rest
    rw [first] at second
    exact second
  notices := fun n here => k.notices n (h.notices n here)
  busy := fun a here => k.busy a (h.busy a here)
  waits := fun q other => (k.waits q other).trans (h.waits q other)

theorem page (h : FitsFollow s t) : t.page = s.page := by rw [h.rest]

theorem onFit (f : FitEngine → FitEngine) (s : State) : FitsFollow s (s.onFit f) :=
  ⟨rfl, fun _ h => h, fun _ h => h, fun _ _ => rfl⟩

theorem raise (n : Notice) (s : State) : FitsFollow s (s.raise n) :=
  ⟨rfl, (SettleFollows.raise n s).notices, fun _ h => h, fun _ _ => rfl⟩

theorem request {a : Access} (mine : a.purpose.requester = .fit) (s : State) :
    FitsFollow s (s.onPort (Port.request a)) where
  rest := rfl
  notices := fun _ h => h
  busy := fun b h => Port.request_busy a b s.port h
  waits := fun q other => by
    show (s.port.request a).waiting q = _
    unfold Port.request
    split
    · cases q <;> rfl
    · rw [Port.waiting_setWaiting, mine, if_neg other]

theorem endRun (rests : s.pageRests) (o : FitOutcome) : FitsFollow s (s.endRun o) := by
  unfold State.endRun
  split
  · exact onFit _ s
  · dsimp only
    have left := onFit FitEngine.leave s
    have hosted (f : FitEngine → FitEngine) := (left.trans (onFit f _)).trans (raise .fitDone _)
    repeat' split
    · rw [State.tellPage_rests (by exact State.pageRests_congr rests rfl)]
      exact hosted _
    · rw [State.tellPage_rests (by exact State.pageRests_congr rests rfl)]
      exact left
    · exact hosted _
    · exact left

theorem beginRun (rests : s.pageRests) (q : FitRequest) : FitsFollow s (s.beginRun q) := by
  unfold State.beginRun
  split
  · exact endRun rests _
  · dsimp only
    repeat' split
    · exact onFit _ s
    · exact onFit _ s
    · exact (onFit _ s).trans (request rfl _)

theorem settleFitsFor (fuel : Nat) (s : State) (rests : s.pageRests) : FitsFollow s (State.settleFitsFor fuel s) := by
  induction fuel generalizing s with
  | zero => exact refl s
  | succ fuel ih =>
    unfold State.settleFitsFor
    split
    · exact refl s
    · next t step =>
      by_cases noRun : s.noRunToBegin
      · rw [State.fitStep_page noRun, State.pageStep_rests rests] at step
        cases step
      · have ⟨idle, busy⟩ : s.fit.run = none ∧ s.fit.queue ≠ [] := by simpa [State.noRunToBegin] using noRun
        obtain ⟨q, l, queue⟩ := List.exists_cons_of_ne_nil busy
        rw [State.fitStep_begins idle queue] at step
        cases step
        have begins := beginRun rests q
        exact begins.trans (ih _ (State.pageRests_congr rests begins.page))

theorem settleFits (rests : s.pageRests) : FitsFollow s s.settleFits := settleFitsFor 512 s rests

end FitsFollow

/-- The page engine, the stories and the out queue stand, and no notice clears. -/
structure PageStands (s t : State) : Prop where
  store : t.store = s.store
  traffic : t.traffic = s.traffic
  page : t.page = s.page
  notices : ∀ n, s.desk.latched n = true → t.desk.latched n = true

theorem FitsFollow.stands {s t : State} (h : FitsFollow s t) : PageStands s t where
  store := by rw [h.rest]
  traffic := by rw [h.rest]
  page := h.page
  notices := h.notices

namespace PageStands

variable {s t u : State}

theorem refl (s : State) : PageStands s s := ⟨rfl, rfl, rfl, fun _ h => h⟩

theorem trans (h : PageStands s t) (k : PageStands t u) : PageStands s u :=
  ⟨k.store.trans h.store, k.traffic.trans h.traffic, k.page.trans h.page, fun n here => k.notices n (h.notices n here)⟩

theorem beginRun (noHead : s.page.sendOrder = []) (q : FitRequest) : PageStands s (s.beginRun q) :=
  (FitsFollow.beginRun (State.pageRests_of_empty noHead) q).stands

theorem settleFitsFor (fuel : Nat) (s : State) (noHead : s.page.sendOrder = []) :
    PageStands s (State.settleFitsFor fuel s) :=
  (FitsFollow.settleFitsFor fuel s (State.pageRests_of_empty noHead)).stands

theorem settleFits (noHead : s.page.sendOrder = []) : PageStands s s.settleFits := settleFitsFor 512 s noHead

/-- The slip writer's request and the rows change none of these. -/
theorem ofSlips (s : State) : PageStands s s.settleSlips.settleRows := by
  have rows := State.settleRows_follows s.settleSlips
  have slips := State.settleSlips_slip s
  have same : s.settleSlips = { s with port := s.settleSlips.port } := slips.rest
  generalize s.settleSlips = x at *
  refine ⟨?_, ?_, ?_, fun n here => ?_⟩
  · rw [rows.store, same]
  · rw [rows.traffic, same]
  · rw [rows.page, same]
  · rw [rows.desk, same]
    exact here

end PageStands

/-! ## The overset decision (R112, R128 to R131) -/

section FitCheck

variable {s : State} {slot : Nat} {p : Plan}

theorem State.unfitted_eq (p : Plan) (s : State) : s.unfitted p = s.needing p.placements := rfl

theorem State.setResult_checked (l : List Placement) (s : State) : l.map s.setResult = s.checked l := by
  unfold State.checked
  refine List.map_congr_left fun q _ => ?_
  unfold State.setResult
  cases (s.story q.key).bind (·.fit) <;> rfl

theorem Placement.found_overset (q : Placement) : 0 < q.found.overset ↔ ∃ f, q.result = some f ∧ 0 < f.overset := by
  unfold Placement.found
  cases q.result <;> simp

theorem State.anyDamaged_iff (l : List Placement) (s : State) :
    (l.any fun q => (s.story q.key).any (·.damaged)) = true ↔
      ∃ q ∈ l, ∃ r, s.story q.key = some r ∧ r.damaged = true := by
  simp [List.any_eq_true, Option.any_eq_true]

/-- The PAGE HEAD of a plan, as the transfer begins (R131). -/
def State.headFrame (p : Plan) (s : State) : OutFrame :=
  { kind := .pageHead, dest := { form := .role, number := s.typesetRole },
    payload := oneByte p.page ++ oneByte p.edition ++ oneByte p.placements.length }

theorem State.enterSending_eq (stands : s.plan slot = some p) :
    s.enterSending slot =
      let started := (s.onPlan slot fun p => { p with state := .sending }).onPage fun e =>
        { e with transfer := { Transfer.clear with plan := some slot, drop := e.transfer.drop } }
      if s.page.transfer.drop.isSome then
        started.onPage fun e =>
          { e with ready := some (s.headFrame p), transfer := { e.transfer with frame := .preparing } }
      else started.sendPageFrame (s.headFrame p) := by
  have plan : ((s.onPlan slot fun p => { p with state := .sending }).onPage fun e =>
      { e with transfer := { Transfer.clear with plan := some slot, drop := e.transfer.drop } }).plan slot =
        some { p with state := .sending } := by
    have changed := State.onPlan_plan (s := s) (slot := slot) (f := fun p => { p with state := .sending })
    rw [stands] at changed
    exact changed
  unfold State.enterSending State.preparePage
  simp only [State.onPage_page, State.onPlan, Transfer.clear, Option.bind_some]
  rw [State.onPlan] at plan
  simp only [Transfer.clear] at plan
  rw [plan]
  rfl

end FitCheck

end Sys2Proof.Machine


namespace Sys2Proof.Machine

open Sys2Proof

section FitCheck

variable {s t : State} {slot : Nat} {p : Plan}

/-- What the end of the one plan under way leaves, by an outcome with the notice PAGE FAILED. -/
structure PlanFailed (slot : Nat) (p : Plan) (o : PlanState) (s t : State) : Prop where
  plan : t.plan slot = some { p with state := o }
  order : t.page.sendOrder = []
  notice : t.desk.latched .pageFailed = true
  transfer : t.page.transfer = s.page.transfer
  traffic : t.traffic = s.traffic
  stories : t.store.stories = unlockAll (p.placements.map (·.key)) s.store.stories
  requests : t.page.requests = []
  outstanding : t.page.outstanding = []

theorem State.endPlan_fails {o : PlanState} (notice : o.notice = some .pageFailed) (stands : s.plan slot = some p)
    (fitting : p.state = .fitting) (alone : s.page.sendOrder = [slot]) :
    PlanFailed slot p o s (s.endPlan slot o) := by
  rw [State.endPlan_fitting stands fitting]
  obtain ⟨store, _, _, traffic, _, _, page, _⟩ := State.notified_rest o
    { s with
        store := { s.store with stories := unlockAll (p.placements.map (·.key)) s.store.stories },
        fit := s.fit.withdrawPage, page := { s.page.ended slot o with requests := [], outstanding := [] } }
  have latched := State.notified_latched notice
    { s with
        store := { s.store with stories := unlockAll (p.placements.map (·.key)) s.store.stories },
        fit := s.fit.withdrawPage, page := { s.page.ended slot o with requests := [], outstanding := [] } }
  exact {
    plan := State.ended_plan stands (by rw [page])
    order := by rw [page]; exact PageEngine.ended_alone (o := o) alone
    notice := latched
    transfer := by rw [page]; rfl
    traffic := traffic
    stories := by rw [store]
    requests := by rw [page]
    outstanding := by rw [page] }

/-- A change that leaves the page engine and the rest keeps the end of a plan. -/
theorem PlanFailed.settled {u : State} {o : PlanState} (h : PlanFailed slot p o s t) (k : PageStands t u) :
    PlanFailed slot p o s u where
  plan := by unfold State.plan; rw [k.page]; exact h.plan
  order := by rw [k.page]; exact h.order
  notice := k.notices _ h.notice
  transfer := by rw [k.page]; exact h.transfer
  traffic := k.traffic.trans h.traffic
  stories := by rw [k.store]; exact h.stories
  requests := by rw [k.page]; exact h.requests
  outstanding := by rw [k.page]; exact h.outstanding

theorem State.checked_keys (l : List Placement) (s : State) : (s.checked l).map (·.key) = l.map (·.key) := by
  unfold State.checked
  rw [List.map_map]
  refine List.map_congr_left fun q _ => ?_
  simp only [Function.comp_apply]
  split <;> rfl

/-- Whether a placement of a plan is overset by the results just set. -/
theorem State.checked_overset (l : List Placement) (s : State) :
    ((s.checked l).any fun q => decide (0 < q.found.overset)) = true ↔
      ∃ q ∈ s.checked l, ∃ f, q.result = some f ∧ 0 < f.overset := by
  simp only [List.any_eq_true, decide_eq_true_eq, Placement.found_overset]

/-- A SENDING plan that has begun its transfer (R130, R131, R134). -/
structure SendingBegun (slot : Nat) (p : Plan) (s t : State) : Prop where
  plan : t.plan slot = some { p with state := .sending }
  order : t.page.sendOrder = s.page.sendOrder
  direct : s.page.transfer.drop = none →
    t.page.transfer = { Transfer.clear with plan := some slot, frame := .queued } ∧
    (s.traffic.held .page = 0 →
      t.traffic = { s.traffic with queue := s.traffic.queue ++ [newEntry .page (s.headFrame p)] })
  waits : s.page.transfer.drop ≠ none →
    t.page.transfer = { Transfer.clear with plan := some slot, frame := .preparing, drop := s.page.transfer.drop } ∧
    t.page.ready = some (s.headFrame p) ∧ t.traffic = s.traffic
  fit : t.fit = s.fit
  store : t.store = s.store

theorem State.enterSending_begins (stands : s.plan slot = some p) : SendingBegun slot p s (s.enterSending slot) := by
  have plan {x : State} (plans : x.page.plans = s.page.plans.modify slot (Option.map fun p => { p with state := .sending })) :
      x.plan slot = some { p with state := .sending } := State.ended_plan (o := .sending) stands plans
  rw [State.enterSending_eq stands]
  dsimp only
  cases drop : s.page.transfer.drop with
  | none =>
    rw [Option.isSome_none, if_neg Bool.false_ne_true]
    unfold State.sendPageFrame State.send
    split
    · exact {
        plan := plan rfl
        order := rfl
        direct := fun _ => ⟨by simp [State.onPage, State.onPlan, State.onTraffic, Transfer.clear, drop], fun _ => rfl⟩
        waits := fun some_ => absurd drop some_
        fit := rfl
        store := rfl }
    · next full =>
      exact {
        plan := plan rfl
        order := rfl
        direct := fun _ => ⟨by simp [State.onPage, State.onPlan, Transfer.clear, drop],
          fun free => absurd (Traffic.hasRoom_page _ free) full⟩
        waits := fun some_ => absurd drop some_
        fit := rfl
        store := rfl }
  | some reason =>
    rw [Option.isSome_some, if_pos rfl]
    exact {
      plan := plan rfl
      order := rfl
      direct := fun none_ => (by rw [drop] at none_; cases none_)
      waits := fun _ => ⟨by simp [State.onPage, State.onPlan, Transfer.clear, drop], rfl, rfl⟩
      fit := rfl
      store := rfl }

/-- The plan is decided: it ends, and its locks with it, or its transfer begins. -/
theorem State.fitCheck_decides (stands : s.plan slot = some p) (fitting : p.state = .fitting)
    (alone : s.page.sendOrder = [slot]) (fitted : s.needing p.placements = []) :
    PageDecided slot p s (s.fitCheck slot p) ∧
      ((s.fitCheck slot p).page.sendOrder = [] ∨
        (SendingBegun slot { p with placements := s.checked p.placements } s (s.fitCheck slot p))) := by
  have form : s.fitCheck slot p =
      if p.placements.any fun q => (s.story q.key).any (·.damaged) then s.endPlan slot (.failed .damaged)
      else
        let x := s.onPlan slot fun p' => { p' with placements := s.checked p.placements }
        if ((s.checked p.placements).any fun q => decide (0 < q.found.overset)) && !p.sendOverset then
          x.endPlan slot .overset
        else x.enterSending slot := by
    unfold State.fitCheck
    dsimp only
    rw [State.unfitted_eq, if_neg (not_not.mpr fitted), State.setResult_checked]
  rw [form]
  by_cases damaged : (p.placements.any fun q => (s.story q.key).any (·.damaged)) = true
  · rw [if_pos damaged]
    obtain ⟨q, mem, r, there, bad⟩ := (State.anyDamaged_iff ..).mp damaged
    have failed := State.endPlan_fails (o := .failed .damaged) rfl stands fitting alone
    refine ⟨?_, .inl failed.order⟩
    exact {
      damaged := fun _ => failed.plan
      overset := fun fine => absurd (fine q mem r there) (by simp [bad])
      ended := fun _ => ⟨failed.order, failed.notice, failed.transfer, failed.traffic, failed.stories⟩
      sends := fun fine => absurd (fine q mem r there) (by simp [bad]) }
  · rw [if_neg damaged]
    have fine : ¬∃ q ∈ p.placements, ∃ r, s.story q.key = some r ∧ r.damaged = true :=
      fun bad => damaged ((State.anyDamaged_iff ..).mpr bad)
    have set : (s.onPlan slot fun p' => { p' with placements := s.checked p.placements }).plan slot =
        some { p with placements := s.checked p.placements } := by
      rw [State.onPlan_plan, stands, Option.map_some]
    dsimp only
    by_cases over_ : (((s.checked p.placements).any fun q => decide (0 < q.found.overset)) && !p.sendOverset) = true
    · rw [if_pos over_]
      simp only [Bool.and_eq_true, State.checked_overset, Bool.not_eq_true'] at over_
      obtain ⟨some_, stops⟩ := over_
      have failed := State.endPlan_fails (o := .overset) rfl set fitting alone
      have keys := failed.stories
      simp only [State.checked_keys] at keys
      refine ⟨?_, .inl failed.order⟩
      exact {
        damaged := fun bad => absurd bad fine
        overset := fun _ _ _ => failed.plan
        ended := fun _ => ⟨failed.order, failed.notice, failed.transfer, failed.traffic, keys⟩
        sends := fun _ free => by
          rcases free with lets | none_
          · rw [stops] at lets
            cases lets
          · obtain ⟨q, mem, f, result, more⟩ := some_
            exact absurd (none_ q mem f result) (by omega) }
    · rw [if_neg over_]
      have begun := State.enterSending_begins set
      have sends := begun.plan
      refine ⟨?_, .inr { begun with }⟩
      exact {
        damaged := fun bad => absurd bad fine
        overset := fun _ stops some_ => absurd
          (by simp only [Bool.and_eq_true, State.checked_overset, Bool.not_eq_true']; exact ⟨some_, stops⟩) over_
        ended := fun ended => by
          rw [sends] at ended
          rcases ended with same | same
          · exact absurd (congrArg (Option.map Plan.state) same) nofun
          · exact absurd (congrArg (Option.map Plan.state) same) nofun
        sends := fun _ _ => by
          refine ⟨sends, begun.order.trans alone, fun none_ => ?_, fun some_ => ?_⟩
          · obtain ⟨transfer, traffic⟩ := begun.direct none_
            refine ⟨transfer, fun free => (traffic free).trans ?_⟩
            have length : (s.checked p.placements).length = p.placements.length := by simp [State.checked]
            simp only [State.headFrame, length]
            rfl
          · obtain ⟨transfer, ready, traffic⟩ := begun.waits some_
            refine ⟨transfer, ready.trans ?_, traffic⟩
            have length : (s.checked p.placements).length = p.placements.length := by simp [State.checked]
            simp only [State.headFrame, length]
            rfl }

theorem unlocked_fit {q r : Story} (h : q.unlocked = r.unlocked) : q.fit = r.fit := by
  have := congrArg Story.fit h
  exact this

theorem unlocked_damaged {q r : Story} (h : q.unlocked = r.unlocked) : q.damaged = r.damaged := by
  have := congrArg Story.damaged h
  exact this

/-- Stories that differ in page locks alone have the same fit records and damage. -/
theorem story_same {v : State} (stories : v.store.stories.map Story.unlocked = s.store.stories.map Story.unlocked) (k : Key) :
    ((v.story k).bind (·.fit)) = ((s.story k).bind (·.fit)) ∧
      ∀ r, s.story k = some r → ∃ q, v.story k = some q ∧ q.unlocked = r.unlocked := by
  have same := story_unlocked stories k
  refine ⟨?_, fun r there => ?_⟩
  · cases here : v.story k with
    | none =>
      rw [here, Option.map_none] at same
      rw [Option.map_eq_none_iff.mp same.symm]
    | some q =>
      rw [here, Option.map_some] at same
      obtain ⟨r, there, eq⟩ := Option.map_eq_some_iff.mp same.symm
      have fit : r.fit = q.fit := unlocked_fit eq
      rw [there, Option.bind_some, Option.bind_some, fit]
  · rw [there, Option.map_some] at same
    exact Option.map_eq_some_iff.mp same

theorem State.checked_congr {v : State}
    (stories : v.store.stories.map Story.unlocked = s.store.stories.map Story.unlocked) (l : List Placement) :
    v.checked l = s.checked l := by
  unfold State.checked
  refine List.map_congr_left fun q _ => ?_
  rw [(story_same stories q.key).1]

/-- The decision as seen from a state with the same stories but for locks, and the same transfer and out queue. -/
theorem PageDecided.of_before {v : State} {x : PlanState} (h : PageDecided slot { p with state := x } v t)
    (stories : v.store.stories.map Story.unlocked = s.store.stories.map Story.unlocked)
    (transfer : v.page.transfer = s.page.transfer) (traffic : v.traffic = s.traffic)
    (role : v.typesetRole = s.typesetRole)
    (released : unlockAll (p.placements.map (·.key)) v.store.stories =
      unlockAll (p.placements.map (·.key)) s.store.stories) :
    PageDecided slot p s t := by
  have fine (sound : ∀ q ∈ p.placements, ∀ r, s.story q.key = some r → r.damaged = false) :
      ∀ q ∈ p.placements, ∀ r, v.story q.key = some r → r.damaged = false := by
    intro q mem r there
    obtain ⟨r', there', same⟩ := (story_same stories.symm q.key).2 r there
    have damaged : r'.damaged = r.damaged := unlocked_damaged same
    rw [← damaged]
    exact sound q mem r' there'
  have checks := State.checked_congr stories p.placements
  exact {
    damaged := fun ⟨q, mem, r, there, bad⟩ => by
      obtain ⟨r', there', same⟩ := (story_same stories q.key).2 r there
      have damaged : r'.damaged = r.damaged := unlocked_damaged same
      exact h.damaged ⟨q, mem, r', there', by rw [damaged]; exact bad⟩
    overset := fun sound stops some_ => by
      have decided := h.overset (fine sound) stops (by rw [checks]; exact some_)
      rw [checks] at decided
      exact decided
    ended := fun ended => by
      obtain ⟨order, notice, same, queue, locks⟩ := h.ended (by rw [checks]; exact ended)
      exact ⟨order, notice, same.trans transfer, queue.trans traffic, locks.trans released⟩
    sends := fun sound free => by
      obtain ⟨plan, order, direct, waits⟩ := h.sends (fine sound) (by rw [checks]; exact free)
      rw [transfer, traffic, role] at direct
      rw [transfer, traffic, role] at waits
      rw [checks] at plan
      exact ⟨plan, order, direct, waits⟩ }

/-- What leaves the page engine, the stories and the out queue keeps the decision. -/
theorem PageDecided.settled {u : State} (h : PageDecided slot p s t) (k : PageStands t u) : PageDecided slot p s u := by
  have plan : u.plan slot = t.plan slot := by unfold State.plan; rw [k.page]
  exact {
    damaged := fun bad => plan.trans (h.damaged bad)
    overset := fun sound stops some_ => plan.trans (h.overset sound stops some_)
    ended := fun ended => by
      rw [plan] at ended
      obtain ⟨order, notice, same, queue, locks⟩ := h.ended ended
      exact ⟨by rw [k.page, order], k.notices _ notice, by rw [k.page, same], k.traffic.trans queue,
        by rw [k.store]; exact locks⟩
    sends := fun sound free => by
      obtain ⟨sends, order, direct, waits⟩ := h.sends sound free
      rw [plan, k.page, k.traffic]
      exact ⟨sends, order, direct, waits⟩ }

end FitCheck

end Sys2Proof.Machine


namespace Sys2Proof.Machine

open Sys2Proof

/-! ## The walk over the placements to fit (R126) -/

section Walk

variable {slot : Nat} {p : Plan}

/-- The placements that a request list names, in its order. -/
def Plan.named (p : Plan) (l : List Nat) : List Placement := l.filterMap fun i => p.placements[i]?

/-- The request of the page engine for a placement. -/
def Placement.request (q : Placement) : FitRequest := { key := q.key, setting := q.setting, host := false, page := true }

/-- The requests of `need` have been made while there was room, from `s` to `t`. -/
structure Walked (p : Plan) (need : List Nat) (s t : State) : Prop where
  fit : t.fit =
    { s.fit with
        queue := s.fit.queue ++ ((p.named need).take (4 - s.fit.queue.length)).map Placement.request,
        waiting := ((p.named need)[4 - s.fit.queue.length]?).map fun q => (q.key, q.setting),
        run := t.fit.run }
  page : t.page =
    { s.page with
        requests := need.drop (5 - s.fit.queue.length),
        outstanding := s.page.outstanding ++ need.take (5 - s.fit.queue.length) }
  others : t = { s with fit := t.fit, page := t.page, port := t.port }
  runs : t.fit.run ≠ none

/-- A request list that the fit queue can take: every number names a placement, none has an identical request, and
no two have the same key. -/
structure Requestable (p : Plan) (need : List Nat) (e : FitEngine) : Prop where
  placed : ∀ i ∈ need, ∃ q, p.placements[i]? = some q
  fresh : ∀ q ∈ p.named need, e.hasSame q.key q.setting = false
  distinct : ((p.named need).map (·.key)).Nodup

theorem Plan.named_cons {i : Nat} {q : Placement} (placed : p.placements[i]? = some q) (rest : List Nat) :
    p.named (i :: rest) = q :: p.named rest := by simp [Plan.named, placed]

theorem FitEngine.pageRequest_room {k : Key} {t : Setting} {e : FitEngine} (fresh : e.hasSame k t = false)
    (room : e.queue.length < 4) : e.pageRequest k t = e.add k t false true := by
  simp [FitEngine.pageRequest, fresh, room]

theorem FitEngine.pageRequest_full {k : Key} {t : Setting} {e : FitEngine} (fresh : e.hasSame k t = false)
    (full : ¬e.queue.length < 4) : e.pageRequest k t = { e with waiting := some (k, t) } := by
  simp [FitEngine.pageRequest, fresh, full]

/-- After a request of the first placement the others can be requested still. -/
theorem Requestable.tail {i : Nat} {rest : List Nat} {e : FitEngine} {q : Placement}
    (h : Requestable p (i :: rest) e) (placed : p.placements[i]? = some q) :
    Requestable p rest (e.add q.key q.setting false true) := by
  have fresh := h.fresh
  have distinct := h.distinct
  rw [Plan.named_cons placed] at fresh distinct
  obtain ⟨other, distinct'⟩ := List.nodup_cons.mp distinct
  refine ⟨fun j mem => h.placed j (List.mem_cons_of_mem i mem), fun x mem => ?_, distinct'⟩
  have old := fresh x (List.mem_cons_of_mem q mem)
  have differs : q.key ≠ x.key := fun same => other (List.mem_map.mpr ⟨x, mem, same.symm⟩)
  rw [← Bool.not_eq_true, FitEngine.hasSame_iff] at old ⊢
  rintro ⟨y, there, same⟩
  rcases List.mem_append.mp there with there | there
  · exact old ⟨y, there, same⟩
  · cases List.mem_singleton.mp there
    exact differs same.1

/-- A request joins a queue with room and no identical one. -/
theorem Requestable.head_add {i : Nat} {rest : List Nat} {e : FitEngine} {q : Placement}
    (h : Requestable p (i :: rest) e) (placed : p.placements[i]? = some q) : e.hasSame q.key q.setting = false :=
  h.fresh q (by rw [Plan.named_cons placed]; exact List.mem_cons_self)

theorem State.headPlan_congr_plans {s t : State} (head : s.headPlan = some (slot, p))
    (plans : t.page.plans = s.page.plans) (order : t.page.sendOrder = s.page.sendOrder) :
    t.headPlan = some (slot, p) := by
  rw [← head]
  unfold State.headPlan State.plan
  rw [plans, order]

/-- A run begins for a story that stands: it reads, is held, or has nothing to read. -/
theorem State.beginRun_runs {s : State} {q : FitRequest} (stands : s.story q.key ≠ none) :
    ∃ (run : Run) (port : Port), s.beginRun q = { s with fit := { s.fit with run := some run }, port := port } := by
  obtain ⟨r, there⟩ := Option.ne_none_iff_exists'.mp stands
  unfold State.beginRun
  simp only [there]
  repeat' split
  all_goals exact ⟨_, _, rfl⟩

section Steps

variable {s : State} (fitting : p.state = .fitting)

include fitting

/-- With a run in flight or held the requests join one by one. -/
theorem State.walk_requests (need : List Nat) (s : State) (head : s.headPlan = some (slot, p))
    (requests : s.page.requests = need) (free : s.fit.waiting = none) (runs : s.fit.run ≠ none)
    (few : s.fit.queue.length ≤ 4) (can : Requestable p need s.fit) (some_ : s.page.outstanding ++ need ≠ []) :
    ∃ n t, n ≤ 5 - s.fit.queue.length ∧ s.fitSteps n = some t ∧ t.fitStep = none ∧ Walked p need s t := by
  induction need generalizing s with
  | nil =>
    have idle : s.fitStep = none := by
      rw [State.fitStep_page fun none_ => absurd none_ runs]
      exact State.pageStep_outstanding head fitting requests (by simpa using some_)
    refine ⟨0, s, Nat.zero_le _, rfl, idle, ?_, ?_, rfl, runs⟩
    · have still : ∀ e : FitEngine, e.waiting = none → e = { e with queue := e.queue ++ [], waiting := none } := by
        rintro ⟨⟩ rfl
        simp
      simpa [Plan.named] using still s.fit free
    · have still : ∀ e : PageEngine, e.requests = [] → e = { e with requests := [], outstanding := e.outstanding ++ [] } := by
        rintro ⟨⟩ rfl
        simp
      simpa using still s.page requests
  | cons i rest ih =>
    obtain ⟨q, placed⟩ := can.placed i List.mem_cons_self
    have fresh := can.head_add placed
    have step := (State.fitStep_page fun none_ => absurd none_ runs).trans
      (State.pageStep_requests head fitting requests free placed)
    by_cases room : s.fit.queue.length < 4
    · have added : (s.onFit (FitEngine.pageRequest q.key q.setting)) =
          s.onFit fun e => e.add q.key q.setting false true := by
        rw [State.onFit, FitEngine.pageRequest_room fresh room]
        rfl
      rw [added] at step
      have length : (s.fit.add q.key q.setting false true).queue.length = s.fit.queue.length + 1 := by
        simp [FitEngine.add]
      obtain ⟨n, t, few', steps, idle, fit, page, others, runs'⟩ := ih
        ((s.onFit fun e => e.add q.key q.setting false true).onPage fun e =>
          { e with requests := rest, outstanding := e.outstanding ++ [i] })
        (State.headPlan_congr_plans head rfl rfl) rfl free runs (by show (s.fit.add q.key q.setting false true).queue.length ≤ 4; omega) (can.tail placed)
        (by show (s.page.outstanding ++ [i]) ++ rest ≠ []; simp)
      have left : 4 - s.fit.queue.length = (4 - (s.fit.queue.length + 1)) + 1 := by omega
      have left' : 5 - s.fit.queue.length = (5 - (s.fit.queue.length + 1)) + 1 := by omega
      simp only [State.onPage_fit, State.onFit_fit, length] at few' fit page
      refine ⟨n + 1, t, by omega, ?_, idle, ?_, ?_, ?_, runs'⟩
      · rw [State.fitSteps, step, Option.bind_some]
        exact steps
      · rw [fit, Plan.named_cons placed, left]
        simp [FitEngine.add, Placement.request]
      · rw [page, left']
        simp [State.onPage, State.onFit]
      · rw [others]
        rfl
    · have full : s.fit.queue.length = 4 := by omega
      have held : (s.onFit (FitEngine.pageRequest q.key q.setting)) =
          s.onFit fun e => { e with waiting := some (q.key, q.setting) } := by
        rw [State.onFit, FitEngine.pageRequest_full fresh room]
        rfl
      rw [held] at step
      generalize after : ((s.onFit fun e => { e with waiting := some (q.key, q.setting) }).onPage fun e =>
        { e with requests := rest, outstanding := e.outstanding ++ [i] }) = t at step
      have fit : t.fit = { s.fit with waiting := some (q.key, q.setting) } := by rw [← after]; rfl
      have page : t.page = { s.page with requests := rest, outstanding := s.page.outstanding ++ [i] } := by
        rw [← after]; rfl
      have others : t = { s with fit := t.fit, page := t.page, port := t.port } := by rw [← after]; rfl
      have idle : t.fitStep = none := by
        have head' : t.headPlan = some (slot, p) := State.headPlan_congr_plans head (by rw [page]) (by rw [page])
        rw [State.fitStep_page fun none_ => absurd (by rw [fit] at none_; exact none_) runs]
        cases more : rest with
        | nil => exact State.pageStep_outstanding head' fitting (by rw [page, more]) (by rw [page]; simp)
        | cons j others' =>
          exact State.pageStep_waits head' fitting (i := j) (rest := others') (by rw [page, more]) (by rw [fit]; nofun)
      refine ⟨1, t, by omega, by rw [State.fitSteps, step]; rfl, idle, ?_, ?_, others, ?_⟩
      · rw [fit, full, Plan.named_cons placed]
        simp
      · rw [page, full]
        simp
      · rw [fit]
        exact runs

/-- The requests of a FITTING head plan join, and the fit queue runs. -/
theorem State.walk_settles {need : List Nat} {s : State} (head : s.headPlan = some (slot, p))
    (requests : s.page.requests = need) (some_ : need ≠ []) (free : s.fit.waiting = none) (noRun : s.noRunToBegin)
    (few : s.fit.queue.length ≤ 4) (can : Requestable p need s.fit)
    (stand : ∀ q ∈ p.placements, s.story q.key ≠ none) :
    ∃ n t, n ≤ 6 ∧ s.fitSteps n = some t ∧ t.fitStep = none ∧ Walked p need s t := by
  by_cases runs : s.fit.run = none
  · have empty := noRun runs
    obtain ⟨i, rest, rfl⟩ := List.exists_cons_of_ne_nil some_
    obtain ⟨q, placed⟩ := can.placed i List.mem_cons_self
    have step := (State.fitStep_page noRun).trans (State.pageStep_requests head fitting requests free placed)
    have added : (s.onFit (FitEngine.pageRequest q.key q.setting)) = s.onFit fun e => e.add q.key q.setting false true := by
      rw [State.onFit, FitEngine.pageRequest_room (can.head_add placed) (by rw [empty]; decide)]
      rfl
    rw [added] at step
    generalize after : ((s.onFit fun e => e.add q.key q.setting false true).onPage fun e =>
      { e with requests := rest, outstanding := e.outstanding ++ [i] }) = u at step
    have fitU : u.fit = { s.fit with queue := [q.request] } := by
      rw [← after]
      simp [FitEngine.add, empty, Placement.request]
    have pageU : u.page = { s.page with requests := rest, outstanding := s.page.outstanding ++ [i] } := by
      rw [← after]; rfl
    have othersU : u = { s with fit := u.fit, page := u.page } := by rw [← after]; rfl
    have storyU : u.story q.key ≠ none := by
      rw [othersU]
      exact stand q (List.mem_of_getElem? placed)
    have begins := State.fitStep_begins (s := u) (q := q.request) (l := []) (by rw [fitU]; exact runs) (by rw [fitU])
    obtain ⟨run, port, begun⟩ := State.beginRun_runs (q := q.request) storyU
    rw [begun] at begins
    have tail := can.tail placed
    have queued : s.fit.add q.key q.setting false true = { s.fit with queue := [q.request] } := by
      simp [FitEngine.add, empty, Placement.request]
    rw [queued] at tail
    obtain ⟨n, t, few', steps, idle, fit, page, others, runs'⟩ := State.walk_requests fitting rest
      { u with fit := { u.fit with run := some run }, port := port }
      (State.headPlan_congr_plans head (by show u.page.plans = _; rw [pageU]) (by show u.page.sendOrder = _; rw [pageU]))
      (by show u.page.requests = _; rw [pageU]) (by show u.fit.waiting = _; rw [fitU]; exact free) nofun
      (by show u.fit.queue.length ≤ 4; rw [fitU]; simp)
      ⟨tail.placed, fun x mem => by
        have old := tail.fresh x mem
        rw [← Bool.not_eq_true, FitEngine.hasSame_iff] at old ⊢
        show ¬∃ y ∈ u.fit.queue, _
        rw [fitU]
        exact old, tail.distinct⟩
      (by show u.page.outstanding ++ rest ≠ []; rw [pageU]; simp)
    have lengthU : ({ u with fit := { u.fit with run := some run }, port := port } : State).fit.queue.length = 1 := by
      show u.fit.queue.length = 1
      rw [fitU]; rfl
    rw [lengthU] at few' fit page
    refine ⟨n + 2, t, by omega, ?_, idle, ?_, ?_, ?_, runs'⟩
    · rw [State.fitSteps, step, Option.bind_some, State.fitSteps, begins, Option.bind_some]
      exact steps
    · rw [fit, empty, Plan.named_cons placed]
      simp only [fitU, List.length_nil]
      simp
    · rw [page, empty]
      simp only [pageU, List.length_nil]
      simp
    · exact others.trans (by rw [← after]; rfl)
  · obtain ⟨n, t, few', steps, idle, walked⟩ := State.walk_requests fitting need s head requests free runs few can
      (by simp [some_])
    exact ⟨n, t, by omega, steps, idle, walked⟩

end Steps

/-- What the page engine and the fit queue hold after the walk. -/
theorem Walked.pageWalked {need : List Nat} {s t : State} (h : Walked p need s t) (plan : s.plan slot = some p)
    (fitting : p.state = .fitting) (alone : s.page.sendOrder = [slot]) (none_ : s.page.outstanding = []) :
    PageWalked slot p need s.fit.queue t where
  plan := by
    unfold State.plan
    rw [h.page]
    have same : ({ p with state := .fitting } : Plan) = p := by rw [← fitting]
    rw [same]
    exact plan
  order := by rw [h.page]; exact alone
  outstanding := by rw [h.page]; simp [none_]
  requests := by rw [h.page]
  joined := by rw [h.fit]; rfl
  waits := by rw [h.fit]; rfl
  runs := h.runs

end Walk

end Sys2Proof.Machine


namespace Sys2Proof.Machine

open Sys2Proof

/-! ## Stale counts (R127, R128) -/

section Stale

variable {slot i : Nat} {p : Plan} {s : State}

/-- A plan with the stale counts of the placements in `l` one up. -/
def Plan.counted (p : Plan) (l : List Nat) : Plan :=
  { p with placements := p.placements.mapIdx fun j y => if j ∈ l then { y with stale := y.stale + 1 } else y }

theorem Plan.counted_nil (p : Plan) : p.counted [] = p := by
  have same : (p.placements.mapIdx fun _ y => y) = p.placements := by
    refine List.ext_getElem? fun j => ?_
    simp [List.getElem?_mapIdx]
  simp only [Plan.counted, List.not_mem_nil, if_false, same]

theorem Plan.onPlacement_other {j k : Nat} (f : Placement → Placement) (differs : j ≠ k) (p : Plan) :
    (p.onPlacement j f).placements[k]? = p.placements[k]? := by
  simp [Plan.onPlacement, differs]

theorem Plan.counted_get (p : Plan) (l : List Nat) (j : Nat) :
    (p.counted l).placements[j]? =
      (p.placements[j]?).map fun y => if j ∈ l then { y with stale := y.stale + 1 } else y := by
  simp [Plan.counted, List.getElem?_mapIdx]

theorem Plan.counted_keys (p : Plan) (l : List Nat) :
    (p.counted l).placements.map (·.key) = p.placements.map (·.key) := by
  refine List.ext_getElem? fun j => ?_
  rw [List.getElem?_map, List.getElem?_map, Plan.counted_get]
  cases p.placements[j]? with
  | none => rfl
  | some y =>
    rw [Option.map_some]
    split <;> rfl

/-- One more placement counted. -/
theorem Plan.counted_cons {j : Nat} {l : List Nat} (other : j ∉ l) (p : Plan) :
    (p.onPlacement j fun q => { q with stale := q.stale + 1 }).counted l = p.counted (j :: l) := by
  have same (n : Nat) : ((p.onPlacement j fun q => { q with stale := q.stale + 1 }).counted l).placements[n]? =
      (p.counted (j :: l)).placements[n]? := by
    rw [Plan.counted_get, Plan.counted_get]
    simp only [Plan.onPlacement, List.getElem?_modify, List.mem_cons]
    cases p.placements[n]? with
    | none => simp
    | some y =>
      by_cases here : j = n
      · subst here
        simp [other]
      · simp [here, Ne.symm here]
  have placements := List.ext_getElem? same
  show ({ p with placements := _ } : Plan) = { p with placements := _ }
  exact congrArg (fun l => { p with placements := l }) placements

/-- A stale fit of a placement whose count is below 3 is requested again. -/
theorem State.placementStale_again {y : Placement} (stands : s.plan slot = some p) (placed : p.placements[i]? = some y)
    (few : y.stale < 3) :
    s.placementStale slot i =
      (s.onPlan slot (Plan.onPlacement i fun q => { q with stale := q.stale + 1 })).onPage fun e =>
        { e with requests := e.requests ++ [i], outstanding := e.outstanding.filter (· ≠ i) } := by
  unfold State.placementStale
  simp only [stands, Option.bind_some, placed]
  exact if_pos few

/-- At 3 the plan ends. -/
theorem State.placementStale_ends {y : Placement} (stands : s.plan slot = some p) (placed : p.placements[i]? = some y)
    (many : 3 ≤ y.stale) : s.placementStale slot i = s.endPlan slot (.failed .fitUnsettled) := by
  unfold State.placementStale
  simp only [stands, Option.bind_some, placed]
  exact if_neg (by omega)

/-- What counting the losses of the placements in `l` leaves. -/
structure Recounted (slot : Nat) (p : Plan) (l : List Nat) (s t : State) : Prop where
  plan : t.plan slot = some (p.counted l)
  requests : t.page.requests = s.page.requests ++ l
  outstanding : s.page.outstanding = [] → t.page.outstanding = []
  order : t.page.sendOrder = s.page.sendOrder
  transfer : t.page.transfer = s.page.transfer
  others : t = { s with page := t.page }

theorem State.losses_recounted (l : List Nat) (distinct : l.Nodup) (s : State) (p : Plan) (stands : s.plan slot = some p)
    (fitting : p.state = .fitting) (few : ∀ j ∈ l, ∃ y, p.placements[j]? = some y ∧ y.stale < 3) :
    Recounted slot p l s
      (l.foldl (fun s i => if (s.plan slot).any fun p => decide (p.state = .fitting) then s.placementStale slot i else s)
        s) := by
  induction l generalizing s p with
  | nil =>
    exact {
      plan := by rw [Plan.counted_nil]; exact stands
      requests := (List.append_nil _).symm
      outstanding := id
      order := rfl
      transfer := rfl
      others := rfl }
  | cons j l ih =>
    obtain ⟨other, distinct'⟩ := List.nodup_cons.mp distinct
    obtain ⟨y, placed, low⟩ := few j List.mem_cons_self
    rw [List.foldl_cons, if_pos (by simp [stands, fitting]), State.placementStale_again stands placed low]
    have changed : ((s.onPlan slot (Plan.onPlacement j fun q => { q with stale := q.stale + 1 })).onPage fun e =>
        { e with requests := e.requests ++ [j], outstanding := e.outstanding.filter (· ≠ j) }).plan slot =
          some (p.onPlacement j fun q => { q with stale := q.stale + 1 }) := by
      have := State.onPlan_plan (s := s) (slot := slot) (f := Plan.onPlacement j fun q => { q with stale := q.stale + 1 })
      rw [stands] at this
      exact this
    have rest := ih distinct' _ _ changed fitting fun k mem => by
      obtain ⟨z, there, below⟩ := few k (List.mem_cons_of_mem j mem)
      have differs : j ≠ k := fun same => other (same ▸ mem)
      exact ⟨z, (Plan.onPlacement_other _ differs p).trans there, below⟩
    exact {
      plan := rest.plan.trans (congrArg some (Plan.counted_cons other p))
      requests := by rw [rest.requests]; simp [State.onPage, State.onPlan]
      outstanding := fun none_ => rest.outstanding (by simp [State.onPage, State.onPlan, none_])
      order := rest.order
      transfer := rest.transfer
      others := rest.others }

/-- Once the plan has ended no more losses are counted. -/
theorem losses_ended (l : List Nat) (ended : s.plan slot = some p) (state : p.state ≠ .fitting) :
    (l.foldl (fun s i => if (s.plan slot).any fun p => decide (p.state = .fitting) then s.placementStale slot i else s)
      s) = s := by
  induction l with
  | nil => rfl
  | cons j l ih => rw [List.foldl_cons, if_neg (by simp [ended, state]), ih]

/-- A loss at a count of 3 ends the plan, whatever the others count. -/
theorem State.losses_unsettled (l : List Nat) (distinct : l.Nodup) (s : State) (p : Plan) (stands : s.plan slot = some p)
    (fitting : p.state = .fitting) (alone : s.page.sendOrder = [slot])
    (placed : ∀ j ∈ l, ∃ y, p.placements[j]? = some y)
    (many : ∃ j ∈ l, ∃ y, p.placements[j]? = some y ∧ 3 ≤ y.stale) :
    ∃ (m : List Placement) (x : State),
      PlanFailed slot { p with placements := m } (.failed .fitUnsettled) x
        (l.foldl (fun s i => if (s.plan slot).any fun p => decide (p.state = .fitting) then s.placementStale slot i else s)
          s) := by
  induction l generalizing s p with
  | nil =>
    obtain ⟨_, mem, _⟩ := many
    cases mem
  | cons j l ih =>
    obtain ⟨other, distinct'⟩ := List.nodup_cons.mp distinct
    obtain ⟨y, there⟩ := placed j List.mem_cons_self
    rw [List.foldl_cons, if_pos (by simp [stands, fitting])]
    by_cases low : y.stale < 3
    · rw [State.placementStale_again stands there low]
      have changed : ((s.onPlan slot (Plan.onPlacement j fun q => { q with stale := q.stale + 1 })).onPage fun e =>
          { e with requests := e.requests ++ [j], outstanding := e.outstanding.filter (· ≠ j) }).plan slot =
            some (p.onPlacement j fun q => { q with stale := q.stale + 1 }) := by
        have := State.onPlan_plan (s := s) (slot := slot) (f := Plan.onPlacement j fun q => { q with stale := q.stale + 1 })
        rw [stands] at this
        exact this
      have kept {k : Nat} (mem : k ∈ l) : (p.onPlacement j fun q => { q with stale := q.stale + 1 }).placements[k]? =
          p.placements[k]? := Plan.onPlacement_other _ (fun same : j = k => other (same ▸ mem)) p
      obtain ⟨k, mem, z, at_k, more⟩ := many
      have later : k ∈ l := by
        rcases List.mem_cons.mp mem with rfl | later
        · rw [there] at at_k
          cases at_k
          omega
        · exact later
      obtain ⟨m, x, failed⟩ := ih distinct' _ (p.onPlacement j fun q => { q with stale := q.stale + 1 }) changed fitting
        alone (fun k mem => by rw [kept mem]; exact placed k (List.mem_cons_of_mem j mem))
        ⟨k, later, z, (kept later).trans at_k, more⟩
      exact ⟨m, x, failed⟩
    · rw [State.placementStale_ends stands there (by omega)]
      have failed := State.endPlan_fails (o := .failed .fitUnsettled) rfl stands fitting alone
      rw [losses_ended l failed.plan nofun]
      exact ⟨p.placements, s, failed⟩

end Stale

end Sys2Proof.Machine


namespace Sys2Proof.Machine

open Sys2Proof

/-! ## A run goes on block by block (R104, R111) -/

section FitRead

theorem FitReading.feed_kept (codes : List Byte) (o : Nat) (r : FitReading) :
    (FitReading.feed o codes r).table = r.table ∧ (FitReading.feed o codes r).length = r.length ∧
      (FitReading.feed o codes r).block = r.block := by
  induction codes generalizing o r with
  | nil => exact ⟨rfl, rfl, rfl⟩
  | cons c rest ih =>
    rw [FitReading.feed]
    split
    · exact ⟨rfl, rfl, rfl⟩
    · exact ih (o + 1) (r.step c o)

variable {s : State} {a : Access} {upsets : List Upset}

theorem exec_fitRead {r : FitReading} {q : FitRequest} {l : List FitRequest} (busy : s.port.busy = some a)
    (purpose : a.purpose = .fitRead) (mine : a.aside = false) (run : s.fit.run = some (.reading r))
    (queue : s.fit.queue = q :: l) (op : s.desk.op ≠ .restarting) :
    exec (.fitReadCompletion upsets) s =
      .next ((s.endRead a upsets).1.fitDelivered q.setting q.key r (s.endRead a upsets).2.codes) := by
  have serving : s.serving Purpose.isFit = some a := by simp [State.serving, busy, purpose, Purpose.isFit]
  have served := State.endRead_servedOn (a := a) (upsets := upsets) op
  show Host.Outcome.next (s.fitReadCompleted upsets) = _
  unfold State.fitReadCompleted
  rw [serving]
  simp only [mine, Bool.false_eq_true, if_false, served.fit, run, queue]

end FitRead

/-! ## A run's end at the store's answer (R106, R127) -/

section Answer

variable {s : State} {q : FitRequest} {g : FitRecord} {b : Nat} {since text : Bool}

theorem exec_storeFitRecord {l : List FitRequest} (run : s.fit.run = some (.storing g b since text))
    (queue : s.fit.queue = q :: l) :
    exec .storeFitRecord s =
      .next (((s.storeRecord q.key g since text).1.endRun (s.storeRecord q.key g since text).2).settleFits) := by
  show Host.Outcome.next s.fitStored = _
  unfold State.fitStored
  rw [run, queue]

theorem State.storeRecord_none {k : Key} (absent : s.story k = none) :
    s.storeRecord k g since text = (s, .noStory) := by
  simp only [State.storeRecord, absent]

theorem State.storeRecord_some {k : Key} {r : Story} (stands : s.story k = some r) :
    s.storeRecord k g since text =
      if r.inEdit = true ∨ text = true then (s, .stale)
      else if since then (s.onStore (Store.change k fun r => { r with fit := none }), .stale)
      else (s.onStore (Store.change k fun r => { r with fit := some g }), .done) := by
  simp only [State.storeRecord, stands, Bool.or_eq_true]

/-- The store's answer changes fit records alone. -/
theorem State.storeRecord_rest (k : Key) : ∃ st, (s.storeRecord k g since text).1 = { s with store := st } := by
  unfold State.storeRecord
  repeat' split
  all_goals exact ⟨_, rfl⟩

end Answer

/-- A change of a record leaves every other in its place. -/
theorem Store.stands_change {f : Story → Story} (key : ∀ r, (f r).key = r.key) (k k' : Key) (st : Store) :
    (Store.change k f st).story k' ≠ none ↔ st.story k' ≠ none := by
  have keys : (Store.change k f st).stories.map (·.key) = st.stories.map (·.key) := by
    rw [Store.change, List.map_map]
    refine List.map_congr_left fun r _ => ?_
    show (if r.key = k then f r else r).key = r.key
    split
    · exact key r
    · rfl
  have found (st : Store) : st.story k' ≠ none ↔ k' ∈ st.stories.map (·.key) := by
    simp [Store.story]
  rw [found, found, keys]

/-! ## The head plan told (R127, R128) -/

section Plan

variable {s : State} {slot i : Nat} {p : Plan} {k : Key} {w : Setting} {x : Placement}

theorem State.headPlan_alone (alone : s.page.sendOrder = [slot]) (plan : s.plan slot = some p) :
    s.headPlan = some (slot, p) := by
  unfold State.headPlan
  rw [alone]
  simp only [plan, Option.map_some]

/-- A request list of placements without an identical request, none of them twice. -/
theorem requestable_empty {e : FitEngine} {need : List Nat} (empty : e.queue = [])
    (placed : ∀ j ∈ need, ∃ q, p.placements[j]? = some q) (distinct : ((p.named need).map (·.key)).Nodup) :
    Requestable p need e :=
  ⟨placed, fun q _ => by simp [FitEngine.hasSame, empty], distinct⟩

theorem mem_needing {l : List Placement} {j : Nat} (mem : j ∈ s.needing l) : ∃ q, l[j]? = some q := by
  have low := List.mem_range.mp (List.mem_of_mem_filter mem)
  exact ⟨_, List.getElem?_eq_getElem low⟩

theorem filterMap_getElem? {α : Type} (l : List α) : (List.range l.length).filterMap (fun i => l[i]?) = l := by
  induction l with
  | nil => rfl
  | cons a l ih =>
    rw [List.length_cons, List.range_succ_eq_map, List.filterMap_cons, List.getElem?_cons_zero, List.filterMap_map]
    exact congrArg (a :: ·) ih

/-- Placements that a list of numbers in plan order names have distinct keys where those of the plan have. -/
theorem named_distinct {l : List Nat} (some_ : l.Sublist (List.range p.placements.length))
    (distinct : (p.placements.map (·.key)).Nodup) : ((p.named l).map (·.key)).Nodup := by
  have sub : (p.named l).Sublist p.placements := by
    conv_rhs => rw [← filterMap_getElem? p.placements]
    exact List.Sublist.filterMap _ some_
  exact List.Nodup.sublist (sub.map _) distinct

theorem needing_sublist (l : List Placement) : (s.needing l).Sublist (List.range l.length) := List.filter_sublist

theorem State.needing_congr {v : State} (stories : v.store.stories.map Story.unlocked = s.store.stories.map Story.unlocked)
    (l : List Placement) : v.needing l = s.needing l := by
  have fitted (q : Placement) : ((v.story q.key).any fun r => r.fit.any fun f => decide (f.setting = q.setting)) =
      (s.story q.key).any fun r => r.fit.any fun f => decide (f.setting = q.setting) := by
    have same := (story_same stories q.key).1
    have (o : Option Story) : (o.any fun r => r.fit.any fun f => decide (f.setting = q.setting)) =
        (o.bind (·.fit)).any fun f => decide (f.setting = q.setting) := by cases o <;> rfl
    rw [this, this, same]
  unfold State.needing
  simp only [fitted]

/-- The requests of a plan whose stale fits were just counted. -/
theorem requestable_counted {e : FitEngine} {need : List Nat} (empty : e.queue = [])
    (some_ : need.Sublist (List.range p.placements.length)) (distinct : (p.placements.map (·.key)).Nodup) :
    Requestable (p.counted need) need e := by
  have length : (p.counted need).placements.length = p.placements.length := by simp [Plan.counted]
  refine requestable_empty empty (fun j mem => ?_) (named_distinct (by rw [length]; exact some_)
    (by rw [Plan.counted_keys]; exact distinct))
  have low : j < (p.counted need).placements.length := by
    rw [length]
    exact List.mem_range.mp (some_.subset mem)
  exact ⟨_, List.getElem?_eq_getElem low⟩

/-- The outcome of the one outstanding fit reaches the head plan. -/
theorem State.tellPage_head {o : FitOutcome} (head : s.headPlan = some (slot, p)) (fitting : p.state = .fitting)
    (one : s.page.outstanding = [i]) (placed : p.placements[i]? = some x) (key : x.key = k) (setting : x.setting = w) :
    s.tellPage k w o = if o = .done then s.onPage fun e => { e with outstanding := e.outstanding.filter (· ≠ i) }
      else s.placementStale slot i := by
  unfold State.tellPage
  rw [head]
  dsimp only
  rw [if_pos fitting, one]
  simp [placed, key, setting]

/-- The walk of the requests again, from an empty fit queue, after losses were counted. -/
theorem State.recounted_walks {need : List Nat} {t : State} (counted : Recounted slot p need s t)
    (requests : s.page.requests = []) (none_ : s.page.outstanding = []) (alone : s.page.sendOrder = [slot])
    (fitting : p.state = .fitting) (free : s.fit.waiting = none) (empty : s.fit.queue = []) (some_ : need ≠ [])
    (sub : need.Sublist (List.range p.placements.length)) (distinct : (p.placements.map (·.key)).Nodup)
    (stand : ∀ y ∈ p.placements, s.story y.key ≠ none) :
    ∃ n u, n ≤ 6 ∧ t.fitSteps n = some u ∧ u.fitStep = none ∧ PageWalked slot (p.counted need) need [] u := by
  have fit : t.fit = s.fit := by rw [counted.others]
  have story (k : Key) : t.story k = s.story k := by rw [counted.others]; rfl
  have order : t.page.sendOrder = [slot] := counted.order.trans alone
  have head := State.headPlan_alone order counted.plan
  obtain ⟨n, u, few, steps, idle, walked⟩ := State.walk_settles (p := p.counted need) fitting (s := t) head
    (by rw [counted.requests, requests]; rfl) some_ (by rw [fit]; exact free) (fun _ => by rw [fit]; exact empty)
    (by rw [fit, empty]; decide) (requestable_counted (by rw [fit]; exact empty) sub distinct)
    (fun q mem => by
      have : q.key ∈ (p.counted need).placements.map (·.key) := List.mem_map_of_mem mem
      rw [Plan.counted_keys] at this
      obtain ⟨y, there, same⟩ := List.mem_map.mp this
      rw [story, ← same]
      exact stand y there)
  have done := walked.pageWalked counted.plan fitting order (counted.outstanding none_)
  rw [fit, empty] at done
  exact ⟨n, u, few, steps, idle, done⟩

end Plan

/-! ## The answer for a FITTING head plan (R127 to R129) -/

section Fitting

variable {s : State} {slot i : Nat} {p : Plan} {x : Placement}

theorem PlanFailed.unsettled {t : State} {l : List Placement}
    (h : PlanFailed slot { p with placements := l } (.failed .fitUnsettled) s t) : fitUnsettled slot p t :=
  ⟨⟨l, h.plan⟩, h.order, h.requests, h.outstanding, h.notice⟩

/-- A stale fit of the one placement outstanding. -/
theorem State.staleFit_settles (plan : s.plan slot = some p) (fitting : p.state = .fitting)
    (alone : s.page.sendOrder = [slot]) (requests : s.page.requests = []) (one : s.page.outstanding = [i])
    (placed : p.placements[i]? = some x) (free : s.fit.waiting = none) (empty : s.fit.queue = [])
    (distinct : (p.placements.map (·.key)).Nodup) (stand : ∀ y ∈ p.placements, s.story y.key ≠ none) :
    (x.stale < 3 → PageWalked slot (p.counted [i]) [i] [] (s.placementStale slot i).settleFits) ∧
    (3 ≤ x.stale → fitUnsettled slot p (s.placementStale slot i).settleFits) := by
  refine ⟨fun few => ?_, fun many => ?_⟩
  · have low : i < p.placements.length := (List.getElem?_eq_some_iff.mp placed).1
    have again := State.placementStale_again plan placed few
    have counted : Recounted slot p [i] (s.onPage fun e => { e with outstanding := [] }) (s.placementStale slot i) := by
      rw [again]
      exact {
        plan := by
          have changed := State.onPlan_plan (s := s) (slot := slot)
            (f := Plan.onPlacement i fun q => { q with stale := q.stale + 1 })
          rw [plan, Option.map_some, ← Plan.counted_nil (p.onPlacement i _), Plan.counted_cons (by simp) p] at changed
          exact changed
        requests := rfl
        outstanding := fun _ => by simp [State.onPage, State.onPlan, one]
        order := rfl
        transfer := rfl
        others := rfl }
    obtain ⟨n, u, few', steps, idle, walked⟩ := State.recounted_walks counted requests rfl alone fitting free empty
      (by simp) (by simpa using low) distinct stand
    rw [State.settleFits_steps steps (by omega) idle]
    exact walked
  · rw [State.placementStale_ends plan placed many]
    have failed := State.endPlan_fails (o := .failed .fitUnsettled) rfl plan fitting alone
    exact PlanFailed.unsettled (s := s) (l := p.placements) (failed.settled (PageStands.settleFits failed.order))

/-- The fit check of the head plan with every placement fitted decides it, and nothing more follows. -/
theorem State.fitCheck_decided (plan : s.plan slot = some p) (fitting : p.state = .fitting)
    (alone : s.page.sendOrder = [slot]) (requests : s.page.requests = []) (none_ : s.page.outstanding = [])
    (noRun : s.noRunToBegin) (fitted : s.needing p.placements = []) (fuel : Nat) :
    PageDecided slot p s (State.settleFitsFor (fuel + 1) s) := by
  have head := State.headPlan_alone alone plan
  have step := (State.fitStep_page noRun).trans (State.pageStep_checks head fitting requests none_)
  obtain ⟨decided, ends⟩ := State.fitCheck_decides plan fitting alone fitted
  rw [State.settleFitsFor, step]
  dsimp only
  rcases ends with ended | begun
  · exact decided.settled (PageStands.settleFitsFor fuel _ ended)
  · rw [State.settleFitsFor_idle]
    · exact decided
    · have head' := State.headPlan_alone (begun.order.trans alone) begun.plan
      rw [State.fitStep_page fun idle => by rw [begun.fit] at idle ⊢; exact noRun idle]
      exact State.pageStep_other head' nofun nofun

/-- The fit check of the head plan with no fit outstanding. -/
theorem State.fitCheck_settles (plan : s.plan slot = some p) (fitting : p.state = .fitting)
    (alone : s.page.sendOrder = [slot]) (requests : s.page.requests = []) (none_ : s.page.outstanding = [])
    (free : s.fit.waiting = none) (empty : s.fit.queue = [])
    (distinct : (p.placements.map (·.key)).Nodup) (stand : ∀ y ∈ p.placements, s.story y.key ≠ none) :
    let need := s.needing p.placements
    (need = [] → PageDecided slot p s s.settleFits) ∧
    (need ≠ [] → (∀ j ∈ need, ∀ y, p.placements[j]? = some y → y.stale < 3) →
      PageWalked slot (p.counted need) need [] s.settleFits) ∧
    ((∃ j ∈ need, ∃ y, p.placements[j]? = some y ∧ 3 ≤ y.stale) → fitUnsettled slot p s.settleFits) := by
  intro need
  have head := State.headPlan_alone alone plan
  have step := (State.fitStep_page fun _ => empty).trans (State.pageStep_checks head fitting requests none_)
  have once : s.settleFits = State.settleFitsFor 511 (s.fitCheck slot p) := by
    show State.settleFitsFor (511 + 1) s = _
    rw [State.settleFitsFor, step]
  have losses (lost : need ≠ []) : s.fitCheck slot p =
      need.foldl (fun s i => if (s.plan slot).any fun p => decide (p.state = .fitting) then s.placementStale slot i
        else s) s := by
    unfold State.fitCheck
    dsimp only
    rw [State.unfitted_eq]
    exact if_pos lost
  have sub := needing_sublist (s := s) p.placements
  have nodup : need.Nodup := sub.nodup List.nodup_range
  refine ⟨fun fitted => ?_, fun lost few => ?_, fun many => ?_⟩
  · exact State.fitCheck_decided plan fitting alone requests none_ (fun _ => empty) fitted 511
  · rw [once, losses lost]
    have counted := State.losses_recounted need nodup s p plan fitting fun j mem => by
      obtain ⟨y, placed⟩ := mem_needing mem
      exact ⟨y, placed, few j mem y placed⟩
    obtain ⟨n, u, few', steps, idle', walked⟩ := State.recounted_walks counted requests none_ alone fitting free empty lost
      sub distinct stand
    rw [State.settleFitsFor_steps steps (by omega) idle']
    exact walked
  · have lost : need ≠ [] := by
      obtain ⟨j, mem, _⟩ := many
      exact List.ne_nil_of_mem mem
    rw [once, losses lost]
    obtain ⟨l, y, failed⟩ := State.losses_unsettled need nodup s p plan fitting alone (fun j mem => mem_needing mem) many
    exact PlanFailed.unsettled (failed.settled (PageStands.settleFitsFor 511 _ failed.order))

/-- The outcome of the one outstanding fit of a FITTING head plan, from the store the answer leaves. -/
theorem State.answer_settles {q : FitRequest} {st : Store} {o : FitOutcome} (queue : s.fit.queue = [q])
    (free : s.fit.waiting = none) (page : q.page = true) (plan : s.plan slot = some p) (fitting : p.state = .fitting)
    (alone : s.page.sendOrder = [slot]) (requests : s.page.requests = []) (one : s.page.outstanding = [i])
    (placed : p.placements[i]? = some x) (key : x.key = q.key) (setting : x.setting = q.setting)
    (distinct : (p.placements.map (·.key)).Nodup)
    (stand : ∀ y ∈ p.placements, ({ s with store := st } : State).story y.key ≠ none) :
    let u : State := { s with store := st }
    let t := (u.endRun o).settleFits
    let need := u.needing p.placements
    (q.host = true → t.desk.latched .fitDone = true) ∧
    (o ≠ .done → (x.stale < 3 → PageWalked slot (p.counted [i]) [i] [] t) ∧ (3 ≤ x.stale → fitUnsettled slot p t)) ∧
    (o = .done → (need = [] → PageDecided slot p u t) ∧
      (need ≠ [] → (∀ j ∈ need, ∀ y, p.placements[j]? = some y → y.stale < 3) →
        PageWalked slot (p.counted need) need [] t) ∧
      ((∃ j ∈ need, ∃ y, p.placements[j]? = some y ∧ 3 ≤ y.stale) → fitUnsettled slot p t)) := by
  intro u t need
  obtain ⟨store, port, line, traffic, pass, pageRest, clock, screen, told, desk⟩ :=
    State.runEnded_rest (s := u) (q := q) (o := o)
  have fit := State.runEnded_fit (s := u) (q := q) (o := o)
  have ends : u.endRun o = (u.runEnded q o).tellPage q.key q.setting o :=
    (State.endRun_alone (s := u) queue free).trans (if_pos page)
  have atEnd : t = ((u.runEnded q o).tellPage q.key q.setting o).settleFits := congrArg State.settleFits ends
  have role : (u.runEnded q o).typesetRole = u.typesetRole := by
    have same : (u.runEnded q o).desk.record = u.desk.record := by rw [desk]
    simp only [State.typesetRole, same]
  rw [atEnd]
  generalize u.runEnded q o = v at *
  have planV : v.plan slot = some p := by simpa [State.plan, pageRest] using plan
  have order : v.page.sendOrder = [slot] := by rw [pageRest]; exact alone
  have outstanding : v.page.outstanding = [i] := by rw [pageRest]; exact one
  have wants : v.page.requests = [] := by rw [pageRest]; exact requests
  have empty : v.fit.queue = [] := by rw [fit]; rfl
  have idle : v.fit.waiting = none := by rw [fit]; exact free
  have story (k : Key) : v.story k = u.story k := by simp only [State.story, store]
  have standV : ∀ y ∈ p.placements, v.story y.key ≠ none := fun y mem => by rw [story]; exact stand y mem
  have head := State.headPlan_alone order planV
  have tells := State.tellPage_head (k := q.key) (w := q.setting) (o := o) head fitting outstanding placed key setting
  refine ⟨fun host => ?_, fun lost => ?_, fun done => ?_⟩
  · exact (State.settleFits_follows _).notices _ ((State.tellPage_follows _ _ _ _).notices _ (told host))
  · rw [tells, if_neg lost]
    exact State.staleFit_settles planV fitting order wants outstanding placed idle empty distinct standV
  · rw [tells, if_pos done]
    have left : v.page.outstanding.filter (· ≠ i) = [] := by simp [outstanding]
    have settles := State.fitCheck_settles (s := v.onPage fun e => { e with outstanding := e.outstanding.filter (· ≠ i) })
      planV fitting order wants left idle empty distinct standV
    have same : (v.onPage fun e => { e with outstanding := e.outstanding.filter (· ≠ i) }).needing p.placements = need :=
      State.needing_congr (by rw [State.onPage_store, store]) _
    dsimp only at settles
    rw [same] at settles
    obtain ⟨decides, walks, fails⟩ := settles
    refine ⟨fun none_ => ?_, walks, fails⟩
    refine PageDecided.of_before (x := p.state) (decides none_) ?_ ?_ ?_ role ?_
    · rw [State.onPage_store, store]
    · show v.page.transfer = _
      rw [pageRest]
    · exact traffic
    · rw [State.onPage_store, store]

end Fitting

/-- Settles O42: the run goes on block by block, and its answer ends it at the host and at the head plan. -/
theorem fitRunServed : Obligations.FitRunServed := by
  refine ⟨fun a upsets r q l s busy purpose mine run queue op => ?reads,
    fun g b since text q slot p i x r s run queue free page alone plan fitting distinct stand requests one placed key
      setting same stands => ?planned,
    fun g b since text q s run queue free empty => ?alone⟩
  case reads =>
    intro d y total record
    have goes := exec_fitRead (upsets := upsets) busy purpose mine run queue op
    have served := State.endRead_servedOn (a := a) (upsets := upsets) op
    have delivered : s.endRead a upsets = d := rfl
    rw [delivered] at goes served
    obtain ⟨table, length, block⟩ := FitReading.feed_kept d.2.codes (32 * r.block) r
    refine ⟨_, goes, ?_⟩
    have processed (lines : Nat) : (({ y with block := y.block + 1 } : FitReading).record q.setting lines) = record lines := by
      show FitRecord.mk _ _ ⟨y.table.isNone, _, _⟩ = _
      rw [table]
      rfl
    have form : d.1.fitDelivered q.setting q.key r d.2.codes =
        if 4095 ≤ y.lines then
          d.1.onFit fun e => { e with run := some (.storing (record y.lines) (r.block + 1) false false) }
        else if 32 * (r.block + 1) < r.length then
          (d.1.onFit fun e => { e with run := some (.reading { y with block := r.block + 1 }) }).onPort
            (Port.request { purpose := .fitRead, block := (((d.1.story q.key).map (·.chain)).getD []).getD (r.block + 1) 0,
                            first := 0, count := min 32 (r.length - 32 * (r.block + 1)), aside := false })
        else d.1.onFit fun e => { e with run := some (.storing (record total) (r.block + 1) false false) } := by
      have more : r.block + 1 < blocksFor y.length ↔ 32 * (r.block + 1) < r.length := by
        rw [lt_blocksFor, length]
      have finish : y.breaker.finish y.length = y.breaker.finish r.length := by rw [length]
      have next : y.block + 1 = r.block + 1 := congrArg (· + 1) block
      unfold State.fitDelivered State.fitProcessed
      dsimp only
      refine ite_congr rfl (fun _ => ?_) fun _ => ?_
      · rw [← processed, ← next]
      · refine ite_congr (propext ?_) (fun _ => ?_) fun _ => ?_
        · rw [← more, ← next]
        · rw [← next, ← length]
          rfl
        · rw [← processed, ← next]
          show State.onFit (fun e => { e with run := some (.storing (({ y with block := y.block + 1 } : FitReading).record
            q.setting (y.lines + (y.breaker.finish y.length).length)) _ false false) }) d.1 = _
          rw [finish]
    rw [form]
    obtain ⟨port, line, traffic, pass, fit, page, clock, screen, _, _⟩ := served
    generalize d.1 = u at *
    split
    · refine ⟨rfl, line, traffic, pass, page, clock, screen, rfl, port, ?_⟩
      rw [← fit]
      rfl
    · split
      · refine ⟨rfl, line, traffic, pass, page, clock, screen, rfl, ?_, ?_⟩
        · rw [← fit]
          rfl
        · show u.port.request _ = _
          rw [port]
          rfl
      · refine ⟨rfl, line, traffic, pass, page, clock, screen, rfl, port, ?_⟩
        rw [← fit]
        rfl
  case planned =>
    intro stale counted u need
    have goes := exec_storeFitRecord run queue
    rw [State.storeRecord_some stands] at goes
    have changed (f : Option FitRecord) : ∀ y ∈ p.placements,
        (s.onStore (Store.change q.key fun r => { r with fit := f })).story y.key ≠ none :=
      fun y mem => (Store.stands_change (f := fun r => { r with fit := f }) (fun _ => rfl) q.key y.key s.store).mpr
        (stand y mem)
    by_cases lost : stale
    · have stores : ∃ st, (if r.inEdit = true ∨ text = true then (s, FitOutcome.stale)
          else if since = true then (s.onStore (Store.change q.key fun r => { r with fit := none }), .stale)
          else (s.onStore (Store.change q.key fun r => { r with fit := some g }), .done)) =
            (({ s with store := st } : State), .stale) ∧
          ∀ y ∈ p.placements, ({ s with store := st } : State).story y.key ≠ none := by
        by_cases edited : r.inEdit = true ∨ text = true
        · exact ⟨_, if_pos edited, stand⟩
        · have late : since = true := by
            rcases lost with h | h | h
            · exact absurd (.inl h) edited
            · exact absurd (.inr h) edited
            · exact h
          exact ⟨_, (if_neg edited).trans (if_pos late), changed none⟩
      obtain ⟨st, form, present⟩ := stores
      rw [form] at goes
      obtain ⟨notice, settles, _⟩ := State.answer_settles (o := .stale) queue free page plan fitting alone requests one placed
        key setting distinct present
      obtain ⟨again, ends⟩ := settles nofun
      exact ⟨_, goes, notice, fun _ => again, fun _ => ends, fun h => absurd lost h, fun h => absurd lost h,
        fun h => absurd lost h⟩
    · have kept : ¬(r.inEdit = true ∨ text = true) := fun h => lost (h.elim .inl (.inr ∘ .inl))
      have fresh : ¬since = true := fun h => lost (.inr (.inr h))
      rw [if_neg kept, if_neg fresh] at goes
      obtain ⟨notice, _, settles⟩ := State.answer_settles (o := .done) queue free page plan fitting alone requests one placed
        key setting distinct (changed (some g))
      obtain ⟨decides, walks, fails⟩ := settles rfl
      exact ⟨_, goes, notice, fun h => absurd h lost, fun h => absurd h lost, fun _ => decides, fun _ => walks,
        fun _ => fails⟩
  case alone =>
    have goes := exec_storeFitRecord run queue
    have ends (st : Store) (o : FitOutcome) :
        ((({ s with store := st } : State).endRun o).settleFits) = ({ s with store := st } : State).runEnded q o := by
      rw [State.endRun_noHead (s := { s with store := st }) queue free empty]
      obtain ⟨_, _, _, _, _, page, _⟩ := State.runEnded_rest (s := { s with store := st }) (q := q) (o := o)
      have fit := State.runEnded_fit (s := { s with store := st }) (q := q) (o := o)
      exact State.settleFits_idle (State.fitStep_eq_none.mpr
        ⟨fun _ => by rw [fit]; rfl, State.pageIdle_of_empty (by rw [page]; exact empty)⟩)
    have answered (st : Store) (o : FitOutcome)
        (form : s.storeRecord q.key g since text = (({ s with store := st } : State), o)) :
        ∃ t, exec .storeFitRecord s = .next t ∧ t.store = st ∧
          t.fit = { s.fit with
            queue := [], run := none,
            last :=
              if q.host then some { key := q.key, setting := q.setting, outcome := o }
              else s.fit.last } ∧
          (q.host = true → t.desk.latched .fitDone = true) ∧
          t.port = s.port ∧ t.line = s.line ∧ t.traffic = s.traffic ∧ t.pass = s.pass ∧
          t.page = s.page ∧ t.clock = s.clock ∧ t.screen = s.screen := by
      rw [form] at goes
      obtain ⟨store, port, line, traffic, pass, page, clock, screen, told, _⟩ :=
        State.runEnded_rest (s := { s with store := st }) (q := q) (o := o)
      exact ⟨_, goes.trans (congrArg _ (ends st o)), store, State.runEnded_fit, told, port, line, traffic, pass, page,
        clock, screen⟩
    cases stands : s.story q.key with
    | none =>
      obtain ⟨t, next, store, fit, told, port, line, traffic, pass, page, clock, screen⟩ :=
        answered s.store .noStory (State.storeRecord_none stands)
      exact ⟨t, _, next, fit, told, port, line, traffic, pass, page, clock, screen, fun _ => ⟨rfl, store⟩, nofun⟩
    | some r =>
      have record := State.storeRecord_some (g := g) (since := since) (text := text) stands
      by_cases edited : r.inEdit = true ∨ text = true
      · obtain ⟨t, next, store, fit, told, port, line, traffic, pass, page, clock, screen⟩ :=
          answered s.store .stale (record.trans (if_pos edited))
        refine ⟨t, _, next, fit, told, port, line, traffic, pass, page, clock, screen, nofun, ?_⟩
        rintro _ ⟨⟩
        rw [if_pos edited]
        exact ⟨rfl, store⟩
      · by_cases late : since = true
        · obtain ⟨t, next, store, fit, told, port, line, traffic, pass, page, clock, screen⟩ :=
            answered _ .stale (record.trans ((if_neg edited).trans (if_pos late)))
          refine ⟨t, _, next, fit, told, port, line, traffic, pass, page, clock, screen, nofun, ?_⟩
          rintro _ ⟨⟩
          rw [if_neg edited, if_pos late]
          exact ⟨rfl, store⟩
        · obtain ⟨t, next, store, fit, told, port, line, traffic, pass, page, clock, screen⟩ :=
            answered _ .done (record.trans ((if_neg edited).trans (if_neg late)))
          refine ⟨t, _, next, fit, told, port, line, traffic, pass, page, clock, screen, nofun, ?_⟩
          rintro _ ⟨⟩
          rw [if_neg edited, if_neg late]
          exact ⟨rfl, store⟩

end Sys2Proof.Machine


namespace Sys2Proof.Machine

open Sys2Proof

/-! ## Windows barred from EDIT (R176) -/

/-- A window whose story no longer admits EDIT. -/
def Window.barred (w : Window) : Window :=
  if w.mode = .edit then { w.dirtyRows anyRow with mode := .read } else w

theorem Window.barred_shown (w : Window) : w.barred.shown = { w with mode := .read }.shown := by
  unfold Window.barred
  split
  · rfl
  · next other =>
    have read : w.mode = .read := by cases mode : w.mode <;> simp_all
    simp [Window.shown, read]

theorem Window.barred_key (w : Window) : w.barred.key = w.key := by
  unfold Window.barred
  split <;> rfl

theorem Window.barred_twice (w : Window) : w.barred.barred = w.barred := by
  have read : w.barred.mode ≠ .edit := by
    unfold Window.barred
    split
    · nofun
    · assumption
  conv_lhs => rw [Window.barred, if_neg read]

/-- Every row is DIRTY and nothing is staged. -/
theorem Window.dirtyRows_any (w : Window) (rows : w.dirty.length = 21) :
    (w.dirtyRows anyRow).dirty = List.replicate 21 true ∧ (w.dirtyRows anyRow).staging = .empty := by
  refine ⟨?_, ?_⟩
  · refine List.ext_getElem (by simp [Window.dirtyRows, rows]) fun i _ _ => ?_
    rw [List.getElem_replicate]
    simp [Window.dirtyRows, anyRow]
  · simp only [Window.dirtyRows]
    cases staging : w.staging <;> simp [Staging.holds, anyRow]

theorem State.windowsEditBarred_get (k : Key) (s : State) (n : Nat) (low : n < 8) :
    (s.windowsEditBarred k).screen.windows[n]? =
      (s.screen.windows[n]?).map fun w => if w.key = some k then w.barred else w := by
  unfold State.windowsEditBarred
  rw [State.eachWindowOn_get k _ Window.barred _ s n low]
  intro m n s
  by_cases same : m = n
  · subst same
    rw [if_pos rfl]
    cases here : s.screen.windows[m]? with
    | none =>
      rw [Option.any_none, if_neg Bool.false_ne_true, here]
      rfl
    | some w =>
      rw [Option.any_some, Option.map_some]
      by_cases edit : w.mode = .edit
      · rw [if_pos (decide_eq_true edit), State.onWindow_get, if_pos rfl, State.dirty_get, if_pos rfl, here,
          Option.map_some, Option.map_some, Window.barred, if_pos edit]
      · rw [if_neg (by simpa using edit), here, Window.barred, if_neg edit]
  · rw [if_neg same]
    split
    · rw [State.onWindow_get, if_neg same, State.dirty_get, if_neg same]
    · rfl

/-- A barred window gets row 0 staged anew, with its text rows to be sent again. -/
theorem State.settleRows_barred {n : Nat} {u : State} {w : Window} (enabled : n < u.screenCount)
    (here : u.screen.windows[n]? = some w.barred) (edit : w.mode = .edit) (rows : w.dirty.length = 21) :
    u.settleRows.screen.windows[n]? =
      some { w with
               mode := .read, dirty := false :: List.replicate 20 true,
               staging := .ready (u.statusRow .read) } := by
  obtain ⟨dirty, empty⟩ := Window.dirtyRows_any w rows
  have form : w.barred = { w.dirtyRows anyRow with mode := .read } := if_pos edit
  rw [form] at here
  have stages := State.settleRows_stages enabled here (r := 0) empty
    (Window.nextRow_of_head (by show (w.dirtyRows anyRow).dirty.head? = _; rw [dirty]; rfl)) rfl
  rw [stages]
  have rest : Window.stage (u.statusRow .read) { w.dirtyRows anyRow with mode := .read } =
      { w with
          mode := .read, dirty := (w.dirtyRows anyRow).dirty.set 0 false, staging := .ready (u.statusRow .read) } := rfl
  rw [if_pos rfl, rest, dirty]
  rfl

/-- The edit-barred notification, once the rows have followed. -/
theorem State.settleRows_toldEditBarred {k : Key} {s u : State} (count : u.screenCount = s.screenCount)
    (each : ∀ n w, n < 8 → s.screen.windows[n]? = some w →
      u.screen.windows[n]? = some (if w.key = some k then w.barred else w)) :
    toldEditBarred k s u.settleRows := by
  refine ⟨fun n w low here => ?_, fun n w low enabled here key edit rows => ?_⟩
  · obtain ⟨v, there, shown⟩ := shown_get (State.settleRows_follows u).windows (each n w low here)
    refine ⟨v, there, ?_, fun _ never => never.elim⟩
    rw [shown]
    split
    · exact Window.barred_shown w
    · rfl
  · have there := each n w low here
    rw [if_pos key] at there
    rw [(State.settleRows_follows u).statusRow]
    exact State.settleRows_barred (by rw [count]; exact enabled) there edit rows

/-! ## Locks taken (R21) -/

section Locks

variable {slot : Nat}

/-- The records of `keys` with the lock of a slot. -/
def lockAll (slot : Nat) (keys : List Key) (l : List Story) : List Story :=
  l.map fun r => if r.key ∈ keys then { r with lock := some slot } else r

/-- The lock of one placement: the record's lock, and its windows while the story is HELD. -/
theorem State.takeLock_eq (k : Key) (s : State) :
    OnlyWindows (s.onStore fun st => { st with stories := lockAll slot [k] st.stories }) (s.takeLock k slot) ∧
    ∀ n, n < 8 → (s.takeLock k slot).screen.windows[n]? =
      (s.screen.windows[n]?).map fun w =>
        if w.key = some k ∧ (s.story k).any Story.isHeld = true then w.barred else w := by
  have one : s.onStore (Store.change k fun r => { r with lock := some slot }) =
      s.onStore fun st => { st with stories := lockAll slot [k] st.stories } := by
    simp only [State.onStore, Store.change, lockAll, List.mem_singleton]
  unfold State.takeLock
  rw [← one]
  by_cases held : (s.story k).any Story.isHeld = true
  · simp only [held, if_true, and_true]
    exact ⟨State.windowsEditBarred_only .., fun n low => State.windowsEditBarred_get _ _ n low⟩
  · simp only [held, if_false, and_false, Bool.false_eq_true]
    exact ⟨OnlyWindows.refl _, fun n _ => by simp⟩

theorem lockAll_unlocked (keys : List Key) (l : List Story) : (lockAll slot keys l).map Story.unlocked = l.map Story.unlocked := by
  unfold lockAll
  rw [List.map_map]
  refine List.map_congr_left fun r _ => ?_
  show (if r.key ∈ keys then { r with lock := some slot } else r).unlocked = _
  split <;> rfl

theorem lockAll_cons (k : Key) (keys : List Key) (l : List Story) :
    lockAll slot keys (lockAll slot [k] l) = lockAll slot (k :: keys) l := by
  unfold lockAll
  rw [List.map_map]
  refine List.map_congr_left fun r _ => ?_
  by_cases here : r.key = k
  · simp [here]
  · simp [here]

/-- A state with a record's custody HELD. -/
theorem isHeld_unlocked {s t : State} (same : t.store.stories.map Story.unlocked = s.store.stories.map Story.unlocked)
    (k : Key) : (t.story k).any Story.isHeld = (s.story k).any Story.isHeld := by
  have story := story_unlocked same k
  have through (o : Option Story) : o.any Story.isHeld = (o.map Story.unlocked).any Story.isHeld := by
    cases o <;> rfl
  rw [through, through (s.story k), story]

theorem State.takeLocks_eq (l : List Placement) (s : State) :
    OnlyWindows (s.onStore fun st => { st with stories := lockAll slot (l.map (·.key)) st.stories })
      (l.foldl (fun s q => s.takeLock q.key slot) s) ∧
    ∀ n, n < 8 → (l.foldl (fun s q => s.takeLock q.key slot) s).screen.windows[n]? =
      (s.screen.windows[n]?).map fun w =>
        if ∃ q ∈ l, w.key = some q.key ∧ (s.story q.key).any Story.isHeld = true then w.barred else w := by
  induction l generalizing s with
  | nil =>
    refine ⟨?_, fun n _ => by simp⟩
    have same (l : List Story) : lockAll slot [] l = l := by simp [lockAll]
    show OnlyWindows (s.onStore fun st => { st with stories := lockAll slot [] st.stories }) s
    simp only [same]
    exact OnlyWindows.refl s
  | cons q rest ih =>
    obtain ⟨once, windows⟩ := State.takeLock_eq (slot := slot) q.key s
    obtain ⟨after, others⟩ := ih (s.takeLock q.key slot)
    have stories : (s.takeLock q.key slot).store.stories = lockAll slot [q.key] s.store.stories := by
      rw [once.store]; rfl
    refine ⟨?_, fun n low => ?_⟩
    · refine OnlyWindows.trans ?_ after
      have kept : OnlyWindows
          ((s.onStore fun st => { st with stories := lockAll slot [q.key] st.stories }).onStore fun st =>
            { st with stories := lockAll slot (rest.map (·.key)) st.stories })
          ((s.takeLock q.key slot).onStore fun st => { st with stories := lockAll slot (rest.map (·.key)) st.stories }) :=
        { once with store := by simp [once.store] }
      simpa only [State.onStore, lockAll_cons, List.map_cons] using kept
    · have held (k : Key) : ((s.takeLock q.key slot).story k).any Story.isHeld = (s.story k).any Story.isHeld :=
        isHeld_unlocked (by rw [stories, lockAll_unlocked]) k
      show (List.foldl _ (s.takeLock q.key slot) rest).screen.windows[n]? = _
      rw [others n low, windows n low]
      cases s.screen.windows[n]? with
      | none => rfl
      | some w =>
        simp only [Option.map_some, held]
        by_cases here : w.key = some q.key ∧ (s.story q.key).any Story.isHeld = true
        · have either : ∃ x ∈ q :: rest, w.key = some x.key ∧ (s.story x.key).any Story.isHeld = true :=
            ⟨q, List.mem_cons_self, here⟩
          rw [if_pos here, if_pos either, Window.barred_twice, ite_self]
        · rw [if_neg here]
          have same : (∃ x ∈ q :: rest, w.key = some x.key ∧ (s.story x.key).any Story.isHeld = true) ↔
              ∃ x ∈ rest, w.key = some x.key ∧ (s.story x.key).any Story.isHeld = true := by
            simp only [List.exists_mem_cons_iff, here, false_or]
          simp only [same]

end Locks

end Sys2Proof.Machine


namespace Sys2Proof.Machine

open Sys2Proof

/-! ## What the fit queue and the page engine keep (R106, R124 to R129) -/

/-- A property of the plans, the send order, the pending drop, the PAGE HEAD that waits, the stories and the port that
changes of the head plan and requests of the fit reader keep. -/
structure KeptByHead (P : State → Prop) : Prop where
  congr : ∀ {s t : State}, P s → t.page.plans = s.page.plans → t.page.sendOrder = s.page.sendOrder →
    t.page.transfer.drop = s.page.transfer.drop → t.store = s.store → t.port = s.port →
    (s.page.transfer.drop = none → t.page.ready = s.page.ready) → P t
  requests : ∀ {s : State} {a : Access}, P s → a.purpose = .fitRead → P (s.onPort (Port.request a))
  changes : ∀ {s : State} {n : Nat} {p : Plan} (f : Plan → Plan), P s → s.headPlan = some (n, p) →
    p.state = .queued ∨ p.state = .fitting → P (s.onPlan n f)
  ends : ∀ {s : State} {n : Nat} {p : Plan} (o : PlanState), P s → s.headPlan = some (n, p) → p.state = .fitting →
    P (s.endPlan n o)

theorem State.headPlan_iff {s : State} {n : Nat} {p : Plan} :
    s.headPlan = some (n, p) ↔ s.page.sendOrder.head? = some n ∧ s.plan n = some p := by
  unfold State.headPlan
  cases s.page.sendOrder with
  | nil => simp
  | cons m rest =>
    simp only [List.head?_cons, Option.some.injEq, Option.map_eq_some_iff, Prod.mk.injEq]
    constructor
    · rintro ⟨q, plan, rfl, rfl⟩
      exact ⟨rfl, plan⟩
    · rintro ⟨rfl, plan⟩
      exact ⟨p, plan, rfl, rfl⟩

theorem State.sendPageFrame_page (f : OutFrame) (s : State) :
    (s.sendPageFrame f).page = { s.page with transfer := { s.page.transfer with frame := .queued } } ∧
      (s.sendPageFrame f).store = s.store ∧ (s.sendPageFrame f).port = s.port := by
  unfold State.sendPageFrame State.send
  split <;> exact ⟨rfl, rfl, rfl⟩

/-- A FITTING plan that ends leaves the send order. -/
theorem State.endPlan_page {s : State} {n : Nat} {p : Plan} (o : PlanState) (plan : s.plan n = some p)
    (fitting : p.state = .fitting) :
    (s.endPlan n o).page = { s.page.ended n o with requests := [], outstanding := [] } := by
  rw [State.endPlan_fitting plan fitting]
  obtain ⟨_, _, _, _, _, _, page, _⟩ := State.notified_rest o
    { s with
        store := { s.store with stories := unlockAll (p.placements.map (·.key)) s.store.stories },
        fit := s.fit.withdrawPage, page := { s.page.ended n o with requests := [], outstanding := [] } }
  exact page

namespace KeptByHead

variable {P : State → Prop} {s t : State} {n i : Nat} {p : Plan}

section

variable (kept : KeptByHead P)

include kept

theorem placementStale (h : P s) (head : s.headPlan = some (n, p)) (fitting : p.state = .fitting) :
    P (s.placementStale n i) := by
  unfold State.placementStale
  repeat' split
  · exact h
  · exact kept.congr (kept.changes _ h head (.inr fitting)) rfl rfl rfl rfl rfl fun _ => rfl
  · exact kept.ends _ h head fitting

theorem tellPage {k : Key} {w : Setting} {o : FitOutcome} (h : P s) : P (s.tellPage k w o) := by
  unfold State.tellPage
  split
  · exact h
  next n p head =>
  split
  · next fitting =>
    repeat' split
    · exact h
    · exact kept.congr h rfl rfl rfl rfl rfl fun _ => rfl
    · exact kept.placementStale h head fitting
  · exact h

theorem endRun {o : FitOutcome} (h : P s) : P (s.endRun o) := by
  have same {x : State} (page : x.page = s.page) (store : x.store = s.store) (port : x.port = s.port) : P x :=
    kept.congr h (by rw [page]) (by rw [page]) (by rw [page]) store port fun _ => by rw [page]
  unfold State.endRun
  split
  · exact same rfl rfl rfl
  · dsimp only
    repeat' split
    · exact kept.tellPage (same rfl rfl rfl)
    · exact kept.tellPage (same rfl rfl rfl)
    · exact same rfl rfl rfl
    · exact same rfl rfl rfl

theorem beginRun {q : FitRequest} (h : P s) : P (s.beginRun q) := by
  unfold State.beginRun
  split
  · exact kept.endRun h
  · dsimp only
    repeat' split
    · exact kept.congr h rfl rfl rfl rfl rfl fun _ => rfl
    · exact kept.congr h rfl rfl rfl rfl rfl fun _ => rfl
    · exact kept.requests (kept.congr h rfl rfl rfl rfl rfl fun _ => rfl) rfl

theorem enterSending (h : P s) (head : s.headPlan = some (n, p)) (fitting : p.state = .fitting) : P (s.enterSending n) := by
  rw [State.enterSending_eq (State.headPlan_iff.mp head).2]
  dsimp only
  have begun := kept.changes (fun p => { p with state := .sending }) h head (.inr fitting)
  split
  · next pending =>
    exact kept.congr begun rfl rfl rfl rfl rfl fun none_ =>
      absurd pending (by rw [show s.page.transfer.drop = none from none_]; simp)
  · obtain ⟨page, store, port⟩ := State.sendPageFrame_page (s.headFrame p)
      ((s.onPlan n fun p => { p with state := .sending }).onPage fun e =>
        { e with transfer := { Transfer.clear with plan := some n, drop := e.transfer.drop } })
    exact kept.congr begun (by rw [page]; rfl) (by rw [page]; rfl) (by rw [page]; rfl) store port
      fun _ => by rw [page]; rfl

/-- While the plan of the slot is FITTING it is the head plan. -/
theorem losses (lost : List Nat) (h : P s)
    (head : ∀ p, s.plan n = some p → p.state = .fitting → s.page.sendOrder.head? = some n) :
    P (lost.foldl (fun s i =>
      if (s.plan n).any fun p => decide (p.state = .fitting) then s.placementStale n i else s) s) := by
  induction lost generalizing s with
  | nil => exact h
  | cons i rest ih =>
    rw [List.foldl_cons]
    split
    · next still =>
      obtain ⟨p, plan, fits⟩ := (Option.any_eq_true _ _).mp still
      have fitting : p.state = .fitting := of_decide_eq_true fits
      have first := head p plan fitting
      have here := State.headPlan_iff.mpr ⟨first, plan⟩
      refine ih (kept.placementStale h here fitting) ?_
      unfold State.placementStale
      rw [plan, Option.bind_some]
      split
      · exact fun _ _ _ => first
      · split
        · exact fun _ _ _ => first
        · intro q there fits
          rw [State.ended_plan (o := .failed .fitUnsettled) plan (by rw [State.endPlan_page _ plan fitting])] at there
          cases there
          cases fits
    · exact ih h head

theorem fitCheck (h : P s) (head : s.headPlan = some (n, p)) (fitting : p.state = .fitting) : P (s.fitCheck n p) := by
  obtain ⟨first, plan⟩ := State.headPlan_iff.mp head
  unfold State.fitCheck
  dsimp only
  split
  · exact kept.losses _ h fun _ _ _ => first
  · split
    · exact kept.ends _ h head fitting
    · have set : (s.onPlan n fun q => { q with placements := p.placements.map s.setResult }).headPlan =
          some (n, { p with placements := p.placements.map s.setResult }) :=
        State.headPlan_iff.mpr ⟨first, by rw [State.onPlan_plan, plan, Option.map_some]⟩
      have changed := kept.changes (fun q => { q with placements := p.placements.map s.setResult }) h head (.inr fitting)
      split
      · exact kept.ends _ changed set fitting
      · exact kept.enterSending changed set fitting

theorem fitStep (h : P s) (step : s.fitStep = some t) : P t := by
  by_cases noRun : s.noRunToBegin
  · rw [State.fitStep_page noRun] at step
    cases head : s.headPlan with
    | none =>
      rw [State.pageStep_noHead head] at step
      cases step
    | some x =>
      obtain ⟨n, p⟩ := x
      unfold State.pageStep at step
      rw [head] at step
      dsimp only at step
      split at step
      · next queued =>
        cases step
        exact kept.congr (kept.changes (fun p => { p with state := .fitting }) h head (.inl queued)) rfl rfl rfl rfl rfl fun _ => rfl
      · repeat' split at step
        all_goals first
          | (cases step; exact kept.congr h rfl rfl rfl rfl rfl fun _ => rfl)
          | (cases step; exact kept.fitCheck h head (by assumption))
          | cases step
  · have ⟨idle, busy⟩ : s.fit.run = none ∧ s.fit.queue ≠ [] := by simpa [State.noRunToBegin] using noRun
    obtain ⟨q, l, queue⟩ := List.exists_cons_of_ne_nil busy
    rw [State.fitStep_begins idle queue] at step
    cases step
    exact kept.beginRun h

theorem settleFits (h : P s) : P s.settleFits := by
  have all (fuel : Nat) (s : State) (h : P s) : P (State.settleFitsFor fuel s) := by
    induction fuel generalizing s with
    | zero => exact h
    | succ fuel ih =>
      unfold State.settleFitsFor
      split
      · exact h
      · next step => exact ih _ (kept.fitStep h step)
  exact all 512 s h

end

end KeptByHead

/-! ## The head plan's locks until it ends (R125) -/

/-- The one plan of the send order stands with the stories `l`, or it has ended. -/
def HeadStands (slot : Nat) (l : List Story) (s : State) : Prop :=
  s.page.sendOrder = [] ∨ (s.page.sendOrder = [slot] ∧ s.store.stories = l)

theorem HeadStands.settled {slot : Nat} {l : List Story} (s : State) (h : HeadStands slot l s.settleFits) :
    HeadStands slot l s.settle := by
  have rest : PageStands s.settleFits s.settle := PageStands.ofSlips s.settleFits
  unfold HeadStands
  rw [rest.page, rest.store]
  exact h

theorem HeadStands.kept (slot : Nat) (l : List Story) : KeptByHead (HeadStands slot l) where
  congr := fun h _ order _ store _ _ => by
    unfold HeadStands
    rw [order, store]
    exact h
  requests := fun h _ => h
  changes := fun _ h _ _ => h
  ends := fun {s n p} o h head fitting => by
    obtain ⟨first, plan⟩ := State.headPlan_iff.mp head
    refine .inl ?_
    rw [State.endPlan_page o plan fitting]
    rcases h with empty | ⟨alone, _⟩
    · rw [empty] at first
      cases first
    · rw [alone] at first
      cases first
      exact PageEngine.ended_alone (o := o) alone

/-! ## The pending drop (R134) -/

theorem pendingDrop_kept (d : Option DropReason) : KeptByHead fun s => s.page.transfer.drop = d where
  congr := fun h _ _ drop _ _ _ => drop.trans h
  requests := fun h _ => h
  changes := fun _ h _ _ => h
  ends := fun o h head fitting => by
    rw [State.endPlan_page o (State.headPlan_iff.mp head).2 fitting]
    exact h

/-! ## A plan out of the send order -/

/-- The slot holds `q`, and its plan is not in the send order. -/
def OutOfOrder (slot : Nat) (q : Option Plan) (s : State) : Prop := s.plan slot = q ∧ slot ∉ s.page.sendOrder

theorem OutOfOrder.settled {slot : Nat} {q : Option Plan} (s : State) (h : OutOfOrder slot q s.settleFits) :
    OutOfOrder slot q s.settle := by
  have rest : PageStands s.settleFits s.settle := PageStands.ofSlips s.settleFits
  unfold OutOfOrder State.plan
  rw [rest.page]
  exact h

theorem State.onPlan_other {s : State} {n slot : Nat} {f : Plan → Plan} (other : n ≠ slot) :
    (s.onPlan n f).plan slot = s.plan slot := by
  unfold State.plan State.onPlan
  simp only [State.onPage_page, List.getD_eq_getElem?_getD, List.getElem?_modify, if_neg other]
  cases s.page.plans[slot]? <;> rfl

theorem OutOfOrder.kept (slot : Nat) (q : Option Plan) : KeptByHead (OutOfOrder slot q) := by
  have differs {s : State} {n : Nat} {p : Plan} (h : OutOfOrder slot q s) (head : s.headPlan = some (n, p)) : n ≠ slot := by
    rintro rfl
    exact h.2 (List.mem_of_mem_head? (State.headPlan_iff.mp head).1)
  exact {
    congr := fun h plans order _ _ _ _ => by
      unfold OutOfOrder State.plan
      rw [plans, order]
      exact h
    requests := fun h _ => h
    changes := fun f h head _ => ⟨(State.onPlan_other (differs h head)).trans h.1, h.2⟩
    ends := fun {s n p} o h head fitting => by
      have page := State.endPlan_page o (State.headPlan_iff.mp head).2 fitting
      have plan := State.onPlan_other (s := s) (f := fun p => { p with state := o }) (differs h head)
      refine ⟨?_, ?_⟩
      · rw [← h.1, ← plan]
        unfold State.plan
        rw [page]
        rfl
      · rw [page]
        exact fun mem => h.2 (List.mem_of_mem_filter mem) }

/-! ## A plan that is neither QUEUED nor FITTING -/

theorem planRests_kept (slot : Nat) {q : Plan} (rests : q.state ≠ .queued ∧ q.state ≠ .fitting) :
    KeptByHead fun s => s.plan slot = some q := by
  have differs {s : State} {n : Nat} {p : Plan} (h : s.plan slot = some q) (head : s.headPlan = some (n, p))
      (moves : p.state = .queued ∨ p.state = .fitting) : n ≠ slot := by
    rintro rfl
    rw [(State.headPlan_iff.mp head).2] at h
    cases h
    exact moves.elim rests.1 rests.2
  exact {
    congr := fun h plans _ _ _ _ _ => by
      unfold State.plan
      rw [plans]
      exact h
    requests := fun h _ => h
    changes := fun f h head moves => (State.onPlan_other (differs h head moves)).trans h
    ends := fun {s n p} o h head fitting => by
      have page := State.endPlan_page o (State.headPlan_iff.mp head).2 fitting
      have plan := State.onPlan_other (s := s) (f := fun p => { p with state := o }) (differs h head (.inr fitting))
      rw [← h, ← plan]
      unfold State.plan
      rw [page]
      rfl }

end Sys2Proof.Machine


namespace Sys2Proof.Machine

open Sys2Proof

/-! ## The checks of SEND PAGE (R123) -/

section Checks

variable {s : State}

/-- What R123 asks of the placement of key `k` at check 2 to 5, where it fails. -/
def State.placementFails (s : State) (check : Nat) (k : Key) (r : Result) : Prop :=
  (check = 2 ∧ s.story k = none ∧ r = .noStory) ∨
  (check = 2 ∧ r = .wrongState ∧ ∃ q, s.story k = some q ∧ q.custody ≠ .held ∧ q.custody ≠ .carbon) ∨
  (check = 3 ∧ r = .damaged ∧ ∃ q, s.story k = some q ∧ q.damaged = true) ∨
  (check = 4 ∧ r = .locked ∧ ∃ q, s.story k = some q ∧ q.lock ≠ none) ∨
  (check = 5 ∧ r = .busy ∧ ∃ b, some b ∈ s.pass.inbound ∧ b.offer.key = k)

theorem State.placedFault_iff (k : Key) (r : Result) : s.placedFault k = some r ↔ s.placementFails 2 k r := by
  unfold State.placedFault State.placementFails
  cases stands : s.story k with
  | none => simp [eq_comm (a := r)]
  | some q =>
    by_cases fine : q.custody = .held ∨ q.custody = .carbon
    · rcases fine with h | h <;> simp [h]
    · have ⟨notHeld, notCarbon⟩ := not_or.mp fine
      simp [notHeld, notCarbon, eq_comm (a := r)]

/-- The check of R123 that stands at place `n` of the checks after the first. -/
theorem State.sendChecks_iff (n : Nat) (k : Key) (r : Result) :
    (∃ f, s.sendChecks[n]? = some f ∧ f k = some r) ↔ s.placementFails (n + 2) k r := by
  match n with
  | 0 =>
    rw [← State.placedFault_iff]
    simp [State.sendChecks]
  | 1 => simp [State.sendChecks, State.placementFails, Option.any_eq_true, eq_comm (a := r)]; tauto
  | 2 => simp [State.sendChecks, State.placementFails, Option.any_eq_true, Option.isSome_iff_ne_none, eq_comm (a := r)]; tauto
  | 3 => simp [State.sendChecks, State.placementFails, State.inboundOf_isSome, eq_comm (a := r)]; tauto
  | n + 4 => simp [State.sendChecks, State.placementFails]

theorem State.placementFails_low {check : Nat} {k : Key} {r : Result} (h : s.placementFails check k r) :
    ∃ n, check = n + 2 ∧ n < 4 := by
  rcases h with ⟨rfl, _⟩ | ⟨rfl, _⟩ | ⟨rfl, _⟩ | ⟨rfl, _⟩ | ⟨rfl, _⟩
  · exact ⟨0, rfl, by decide⟩
  · exact ⟨0, rfl, by decide⟩
  · exact ⟨1, rfl, by decide⟩
  · exact ⟨2, rfl, by decide⟩
  · exact ⟨3, rfl, by decide⟩

theorem firstFailing_eq_none {f : Key → Option Result} {i : Nat} {l : List Placement}
    (fine : ∀ q ∈ l, f q.key = none) : firstFailing f i l = none := by
  induction l generalizing i with
  | nil => rfl
  | cons p rest ih =>
    rw [firstFailing, fine p List.mem_cons_self]
    exact ih fun q mem => fine q (List.mem_cons_of_mem p mem)

theorem firstFailing_at {f : Key → Option Result} {i j : Nat} {l : List Placement} {q : Placement} {r : Result}
    (before : ∀ m q, m < j → l[m]? = some q → f q.key = none) (here : l[j]? = some q) (fails : f q.key = some r) :
    firstFailing f i l = some (r, i + j) := by
  induction l generalizing i j with
  | nil => simp at here
  | cons p rest ih =>
    rw [firstFailing]
    cases j with
    | zero =>
      cases here
      rw [fails]
      rfl
    | succ j =>
      rw [before 0 p j.succ_pos rfl]
      have found := ih (i := i + 1) (j := j) (fun m q low there => before (m + 1) q (by omega) there) here
      rw [show i + (j + 1) = i + 1 + j by omega]
      exact found

theorem findSome?_at {α β : Type} {f : α → Option β} {l : List α} {n : Nat} {a : α} {b : β}
    (before : ∀ m x, m < n → l[m]? = some x → f x = none) (here : l[n]? = some a) (found : f a = some b) :
    l.findSome? f = some b := by
  induction l generalizing n with
  | nil => simp at here
  | cons x rest ih =>
    cases n with
    | zero =>
      cases here
      simp [found]
    | succ n =>
      rw [List.findSome?_cons, before 0 x n.succ_pos rfl]
      exact ih (fun m y low there => before (m + 1) y (by omega) there) here

/-- No placement fails any check. -/
theorem State.sendFault_none {p : Plan} (fine : ∀ c q r, q ∈ p.placements → ¬s.placementFails c q.key r) :
    s.sendFault p = none := by
  refine List.findSome?_eq_none_iff.mpr fun f mem => firstFailing_eq_none fun q there => ?_
  obtain ⟨n, here⟩ := List.getElem?_of_mem mem
  cases fails : f q.key with
  | none => rfl
  | some r => exact absurd ((State.sendChecks_iff n q.key r).mp ⟨f, here, fails⟩) (fine _ q r there)

/-- The first placement that fails the first check that any fails. -/
theorem State.sendFault_first {p : Plan} {check i : Nat} {q : Placement} {r : Result}
    (earlier : ∀ c q r, c < check → q ∈ p.placements → ¬s.placementFails c q.key r)
    (before : ∀ m q r, m < i → p.placements[m]? = some q → ¬s.placementFails check q.key r)
    (placed : p.placements[i]? = some q) (fails : s.placementFails check q.key r) : s.sendFault p = some (r, i) := by
  obtain ⟨n, rfl, _⟩ := State.placementFails_low fails
  obtain ⟨f, here, found⟩ := (State.sendChecks_iff n q.key r).mpr fails
  have none_ {m : Nat} {g : Key → Option Result} {x : Placement} (at_m : s.sendChecks[m]? = some g)
      (free : ∀ r, ¬s.placementFails (m + 2) x.key r) : g x.key = none := by
    cases result : g x.key with
    | none => rfl
    | some r => exact absurd ((State.sendChecks_iff m x.key r).mp ⟨g, at_m, result⟩) (free r)
  refine findSome?_at (fun m g low at_m => ?_) here ?_
  · exact firstFailing_eq_none fun x mem => none_ at_m fun r => earlier (m + 2) x r (by omega) mem
  · have first := firstFailing_at (i := 0) (fun m x low there => none_ here fun r => before m x r low there) placed found
    rw [first, Nat.zero_add]

end Checks

/-! ## A plan queued (R123, R124) -/

section Queued

variable {s t v : State} {slot : Nat} {p : Plan}

/-- SEND PAGE has queued plan `p`, and nothing has followed yet. -/
structure PageQueued (slot : Nat) (p : Plan) (s v : State) : Prop where
  store : v.store = { s.store with stories := lockAll slot (p.placements.map (·.key)) s.store.stories }
  page : v.page =
    { s.page with
        plans := s.page.plans.set slot (some { p with state := .queued }), sendOrder := s.page.sendOrder ++ [slot] }
  line : v.line = s.line
  traffic : v.traffic = s.traffic
  pass : v.pass = s.pass
  fit : v.fit = s.fit
  clock : v.clock = s.clock
  inputs : v.desk.inputs =
    { s.desk.inputs with planned := s.desk.inputs.planned.modify (p.edition - 1) (· - 1) }
  desk : v.desk =
    { s.desk with
        inputs := v.desk.inputs, attention := v.desk.attention, lamp := v.desk.lamp, lit := v.desk.lit }
  windows : ∀ n, n < 8 → v.screen.windows[n]? = (s.screen.windows[n]?).map fun w =>
    if ∃ q ∈ p.placements, w.key = some q.key ∧ (s.story q.key).any Story.isHeld = true then w.barred else w

theorem State.plan_slot (plan : s.plan slot = some p) : s.page.plans[slot]? = some (some p) := by
  unfold State.plan at plan
  rw [List.getD_eq_getElem?_getD] at plan
  cases here : s.page.plans[slot]? with
  | none => rw [here] at plan; cases plan
  | some o => rw [here] at plan; exact congrArg some plan

theorem State.queuePage_queues (plan : s.plan slot = some p) :
    ∃ v, s.queuePage slot p = v.settle.done (.position s.page.sendOrder.length) ∧ PageQueued slot p s v := by
  obtain ⟨locked, windows⟩ := State.takeLocks_eq (slot := slot) p.placements s
  refine ⟨_, rfl, ?_⟩
  generalize p.placements.foldl (fun s q => s.takeLock q.key slot) s = x at *
  obtain ⟨attention, lamp, lit, told⟩ := State.tellDesk_told
    (fun i => { i with planned := i.planned.modify (p.edition - 1) (· - 1) })
    (x.onPlan slot fun p => { p with state := .queued })
  have slots := State.plan_slot plan
  have planned : (x.onPlan slot fun p => { p with state := .queued }).page =
      { s.page with plans := s.page.plans.set slot (some { p with state := .queued }) } := by
    simp only [State.onPlan, State.onPage, locked.page]
    exact congrArg (fun l => { s.page with plans := l })
      (Told.modify_set s.page.plans slot p (fun p => { p with state := .queued }) slots)
  have inputs : x.desk = s.desk := locked.desk
  unfold State.planLeaves
  rw [told]
  exact {
    store := locked.store
    page := congrArg (fun e : PageEngine => { e with sendOrder := e.sendOrder ++ [slot] }) planned
    line := locked.line
    traffic := locked.traffic
    pass := locked.pass
    fit := locked.fit
    clock := locked.clock
    inputs := congrArg (fun d : Desk =>
      { d.inputs with planned := d.inputs.planned.modify (p.edition - 1) (· - 1) }) inputs
    desk := congrArg (fun d : Desk =>
      { d with
          inputs := { x.desk.inputs with planned := x.desk.inputs.planned.modify (p.edition - 1) (· - 1) }
          attention := attention, lamp := lamp, lit := lit }) inputs
    windows := windows }

theorem PageQueued.unlocked (h : PageQueued slot p s v) :
    v.store.stories.map Story.unlocked = s.store.stories.map Story.unlocked := by
  rw [h.store]
  exact lockAll_unlocked ..

theorem PageQueued.released (h : PageQueued slot p s v) :
    unlockAll (p.placements.map (·.key)) v.store.stories = unlockAll (p.placements.map (·.key)) s.store.stories := by
  rw [h.store]
  unfold unlockAll lockAll
  rw [List.map_map]
  refine List.map_congr_left fun r _ => ?_
  by_cases here : r.key ∈ p.placements.map (·.key)
  · simp only [Function.comp_apply, if_pos here]
  · simp only [Function.comp_apply, if_neg here]

theorem PageQueued.typesetRole (h : PageQueued slot p s v) : v.typesetRole = s.typesetRole := by
  have same : v.desk.record = s.desk.record := by rw [h.desk]
  simp only [State.typesetRole, same]

theorem PageQueued.screenCount (h : PageQueued slot p s v) : v.screenCount = s.screenCount := by
  have same : v.desk.record = s.desk.record := by rw [h.desk]
  simp only [State.screenCount, same]

theorem PageQueued.plan (h : PageQueued slot p s v) (plan : s.plan slot = some p) :
    v.plan slot = some { p with state := .queued } := by
  have low : slot < s.page.plans.length := (List.getElem?_eq_some_iff.mp (State.plan_slot plan)).1
  unfold State.plan
  rw [h.page]
  simp [List.getD_eq_getElem?_getD, low]

theorem PageQueued.stands (h : PageQueued slot p s v) (k : Key) : v.story k ≠ none ↔ s.story k ≠ none := by
  have same := story_unlocked h.unlocked k
  cases here : s.story k with
  | none => simp [here] at same; simp [same]
  | some r =>
    rw [here] at same
    obtain ⟨q, there, _⟩ := Option.map_eq_some_iff.mp same
    simp [there]

end Queued

/-! ## What follows at once (R124, R126, R128) -/

section Follows

variable {s t u v : State} {slot : Nat} {p : Plan}

theorem PageStands.done (d : ResponseData) (s : State) : PageStands s (s.done d) := ⟨rfl, rfl, rfl, fun _ h => h⟩

/-- Behind a head the queued plan changes nothing for the fit queue and the page engine. -/
theorem PageQueued.idle (h : PageQueued slot p s v) (some_ : s.page.sendOrder ≠ []) (other : slot ∉ s.page.sendOrder)
    (idle : s.fitStep = none) : v.fitStep = none := by
  obtain ⟨noRun, pageIdle⟩ := State.fitStep_eq_none.mp idle
  have head : v.headPlan = s.headPlan := by
    obtain ⟨n, rest, order⟩ := List.exists_cons_of_ne_nil some_
    have differs : slot ≠ n := fun same => other (by rw [order, same]; exact List.mem_cons_self)
    have queue : v.page.sendOrder = n :: (rest ++ [slot]) := by rw [h.page, order]; rfl
    unfold State.headPlan
    rw [order, queue]
    simp only [State.plan, h.page, List.getD_eq_getElem?_getD, List.getElem?_set_ne differs]
  refine State.fitStep_eq_none.mpr ⟨fun run => by rw [h.fit] at run ⊢; exact noRun run, fun n q there => ?_⟩
  rw [head] at there
  have requests : v.page.requests = s.page.requests := by rw [h.page]
  have outstanding : v.page.outstanding = s.page.outstanding := by rw [h.page]
  rw [h.fit, requests, outstanding]
  exact pageIdle n q there

/-- As head the plan is taken up: FITTING, with the placements to fit as the request list. -/
theorem PageQueued.taken (h : PageQueued slot p s v) (plan : s.plan slot = some p) (empty : s.page.sendOrder = [])
    (noRun : s.noRunToBegin) :
    ∃ w, v.fitStep = some w ∧ w.plan slot = some { p with state := .fitting } ∧
      w.page =
        { v.page with plans := w.page.plans, requests := s.needing p.placements, outstanding := [] } ∧
      w = { v with page := w.page } := by
  have order : v.page.sendOrder = [slot] := by rw [h.page, empty]; rfl
  have head := State.headPlan_alone order (h.plan plan)
  have step := (State.fitStep_page fun run => by rw [h.fit] at run ⊢; exact noRun run).trans
    (State.pageStep_queued head rfl)
  refine ⟨_, step, ?_, ?_, rfl⟩
  · have changed := State.onPlan_plan (s := v) (slot := slot) (f := fun p => { p with state := .fitting })
    rw [h.plan plan] at changed
    exact changed
  · have need : v.unfitted { p with state := .queued } = s.needing p.placements := State.needing_congr h.unlocked _
    rw [← need]
    rfl

theorem PageWalked.congr {need : List Nat} {queue : List FitRequest} (h : PageWalked slot p need queue t)
    (page : u.page = t.page) (fit : u.fit = t.fit) : PageWalked slot p need queue u where
  plan := by unfold State.plan; rw [page]; exact h.plan
  order := by rw [page]; exact h.order
  outstanding := by rw [page]; exact h.outstanding
  requests := by rw [page]; exact h.requests
  joined := by rw [fit]; exact h.joined
  waits := by rw [fit]; exact h.waits
  runs := by rw [fit]; exact h.runs

/-- The head plan just queued, its fits asked for and decided where none is needed. -/
theorem PageQueued.settles (h : PageQueued slot p s v) (plan : s.plan slot = some p) (empty : s.page.sendOrder = [])
    (noRun : s.noRunToBegin) :
    let need := s.needing p.placements
    (need = [] → PageDecided slot p s v.settleFits) ∧
    (need ≠ [] → s.fit.waiting = none → s.fit.queue.length ≤ 4 → (p.placements.map (·.key)).Nodup →
      (∀ q ∈ s.fit.queue, ∀ x ∈ p.placements, q.key = x.key → q.setting ≠ x.setting) →
      (∀ x ∈ p.placements, s.story x.key ≠ none) →
      PageWalked slot p need s.fit.queue v.settleFits ∧ v.settleFits.traffic = s.traffic ∧
        v.settleFits.page.transfer = s.page.transfer) := by
  intro need
  obtain ⟨w, step, planW, page, rest⟩ := h.taken plan empty noRun
  have order : w.page.sendOrder = [slot] := by rw [page, h.page, empty]; rfl
  have requests : w.page.requests = need := by rw [page]
  have outstanding : w.page.outstanding = [] := by rw [page]
  have transfer : w.page.transfer = s.page.transfer := by rw [page, h.page]
  have fit : w.fit = s.fit := by rw [rest, h.fit]
  have traffic : w.traffic = s.traffic := by rw [rest, h.traffic]
  have store : w.store = v.store := by rw [rest]
  have noRunW : w.noRunToBegin := fun run => by rw [fit] at run ⊢; exact noRun run
  have unlocked : w.store.stories.map Story.unlocked = s.store.stories.map Story.unlocked := by
    rw [store]; exact h.unlocked
  have role : w.typesetRole = s.typesetRole := by
    have same : w.desk.record = v.desk.record := by rw [rest]
    rw [← h.typesetRole]
    simp only [State.typesetRole, same]
  have once (fuel : Nat) : State.settleFitsFor (fuel + 1) v = State.settleFitsFor fuel w := by
    rw [State.settleFitsFor, step]
  refine ⟨fun none_ => ?_, fun some_ free few distinct fresh stand => ?_⟩
  · have decided := State.fitCheck_decided planW rfl order (requests.trans none_) outstanding noRunW
      ((State.needing_congr unlocked _).trans none_) 510
    have settles : v.settleFits = State.settleFitsFor (510 + 1) w := once 511
    rw [settles]
    exact decided.of_before unlocked transfer traffic role (by rw [store]; exact h.released)
  · have can : Requestable { p with state := .fitting } need w.fit := by
      rw [fit]
      refine ⟨fun i mem => mem_needing mem, fun q mem => ?_, named_distinct (needing_sublist _) distinct⟩
      rw [← Bool.not_eq_true, FitEngine.hasSame_iff]
      rintro ⟨x, there, key, setting⟩
      refine fresh x there q ?_ key setting
      obtain ⟨i, _, placed⟩ := List.mem_filterMap.mp mem
      exact List.mem_of_getElem? placed
    have head := State.headPlan_alone order planW
    obtain ⟨n, t, few', steps, idle, walked⟩ := State.walk_settles (p := { p with state := .fitting }) rfl head requests some_
      (by rw [fit]; exact free) noRunW (by rw [fit]; exact few) can
      (fun q mem => by rw [State.story, store]; exact (h.stands q.key).mpr (stand q mem))
    have settles : v.settleFits = t := by
      show State.settleFitsFor (511 + 1) v = t
      rw [once]
      exact State.settleFitsFor_steps steps (by omega) idle
    rw [settles]
    have done := walked.pageWalked planW rfl order outstanding
    rw [fit] at done
    refine ⟨{ done with }, ?_, ?_⟩
    · rw [walked.others]
      exact traffic
    · rw [walked.page]
      exact transfer

end Follows

end Sys2Proof.Machine


namespace Sys2Proof.Machine

open Sys2Proof

section SendPage

variable {s v : State} {slot : Nat} {p : Plan}

/-- The windows of the placements' stories once SEND PAGE has settled. -/
theorem PageQueued.window (h : PageQueued slot p s v) {n : Nat} {w : Window} (low : n < 8)
    (here : s.screen.windows[n]? = some w) :
    ∃ u : Window, v.settle.screen.windows[n]? = some u ∧
      (¬(∃ q ∈ p.placements, w.key = some q.key ∧ ∃ r, s.story q.key = some r ∧ r.custody = .held) → u.shown = w.shown) ∧
      ((∃ q ∈ p.placements, w.key = some q.key ∧ ∃ r, s.story q.key = some r ∧ r.custody = .held) →
        u.shown = { w with mode := .read }.shown ∧
        (n < s.screenCount → w.mode = .edit → w.dirty.length = 21 →
          u =
            { w with
                mode := .read, dirty := false :: List.replicate 20 true,
                staging := .ready (v.settle.statusRow .read) })) := by
  have before := h.windows n low
  rw [here, Option.map_some] at before
  have held (o : Option Story) : o.any Story.isHeld = true ↔ ∃ r, o = some r ∧ r.custody = .held := by
    cases o <;> simp [Story.isHeld]
  simp only [held] at before
  have slips := State.settleSlips_slip v.settleFits
  have screen : v.settleFits.settleSlips.screen = v.screen := by
    rw [slips.rest]
    exact State.settleFits_screen v
  have record : v.settleFits.settleSlips.desk.record = v.desk.record := by
    rw [slips.rest]
    show v.settleFits.desk.record = _
    rw [(State.settleFits_follows v).deskRest]
  have count : v.settleFits.settleSlips.screenCount = s.screenCount := by
    rw [← h.screenCount]
    simp only [State.screenCount, record]
  unfold State.settle
  generalize v.settleFits.settleSlips = x at screen count
  rw [← screen] at before
  obtain ⟨u, there, shown⟩ := shown_get (State.settleRows_follows x).windows before
  refine ⟨u, there, fun free => ?_, fun is => ⟨?_, fun enabled edit rows => ?_⟩⟩
  · rw [shown, if_neg free]
  · rw [shown, if_pos is]
    exact Window.barred_shown w
  · rw [if_pos is] at before
    rw [State.settleRows_barred (by rw [count]; exact enabled) before edit rows] at there
    rw [(State.settleRows_follows x).statusRow]
    exact (Option.some.inj there).symm

section Answers

variable (low : slot ≤ 3) (plan : s.plan slot = some p) (planned : p.state = .planned)

include low plan planned

theorem State.sendPage_closed (closed : s.editionClosed p.edition = true) : s.sendPage slot = s.refuse .closed := by
  unfold State.sendPage
  rw [if_neg (not_test within_zero_iff low), plan, Option.filter_some, if_pos (decide_eq_true planned)]
  exact if_pos closed

theorem State.sendPage_fails {r : Result} {i : Nat} (isOpen : ¬s.editionClosed p.edition = true)
    (fails : s.sendFault p = some (r, i)) : s.sendPage slot = s.refuseField r (.placement, i) := by
  unfold State.sendPage
  rw [if_neg (not_test within_zero_iff low), plan, Option.filter_some, if_pos (decide_eq_true planned)]
  dsimp only
  rw [if_neg isOpen, fails]

theorem State.sendPage_queues (isOpen : ¬s.editionClosed p.edition = true) (fine : s.sendFault p = none) :
    s.sendPage slot = s.queuePage slot p := by
  unfold State.sendPage
  rw [if_neg (not_test within_zero_iff low), plan, Option.filter_some, if_pos (decide_eq_true planned)]
  dsimp only
  rw [if_neg isOpen, fine]

end Answers

theorem State.isClosed_iff (n : Nat) : s.editionClosed n = true ↔ 1 ≤ n ∧ s.clock.editions[n - 1]? = some .closed := by
  by_cases low : 1 ≤ n
  · simp [State.editionClosed_iff low, low]
  · simp [State.editionClosed, State.editionState, show n = 0 by omega]

/-- Behind a head nothing but the locks, the plan and its place in the send order changes. -/
theorem PageQueued.behind (h : PageQueued slot p s v) (idle : v.fitStep = none) :
    v.settle.store = v.store ∧ v.settle.page = v.page ∧ v.settle.traffic = s.traffic ∧ v.settle.fit = s.fit := by
  have rest := PageStands.ofSlips v
  have settled : v.settle = v.settleSlips.settleRows := by
    show v.settleFits.settleSlips.settleRows = _
    rw [State.settleFits_idle idle]
  refine ⟨?_, ?_, ?_, (State.settle_idle_fit idle).trans h.fit⟩
  · rw [settled, rest.store]
  · rw [settled, rest.page]
  · rw [settled, rest.traffic, h.traffic]

/-- As head the plan is decided, or its fits are asked for; it keeps its locks while it stands. -/
theorem PageQueued.heads (h : PageQueued slot p s v) (plan : s.plan slot = some p) (empty : s.page.sendOrder = [])
    (noRun : s.noRunToBegin) (distinct : (p.placements.map (·.key)).Nodup)
    (stand : ∀ x ∈ p.placements, s.story x.key ≠ none) :
    let need := s.needing p.placements
    (need = [] → PageDecided slot p s v.settle) ∧
    (need ≠ [] → s.fit.waiting = none → s.fit.queue.length ≤ 4 →
      (∀ q ∈ s.fit.queue, ∀ x ∈ p.placements, q.key = x.key → q.setting ≠ x.setting) →
      PageWalked slot p need s.fit.queue v.settle ∧ v.settle.traffic = s.traffic ∧
        v.settle.page.transfer = s.page.transfer) ∧
    (v.settle.page.sendOrder = [slot] →
      v.settle.store.stories = lockAll slot (p.placements.map (·.key)) s.store.stories) := by
  obtain ⟨decides, walks⟩ := h.settles plan empty noRun
  have rest : PageStands v.settleFits v.settle := PageStands.ofSlips v.settleFits
  have fit : v.settle.fit = v.settleFits.fit := by
    unfold State.settle
    rw [(State.settleRows_follows _).fit, State.settleSlips_fit]
  generalize v.settleFits = x at *
  refine ⟨fun none_ => (decides none_).settled rest, fun some_ free few fresh => ?_, fun alone => ?_⟩
  · obtain ⟨walked, traffic, transfer⟩ := walks some_ free few distinct fresh stand
    exact ⟨walked.congr rest.page fit, rest.traffic.trans traffic, (congrArg PageEngine.transfer rest.page).trans transfer⟩
  · have order : v.page.sendOrder = [slot] := by
      rw [h.page, empty]
      rfl
    have stays := ((HeadStands.kept slot v.store.stories).settleFits (s := v) (.inr ⟨order, rfl⟩)).settled v
    rcases stays with none_ | ⟨_, same⟩
    · rw [alone] at none_
      cases none_
    · rw [same, h.store]

end SendPage

theorem answeredDone_done {x : State} {c : CommandName} (d : ResponseData) (ready : x.desk.ready = false)
    (command : x.desk.command = some (nameByte c)) : answeredDone c d (x.done d) := by
  refine ⟨ready, command, ?_⟩
  show some (Response.mk (x.desk.command.getD 0#8) _ _ _) = _
  rw [command]
  rfl

/-- A command transferred leaves the fit queue and the page engine with nothing to do. -/
theorem State.takeTransfer_fitStep {s : State} {n : Byte} (idle : s.fitStep = none) : (s.takeTransfer n).fitStep = none := by
  obtain ⟨noRun, pageIdle⟩ := State.fitStep_eq_none.mp idle
  exact State.fitStep_eq_none.mpr ⟨noRun, State.pageIdle_congr pageIdle rfl rfl⟩

/-- Settles O44: the checks in turn; a queued plan is behind a head, or the head's fits are asked for and decided. -/
theorem pageSentOff : Obligations.PageSentOff := by
  unfold Obligations.PageSentOff
  intro slot s hears no
  have goes : exec (.sendPage slot) s = .next ((s.takeTransfer (nameByte .sendPage)).sendPage slot) :=
    congrArg Host.Outcome.next (State.command_of_hearsHost hears (by decide))
  refine ⟨fun high => ?_, fun low wrong => ?_, ?_⟩
  · exact goes.trans (congrArg Host.Outcome.next (if_pos (test_fails within_zero_iff (by omega))))
  · have none_ : ((s.takeTransfer (nameByte .sendPage)).plan slot).filter (fun p => decide (p.state = .planned)) = none := by
      rw [Option.filter_eq_none_iff]
      intro p there
      simpa using wrong p there
    refine goes.trans (congrArg Host.Outcome.next ((if_neg (not_test within_zero_iff low)).trans ?_))
    rw [none_]
    rfl
  · intro p low plan planned closed fails
    have isClosed : (s.takeTransfer (nameByte .sendPage)).editionClosed p.edition = true ↔ closed := State.isClosed_iff _
    refine ⟨fun h => ?_, fun check i q r isOpen earlier before placed fault => ?_, fun isOpen fine => ?_⟩
    · exact goes.trans (congrArg Host.Outcome.next (State.sendPage_closed (s := s.takeTransfer (nameByte .sendPage)) low plan planned (isClosed.mpr h)))
    · have first : (s.takeTransfer (nameByte .sendPage)).sendFault p = some (r, i) :=
        State.sendFault_first (s := s) earlier before placed fault
      exact goes.trans (congrArg Host.Outcome.next
        (State.sendPage_fails (s := s.takeTransfer (nameByte .sendPage)) low plan planned (fun h => isOpen (isClosed.mp h)) first))
    · have none_ : (s.takeTransfer (nameByte .sendPage)).sendFault p = none := State.sendFault_none (s := s) fine
      obtain ⟨v, queued, after⟩ := State.queuePage_queues (s := s.takeTransfer (nameByte .sendPage)) plan
      have stand : ∀ q ∈ p.placements, s.story q.key ≠ none := fun q mem absent =>
        fine 2 q _ mem (.inl ⟨rfl, absent, rfl⟩)
      have next : exec (.sendPage slot) s = .next (v.settle.done (.position s.page.sendOrder.length)) :=
        goes.trans (congrArg Host.Outcome.next
          ((State.sendPage_queues (s := s.takeTransfer (nameByte .sendPage)) low plan planned (fun h => isOpen (isClosed.mp h)) none_).trans queued))
      have follows := State.settle_follows v
      have windows {n : Nat} {w : Window} (low : n < 8) (here : s.screen.windows[n]? = some w) := after.window low here
      have behind := after.behind
      have heads (empty : s.page.sendOrder = []) (idle : s.fitStep = none)
          (distinct : (p.placements.map (·.key)).Nodup) :=
        after.heads plan empty (State.fitStep_eq_none.mp idle).1 distinct stand
      generalize v.settle = x at *
      have desk := follows.deskRest
      refine ⟨_, next, answeredDone_done _ ?_ ?_, ?_, ?_, ?_, ?_, ?_, ?_, fun some_ other idle => ?_, fun empty idle distinct => ?_,
        fun n w low here => ?_⟩
      · exact (congrArg Desk.ready desk).trans (congrArg Desk.ready after.desk)
      · exact (congrArg Desk.command desk).trans (congrArg Desk.command after.desk)
      · exact follows.stories.trans after.unlocked
      · exact follows.storeRest.trans (by rw [after.store]; rfl)
      · exact follows.pass.trans after.pass
      · exact follows.line.trans after.line
      · exact follows.clock.trans after.clock
      · exact follows.slots.trans (congrArg Traffic.slots after.traffic)
      · obtain ⟨store, page, traffic, fit⟩ := behind (after.idle some_ other (State.takeTransfer_fitStep idle))
        refine ⟨?_, page.trans after.page, ?_, traffic, fit⟩
        · show x.store.stories = _
          rw [store, after.store]
          rfl
        · exact (congrArg Desk.inputs desk).trans after.inputs
      · intro need
        obtain ⟨decides, walks, locks⟩ := heads empty idle distinct
        have rest := PageStands.done (.position s.page.sendOrder.length) x
        have before (h : PageDecided slot p (s.takeTransfer (nameByte .sendPage)) (x.done (.position s.page.sendOrder.length))) :
            PageDecided slot p s (x.done (.position s.page.sendOrder.length)) :=
          h.of_before (x := p.state) rfl rfl rfl rfl rfl
        refine ⟨fun none_ => before ((decides none_).settled rest), fun some_ free few fresh => ?_, locks⟩
        obtain ⟨walked, traffic, transfer⟩ := walks some_ free few fresh
        exact ⟨walked.congr rest.page rfl, traffic, transfer⟩
      · intro barred
        obtain ⟨u, there, free, hit⟩ := windows low here
        exact ⟨u, there, free, fun is => (hit is).1, fun is => (hit is).2⟩

end Sys2Proof.Machine


namespace Sys2Proof.Machine

open Sys2Proof

/-! ## Fits without a page requester (R103, R104) -/

/-- No request has the page engine as requester, and none waits. -/
def FitEngine.noPage (e : FitEngine) : Prop := e.waiting = none ∧ ∀ q ∈ e.queue, q.page = false

theorem FitEngine.withdrawPage_noPage (e : FitEngine) : e.withdrawPage.noPage := by
  unfold FitEngine.withdrawPage FitEngine.noPage
  dsimp only
  have off (l : List FitRequest) (keep : FitRequest → Bool) :
      ∀ q ∈ (l.map fun q => { q with page := false }).filter keep, q.page = false := by
    intro q mem
    obtain ⟨x, _, rfl⟩ := List.mem_map.mp (List.mem_of_mem_filter mem)
    rfl
  split
  · next empty => exact ⟨rfl, by simp [empty]⟩
  · split
    · refine ⟨rfl, fun q mem => ?_⟩
      rcases List.mem_cons.mp mem with rfl | mem
      · rfl
      · exact off _ _ q mem
    · exact ⟨rfl, off _ _⟩

/-- The keys of the requests that stay are keys of requests that were there. -/
theorem FitEngine.withdrawPage_keys (e : FitEngine) {q : FitRequest} (mem : q ∈ e.withdrawPage.queue) :
    ∃ x ∈ e.queue, x.key = q.key := by
  unfold FitEngine.withdrawPage at mem
  dsimp only at mem
  have off {l : List FitRequest} {keep : FitRequest → Bool}
      (mem : q ∈ (l.map fun q => { q with page := false }).filter keep) : ∃ x ∈ l, x.key = q.key := by
    obtain ⟨x, there, rfl⟩ := List.mem_map.mp (List.mem_of_mem_filter mem)
    exact ⟨x, there, rfl⟩
  split at mem
  · exact ⟨q, mem, rfl⟩
  · next head rest queue =>
    rw [queue]
    split at mem
    · rcases List.mem_cons.mp mem with rfl | mem
      · exact ⟨head, List.mem_cons_self, rfl⟩
      · obtain ⟨x, there, same⟩ := off mem
        exact ⟨x, List.mem_cons_of_mem _ there, same⟩
    · obtain ⟨x, there, same⟩ := off mem
      exact ⟨x, List.mem_cons_of_mem _ there, same⟩

section NoHead

variable {s t : State}

theorem FitEngine.noPage.leave {e : FitEngine} (h : e.noPage) : e.leave.noPage := by
  obtain ⟨free, host⟩ := h
  have form : e.leave = { e with queue := e.queue.tail, run := none } := by simp [FitEngine.leave, free]
  rw [form]
  exact ⟨free, fun q mem => host q (List.mem_of_mem_tail mem)⟩

theorem State.endRun_noPage {o : FitOutcome} (empty : s.page.sendOrder = []) (h : s.fit.noPage) :
    (s.endRun o).fit.noPage := by
  unfold State.endRun
  split
  · exact h
  · dsimp only
    have left : s.fit.leave.noPage := h.leave
    repeat' split
    · rw [State.tellPage_noHead (State.headPlan_empty (by exact empty))]
      exact left
    · rw [State.tellPage_noHead (State.headPlan_empty (by exact empty))]
      exact left
    · exact left
    · exact left

theorem State.beginRun_noPage {q : FitRequest} (empty : s.page.sendOrder = []) (h : s.fit.noPage) :
    (s.beginRun q).fit.noPage := by
  unfold State.beginRun
  split
  · exact State.endRun_noPage empty h
  · dsimp only
    repeat' split
    all_goals exact h

theorem State.fitStep_noHead (empty : s.page.sendOrder = []) (step : s.fitStep = some t) :
    ∃ q ∈ s.fit.queue, s.fit.run = none ∧ t = s.beginRun q := by
  by_cases noRun : s.noRunToBegin
  · rw [State.fitStep_page noRun, State.pageStep_noHead (State.headPlan_empty empty)] at step
    cases step
  · have ⟨idle, busy⟩ : s.fit.run = none ∧ s.fit.queue ≠ [] := by simpa [State.noRunToBegin] using noRun
    obtain ⟨q, l, queue⟩ := List.exists_cons_of_ne_nil busy
    rw [State.fitStep_begins idle queue] at step
    cases step
    exact ⟨q, by rw [queue]; exact List.mem_cons_self, idle, rfl⟩

/-- With no plan in the send order no page request appears. -/
theorem State.settleFits_noPage (empty : s.page.sendOrder = []) (h : s.fit.noPage) : s.settleFits.fit.noPage := by
  have all (fuel : Nat) (s : State) (empty : s.page.sendOrder = []) (h : s.fit.noPage) :
      (State.settleFitsFor fuel s).fit.noPage := by
    induction fuel generalizing s with
    | zero => exact h
    | succ fuel ih =>
      unfold State.settleFitsFor
      split
      · exact h
      · next t step =>
        obtain ⟨q, _, _, rfl⟩ := State.fitStep_noHead empty step
        exact ih _ (by rw [(PageStands.beginRun empty q).page]; exact empty) (State.beginRun_noPage empty h)
  exact all 512 s empty h

/-- With no plan in the send order and a record for each request, a run begins at most. -/
theorem State.settleFits_noHead (empty : s.page.sendOrder = []) (stand : ∀ q ∈ s.fit.queue, s.story q.key ≠ none) :
    ∃ run port, s.settleFits = { s with fit := { s.fit with run := run }, port := port } := by
  cases step : s.fitStep with
  | none => exact ⟨s.fit.run, s.port, State.settleFits_idle step⟩
  | some t =>
    obtain ⟨q, mem, _, rfl⟩ := State.fitStep_noHead empty step
    obtain ⟨run, port, begun⟩ := State.beginRun_runs (stand q mem)
    have idle : (s.beginRun q).fitStep = none := by
      refine State.fitStep_eq_none.mpr ⟨fun none_ => ?_, State.pageIdle_of_empty ?_⟩
      · rw [begun] at none_
        cases none_
      · rw [begun]
        exact empty
    exact ⟨some run, port, (State.settleFits_once step idle).trans begun⟩

end NoHead

/-! ## A plan cancelled (R125, R134, R136) -/

section Cancelled

variable {s t : State} {slot : Nat} {p : Plan}

/-- A SENDING plan ends with a PAGE DROP due: its locks, its transfer, its frames and its place in the send order. -/
theorem State.endPlan_sending {o : PlanState} {reason : DropReason} (plan : s.plan slot = some p)
    (sending : p.state = .sending) (drops : o.dropReason = some reason) :
    s.endPlan slot o =
      State.notified o
        ((State.stopTransfer reason p
          { s with
              store := { s.store with stories := unlockAll (p.placements.map (·.key)) s.store.stories },
              page := { s.page with plans := (s.page.ended slot o).plans } }).onPage fun e =>
          { e with sendOrder := e.sendOrder.filter (· ≠ slot) }) := by
  unfold State.endPlan
  simp only [plan, sending, PlanState.underWay, if_true, reduceCtorEq, if_false, releaseLocks_eq, State.endTransfer, drops]
  rfl

/-- What a stopped transfer leaves as it was. -/
theorem State.stopTransfer_rest (reason : DropReason) (p : Plan) (s : State) :
    let t := s.stopTransfer reason p
    t.store = s.store ∧ t.line = s.line ∧ t.pass = s.pass ∧ t.fit = s.fit ∧ t.clock = s.clock ∧ t.screen = s.screen ∧
      t.desk = s.desk ∧ t.traffic.slots = s.traffic.slots ∧ t.page.plans = s.page.plans ∧
      t.page.sendOrder = s.page.sendOrder := by
  unfold State.stopTransfer State.send
  dsimp only
  repeat' split
  all_goals exact ⟨rfl, rfl, rfl, rfl, rfl, rfl, rfl, rfl, rfl, rfl⟩

/-- Frames of an owner that wait are taken out of the queue. -/
theorem Traffic.withdraw_waiting {o : Owner} {t : Traffic}
    (waiting : ∀ e ∈ t.queue, e.owner = o → e.onLine = false ∧ e.withdrawing = false) :
    t.withdraw o = { t with queue := t.queue.filter fun e => e.owner ≠ o } := by
  have held {e : OutEntry} (mem : e ∈ t.queue) : (!(e.heldBy o && !e.onLine)) = decide (e.owner ≠ o) := by
    by_cases mine : e.owner = o
    · obtain ⟨wait, stays⟩ := waiting e mem mine
      simp [OutEntry.heldBy, mine, wait, stays]
    · simp [OutEntry.heldBy, mine]
  have others {e : OutEntry} (mem : e ∈ t.queue.filter fun e => e.owner ≠ o) :
      (if e.heldBy o then { e with withdrawing := true } else e) = e := by
    have notMine : e.owner ≠ o := by simpa using (List.mem_filter.mp mem).2
    simp [OutEntry.heldBy, notMine]
  unfold Traffic.withdraw
  rw [List.filter_congr fun e mem => held mem, List.map_congr_left fun e mem => others mem, List.map_id']

/-- Past its PAGE HEAD, its frame not on the line, a transfer stopped leaves a PAGE DROP in the queue (R134). -/
theorem State.stopTransfer_drops {reason : DropReason} (past : s.page.transfer.step ≠ .head)
    (waiting : ∀ e ∈ s.traffic.queue, e.owner = .page → e.onLine = false ∧ e.withdrawing = false) :
    (s.stopTransfer reason p).page.transfer = { Transfer.clear with drop := some reason } ∧
      (s.stopTransfer reason p).traffic.queue =
        (s.traffic.queue.filter fun e => e.owner ≠ .page) ++ [newEntry .page (pageDropFrame s.typesetRole p.page reason)] := by
  have withdrawn := Traffic.withdraw_waiting waiting
  have room : (s.traffic.withdraw .page).hasRoom .page = true := by
    refine Traffic.hasRoom_page _ ?_
    rw [withdrawn]
    simp [Traffic.held]
  have form : s.stopTransfer reason p =
      State.send .page (pageDropFrame s.typesetRole p.page reason)
        (((s.onPort (Port.abandon Purpose.isPage)).withdraw .page).onPage fun e =>
          { e with transfer := { Transfer.clear with drop := some reason }, ready := none }) :=
    (if_pos (.inl past)).trans (if_pos room)
  rw [form]
  refine ⟨?_, (State.send_room _ room).trans ?_⟩
  · unfold State.send
    split <;> rfl
  · show (s.traffic.withdraw .page).queue ++ _ = _
    rw [withdrawn]
    rfl

end Cancelled

end Sys2Proof.Machine


namespace Sys2Proof.Machine

open Sys2Proof

section Cancelled

variable {s t v : State} {slot : Nat} {p : Plan}

/-- What CANCEL PAGE leaves of a plan under way, before anything follows. -/
structure PlanCancelled (slot : Nat) (p : Plan) (s v : State) : Prop where
  plan : v.plan slot = some { p with state := .cancelled }
  order : v.page.sendOrder = s.page.sendOrder.filter (· ≠ slot)
  store : v.store = { s.store with stories := unlockAll (p.placements.map (·.key)) s.store.stories }
  line : v.line = s.line
  pass : v.pass = s.pass
  clock : v.clock = s.clock
  slots : v.traffic.slots = s.traffic.slots
  desk : v.desk = s.desk
  requests : ∀ q ∈ v.fit.queue, ∃ x ∈ s.fit.queue, x.key = q.key

theorem State.endPlan_cancels (plan : s.plan slot = some p)
    (underWay : p.state = .queued ∨ p.state = .fitting ∨ p.state = .sending) :
    PlanCancelled slot p s (s.endPlan slot .cancelled) := by
  have ends {x : State} (plans : x.page.plans = (s.page.ended slot .cancelled).plans) :
      x.plan slot = some { p with state := .cancelled } := State.ended_plan plan plans
  rcases underWay with queued | fitting | sending
  · rw [State.endPlan_queued plan queued]
    exact ⟨ends rfl, rfl, rfl, rfl, rfl, rfl, rfl, rfl, fun q mem => ⟨q, mem, rfl⟩⟩
  · rw [State.endPlan_fitting plan fitting]
    exact ⟨ends rfl, rfl, rfl, rfl, rfl, rfl, rfl, rfl, fun q mem => FitEngine.withdrawPage_keys _ mem⟩
  · rw [State.endPlan_sending (o := .cancelled) plan sending rfl]
    obtain ⟨store, line, pass, fit, clock, _, desk, slots, plans, order⟩ := State.stopTransfer_rest .cancelled p
      { s with
          store := { s.store with stories := unlockAll (p.placements.map (·.key)) s.store.stories },
          page := { s.page with plans := (s.page.ended slot .cancelled).plans } }
    refine ⟨ends plans, ?_, store, line, pass, clock, slots, desk, fun q mem => ⟨q, ?_, rfl⟩⟩
    · show (State.stopTransfer _ _ _).page.sendOrder.filter _ = _
      rw [order]
    · have there : q ∈ (State.stopTransfer .cancelled p _).fit.queue := mem
      rw [fit] at there
      exact there

theorem unlockAll_unlocked (keys : List Key) (l : List Story) :
    (unlockAll keys l).map Story.unlocked = l.map Story.unlocked := by
  unfold unlockAll
  rw [List.map_map]
  refine List.map_congr_left fun r _ => ?_
  show (if r.key ∈ keys then { r with lock := none } else r).unlocked = _
  split <;> rfl

theorem PlanCancelled.stands (h : PlanCancelled slot p s v) (k : Key) : v.story k ≠ none ↔ s.story k ≠ none := by
  have same := story_unlocked (s := s) (t := v) (by rw [h.store]; exact unlockAll_unlocked ..) k
  cases here : s.story k with
  | none => simp [here] at same; simp [same]
  | some r =>
    rw [here] at same
    obtain ⟨q, there, _⟩ := Option.map_eq_some_iff.mp same
    simp [there]

/-- The slip writer's request and the rows leave the desk unit. -/
theorem State.settle_desk (v : State) : v.settle.desk = v.settleFits.desk := by
  unfold State.settle
  rw [(State.settleRows_follows _).desk, (State.settleSlips_slip _).rest]

/-- The only plan in the send order, cancelled with a record for every queued fit, leaves the desk unit. -/
theorem PlanCancelled.desk_settled (h : PlanCancelled slot p s v) (alone : s.page.sendOrder = [slot])
    (stand : ∀ q ∈ s.fit.queue, s.story q.key ≠ none) : v.settle.desk = s.desk := by
  have empty : v.page.sendOrder = [] := by rw [h.order, alone]; simp
  obtain ⟨run, port, settled⟩ := State.settleFits_noHead empty fun q mem => by
    obtain ⟨x, there, same⟩ := h.requests q mem
    rw [h.stands, ← same]
    exact stand x there
  rw [State.settle_desk, settled]
  exact h.desk

/-- With the send order empty the page engine and the out queue stand. -/
theorem PlanCancelled.page_settled (h : PlanCancelled slot p s v) (alone : s.page.sendOrder = [slot]) :
    PageStands v v.settle := by
  have empty : v.page.sendOrder = [] := by rw [h.order, alone]; simp
  have rest : PageStands v.settleFits v.settle := PageStands.ofSlips v.settleFits
  exact (PageStands.settleFits empty).trans rest

theorem State.settle_fit (v : State) : v.settle.fit = v.settleFits.fit := by
  unfold State.settle
  rw [(State.settleRows_follows _).fit, State.settleSlips_fit]

/-- Behind a head the page engine has nothing to do when a queued plan goes. -/
theorem State.idle_behind {head : Nat} {rest : List Nat} (order : s.page.sendOrder = head :: rest) (other : head ≠ slot)
    (idle : s.fitStep = none) (fit : v.fit = s.fit) (page : v.page = s.page.ended slot .cancelled) : v.fitStep = none := by
  obtain ⟨noRun, pageIdle⟩ := State.fitStep_eq_none.mp idle
  have kept : v.page.sendOrder = head :: rest.filter (· ≠ slot) := by
    rw [page]
    simp [PageEngine.ended, order, other]
  have plan : v.plan head = s.plan head := by
    have same := State.onPlan_other (s := s) (f := fun p => { p with state := .cancelled }) (Ne.symm other)
    rw [← same]
    unfold State.plan
    rw [page]
    rfl
  have same : v.headPlan = s.headPlan := by
    unfold State.headPlan
    rw [order, kept]
    dsimp only
    rw [plan]
  refine State.fitStep_eq_none.mpr ⟨fun run => by rw [fit] at run ⊢; exact noRun run, fun n q there => ?_⟩
  rw [same] at there
  rw [fit, page]
  exact pageIdle n q there

theorem SlipFollows.withDesk (d : Desk) (h : SlipFollows s t) :
    SlipFollows { s with desk := d } { t with desk := d } where
  rest := congrArg (fun x : State => { x with desk := d }) h.rest
  deskPort := h.deskPort
  pagePort := h.pagePort
  fitPort := h.fitPort
  rowPort := h.rowPort
  busy := h.busy
  nothing := h.nothing
  waits := h.waits
  granted := h.granted

theorem RowsFollow.withDesk (d : Desk) (h : RowsFollow s t) : RowsFollow { s with desk := d } { t with desk := d } :=
  { h with desk := rfl }

/-- With nothing to do at the fit queue the slip writer may ask and rows may be staged. -/
theorem State.settle_idle (idle : v.fitStep = none) : v.settle = v.settleSlips.settleRows := by
  show v.settleFits.settleSlips.settleRows = _
  rw [State.settleFits_idle idle]

theorem State.settle_slips (idle : v.fitStep = none) (d : Desk) :
    ∃ u, SlipFollows { v with desk := d } u ∧ RowsFollow u { v.settle with desk := d } := by
  rw [State.settle_idle idle]
  exact ⟨_, (State.settleSlips_slip v).withDesk d, (State.settleRows_follows _).withDesk d⟩

end Cancelled

/-- Settles O45: the checks in turn; the plan is CANCELLED with what its state held. -/
theorem pageCancelled : Obligations.PageCancelled := by
  unfold Obligations.PageCancelled
  intro slot s hears no underWay
  have goes : exec (.cancelPage slot) s = .next ((s.takeTransfer (nameByte .cancelPage)).cancelPage slot) :=
    congrArg Host.Outcome.next (State.command_of_hearsHost hears (by decide))
  refine ⟨fun high => ?_, fun low wrong => ?_, ?_⟩
  · exact goes.trans (congrArg Host.Outcome.next (if_pos (test_fails within_zero_iff (by omega))))
  · refine goes.trans (congrArg Host.Outcome.next ((if_neg (not_test within_zero_iff low)).trans (if_pos ?_)))
    rw [Bool.not_eq_true', ← Bool.not_eq_true, State.slotBusy_iff]
    rintro ⟨p, plan, busy⟩
    exact wrong p plan busy
  · intro p low plan busy keys
    have slotBusy : (s.takeTransfer (nameByte .cancelPage)).slotBusy slot = true := (State.slotBusy_iff ..).mpr ⟨p, plan, busy⟩
    have ended := State.endPlan_cancels (s := s.takeTransfer (nameByte .cancelPage)) plan busy
    have next : exec (.cancelPage slot) s =
        .next ((((s.takeTransfer (nameByte .cancelPage)).endPlan slot .cancelled).settle).done .nothing) :=
      goes.trans (congrArg Host.Outcome.next ((if_neg (not_test within_zero_iff low)).trans
        (if_neg (by rw [slotBusy]; decide))))
    have queued (state : p.state = .queued) := State.endPlan_queued (o := .cancelled)
      (s := s.takeTransfer (nameByte .cancelPage)) plan state
    have fitting (state : p.state = .fitting) := State.endPlan_fitting (o := .cancelled)
      (s := s.takeTransfer (nameByte .cancelPage)) plan state
    have sending (state : p.state = .sending) := State.endPlan_sending (o := .cancelled)
      (s := s.takeTransfer (nameByte .cancelPage)) plan state rfl
    generalize (s.takeTransfer (nameByte .cancelPage)).endPlan slot .cancelled = v at *
    have slips (idle : v.fitStep = none) := State.settle_slips idle s.desk
    have stays (idle : v.fitStep = none) : PageStands v v.settle := by
      rw [State.settle_idle idle]
      exact PageStands.ofSlips v
    have fit (idle : v.fitStep = none) := State.settle_idle_fit idle
    have desk (idle : v.fitStep = none) : v.settle.desk = v.desk := by
      rw [State.settle_desk, State.settleFits_idle idle]
    have notices (alone : s.page.sendOrder = [slot]) (stand : ∀ q ∈ s.fit.queue, s.story q.key ≠ none) :=
      ended.desk_settled alone stand
    have noPage (alone : s.page.sendOrder = [slot]) (state : p.state = .fitting) : v.settle.fit.noPage := by
      rw [State.settle_fit]
      refine State.settleFits_noPage (by rw [ended.order]; simp [alone]) ?_
      rw [fitting state]
      exact FitEngine.withdrawPage_noPage _
    have rest (alone : s.page.sendOrder = [slot]) := ended.page_settled alone
    have follows := State.settle_follows v
    have out : OutOfOrder slot (some { p with state := .cancelled }) v.settle :=
      OutOfOrder.settled v <| (OutOfOrder.kept slot _).settleFits ⟨ended.plan, by rw [ended.order]; simp⟩
    generalize v.settle = x at *
    have deskRest := follows.deskRest
    have ready : x.desk.ready = false := (congrArg Desk.ready deskRest).trans (congrArg Desk.ready ended.desk)
    have command : x.desk.command = some (nameByte .cancelPage) :=
      (congrArg Desk.command deskRest).trans (congrArg Desk.command ended.desk)
    refine ⟨_, next, answeredDone_done _ ready command, out.1, fun n mem same => out.2 (same ▸ mem), ?_, ?_, ?_, ?_, ?_, ?_,
      fun head rest order other state idle => ?_, fun alone stand => ?_, fun alone state => ?_,
      fun alone state past waiting => ?_⟩
    · exact follows.stories.trans (by rw [ended.store]; exact unlockAll_unlocked ..)
    · exact follows.storeRest.trans (by rw [ended.store]; rfl)
    · exact follows.pass.trans ended.pass
    · exact follows.line.trans ended.line
    · exact follows.clock.trans ended.clock
    · exact follows.slots.trans ended.slots
    · have form := queued state
      have still := State.idle_behind (s := s) (v := v) order other idle
        (by rw [form]; rfl) (by rw [form]; rfl)
      have stays := stays still
      have page : x.page = { s.page with
          plans := s.page.plans.set slot (some { p with state := .cancelled })
          sendOrder := s.page.sendOrder.filter (· ≠ slot) } := by
        rw [stays.page, form]
        exact congrArg (fun l => { s.page with plans := l, sendOrder := s.page.sendOrder.filter (· ≠ slot) })
          (Told.modify_set s.page.plans slot p (fun p => { p with state := .cancelled }) (State.plan_slot plan))
      refine ⟨?_, page, ?_, ?_, ?_, ?_⟩
      · show x.store.stories = _
        rw [stays.store, ended.store]
        rfl
      · exact stays.traffic.trans (by rw [form]; rfl)
      · exact (fit still).trans (by rw [form]; rfl)
      · show ({ x.desk with
                  op := .idle, response := some (Response.mk (x.desk.command.getD 0#8) .done none .nothing) } : Desk) = _
        rw [(desk still).trans ended.desk]
        rfl
      · obtain ⟨u, slip, rows⟩ := slips still
        refine ⟨u, ?_, rows⟩
        have before : ({ v with desk := s.desk } : State) = { s with store := x.store, page := x.page } := by
          rw [stays.store, stays.page, form]
          rfl
        show SlipFollows { s with store := x.store, page := x.page } u
        rw [← before]
        exact slip
    · exact (congrArg Desk.notices (notices alone stand) :)
    · have rest := rest alone
      have form := fitting state
      obtain ⟨free, host⟩ := noPage alone state
      refine ⟨free, host, ?_, ?_, ?_⟩
      · show x.page.requests = []
        rw [rest.page, form]
        rfl
      · show x.page.outstanding = []
        rw [rest.page, form]
        rfl
      · show x.traffic = _
        rw [rest.traffic, form]
        rfl
    · have rest := rest alone
      have form := sending state
      obtain ⟨transfer, queue⟩ := State.stopTransfer_drops (p := p) (reason := .cancelled)
        (s := { s.takeTransfer (nameByte .cancelPage) with
          store := { s.store with stories := unlockAll (p.placements.map (·.key)) s.store.stories },
          page := { s.page with plans := (s.page.ended slot .cancelled).plans } }) past waiting
      refine ⟨?_, ?_⟩
      · show x.traffic.queue = _
        rw [rest.traffic, form]
        exact queue
      · show x.page.transfer = _
        rw [rest.page, form]
        exact transfer

end Sys2Proof.Machine


namespace Sys2Proof.Machine

open Sys2Proof

/-! ## The end of an attempt (R53 to R55) -/

section Attempt

variable {s : State} {i : Nat} {e : OutEntry} {o : Option Cause}

/-- The state with the out queue and the line counts given. -/
def State.withQueue (queue : List OutEntry) (counts : LineCounts) (s : State) : State :=
  { s with traffic := { s.traffic with queue := queue, counts := counts } }

section Row

variable (here : s.traffic.queue[i]? = some e) (onLine : e.onLine = true)
  (first : ∀ (j : Nat) (x : OutEntry), j < i → s.traffic.queue[j]? = some x → x.onLine = false)

include here onLine first

/-- The slot answers end the attempt of the entry on the line (R53). -/
theorem exec_slotEnd (taken refused : Bool) :
    exec (.slotEnd taken refused) s =
      .next (({ s with line := { s.line with quiet := 0, dominantRun := 0 } } : State).endAttemptOf i e
        (slotOutcome taken refused)) := by
  have sending : s.traffic.sending = true := List.any_eq_true.mpr ⟨e, List.mem_of_getElem? here, onLine⟩
  have entry : ({ s with line := { s.line with quiet := 0, dominantRun := 0 } } : State).onLineEntry = some (i, e) :=
    State.onLineEntry_of here onLine first
  show Host.Outcome.next (if s.traffic.sending = true then _ else _) = _
  rw [if_pos sending]
  show Host.Outcome.next (State.endAttempt _ { s with line := { s.line with quiet := 0, dominantRun := 0 } }) = _
  unfold State.endAttempt
  rw [entry]

/-- A 1 read as 0 after the arbitration field ends it (R39). -/
theorem exec_bitError {bit : Nat} (late : 8 ≤ bit) (one : s.ownBit e bit = some true) :
    exec (.bitError bit) s =
      .next (({ s with line := { s.line with quiet := 0, join := 0, recessive := 0 } } : State).endAttemptOf i e
        (some .bitError)) := by
  show Host.Outcome.next (s.bitError bit) = _
  unfold State.bitError
  rw [State.onLineEntry_of here onLine first]
  dsimp only
  rw [if_pos (by simp [late, one])]
  rfl

/-- Any other bit changes nothing. -/
theorem exec_bitError_other {bit : Nat} (other : ¬(8 ≤ bit ∧ s.ownBit e bit = some true)) :
    exec (.bitError bit) s = .next s := by
  show Host.Outcome.next (s.bitError bit) = _
  unfold State.bitError
  rw [State.onLineEntry_of here onLine first]
  dsimp only
  rw [if_neg (by simpa using other)]

end Row

theorem bump16_eq (n : Nat) : bump16 n = min 65535 (n + 1) := bump_eq ..

/-- The counts with one frame sent more, and with one failed more. -/
def LineCounts.oneSent (c : LineCounts) : LineCounts := { c with sent := min 65535 (c.sent + 1) }

def LineCounts.oneFailed (c : LineCounts) : LineCounts := { c with failed := min 65535 (c.failed + 1) }

theorem State.endAttemptOf_withdrawn (withdrawing : e.withdrawing = true) :
    s.endAttemptOf i e o =
      ((s.withQueue (s.traffic.queue.eraseIdx i)
        (if o = none then s.traffic.counts.oneSent else s.traffic.counts)).tellOwner (e.attempted o) .withdrawn).settle := by
  unfold State.endAttemptOf
  dsimp only
  rw [if_pos withdrawing]
  split
  · simp only [LineCounts.oneSent, ← bump16_eq]
    rfl
  · rfl

theorem State.endAttemptOf_delivered (stays : e.withdrawing = false) :
    s.endAttemptOf i e none =
      ((s.withQueue (s.traffic.queue.eraseIdx i) s.traffic.counts.oneSent).tellOwner (e.attempted none) .delivered).settle := by
  unfold State.endAttemptOf
  dsimp only
  rw [if_neg (by simp [stays]), LineCounts.oneSent, ← bump16_eq]
  rfl

theorem modify_const {α : Type} {l : List α} {i : Nat} {a : α} (here : l[i]? = some a) (b : α) :
    l.modify i (fun _ => b) = l.set i b := by
  refine List.ext_getElem? fun j => ?_
  obtain ⟨low, _⟩ := List.getElem?_eq_some_iff.mp here
  rw [List.getElem?_modify, List.getElem?_set]
  by_cases same : i = j
  · subst same
    simp [low]
  · simp [same]

theorem State.endAttemptOf_again {c : Cause} (stays : e.withdrawing = false) (left : e.attempts < s.retryLimit)
    (here : s.traffic.queue[i]? = some e) :
    s.endAttemptOf i e (some c) =
      ((s.withQueue (s.traffic.queue.set i { e.attempted (some c) with lastCause := some c })
        s.traffic.counts).tellOwner { e.attempted (some c) with lastCause := some c } (.attempt c)).settle := by
  unfold State.endAttemptOf
  dsimp only
  rw [if_neg (by simp [stays]), if_pos (by show e.attempts + 1 < _; omega)]
  exact congrArg (fun q => ((s.withQueue q s.traffic.counts).tellOwner
    { e.attempted (some c) with lastCause := some c } (.attempt c)).settle) (modify_const here _)

theorem State.endAttemptOf_failed {c : Cause} (stays : e.withdrawing = false) (spent : s.retryLimit ≤ e.attempts) :
    s.endAttemptOf i e (some c) =
      ((s.withQueue (s.traffic.queue.eraseIdx i) s.traffic.counts.oneFailed).tellOwner
        { e.attempted (some c) with lastCause := some c } (.failed c)).settle := by
  unfold State.endAttemptOf
  dsimp only
  rw [if_neg (by simp [stays]), if_neg (by show ¬e.attempts + 1 < _; omega), LineCounts.oneFailed, ← bump16_eq]
  rfl

end Attempt

/-! ## What follows while the page engine rests -/

section Rests

variable {s t : State}

/-- While the head plan is neither QUEUED nor FITTING a read of the page engine stands, and the page engine with it. -/
structure PageKept (s t : State) : Prop where
  stands : PageStands s t
  busy : ∀ a, s.port.busy = some a → t.port.busy = some a
  waits : ∀ a, s.port.page = some a → t.port.page = some a

theorem PageKept.trans {u : State} (h : PageKept s t) (k : PageKept t u) : PageKept s u :=
  ⟨h.stands.trans k.stands, fun a here => k.busy a (h.busy a here), fun a here => k.waits a (h.waits a here)⟩

theorem State.settleFits_kept (rests : s.pageRests) : PageKept s s.settleFits := by
  have fits := FitsFollow.settleFits rests
  exact ⟨fits.stands, fits.busy, fun a here => (fits.waits .page nofun).trans here⟩

theorem State.settle_kept (rests : s.pageRests) : PageKept s s.settle := by
  refine (State.settleFits_kept rests).trans ?_
  unfold State.settle
  have slips := State.settleSlips_slip s.settleFits
  have rows := State.settleRows_follows s.settleFits.settleSlips
  exact ⟨PageStands.ofSlips _, fun a here => rows.busy a (slips.busy a here),
    fun a here => rows.pagePort.trans (slips.pagePort.trans here)⟩

end Rests

end Sys2Proof.Machine


namespace Sys2Proof.Machine

open Sys2Proof

/-! ## The frame of the present step (R131) -/

section Prepare

variable {s : State} {slot : Nat} {p : Plan} {t : Transfer} {q : Placement}

section Steps

variable (found : s.page.transfer.plan.bind s.plan = some p)

include found

theorem State.preparePage_text {r : Story} (step : s.page.transfer.step = .text)
    (placed : p.placements[s.page.transfer.placement]? = some q) (stands : s.story q.key = some r) :
    s.preparePage =
      (s.onPage fun e => { e with transfer := { e.transfer with frame := .preparing } }).requestChain
        .pageRead r.chain r.length s.page.transfer.chunk := by
  unfold State.preparePage
  dsimp only
  rw [found]
  dsimp only
  rw [step]
  dsimp only
  rw [placed, Option.bind_some, stands]

theorem State.preparePage_placement {f : PlacementResult} (step : s.page.transfer.step = .placement)
    (placed : p.placements[s.page.transfer.placement]? = some q) (result : q.result = some f) :
    s.preparePage = s.sendPageFrame (placementFrame s.typesetRole s.page.transfer.placement q f) := by
  have result : q.found = f := by rw [Placement.found, result]; rfl
  unfold State.preparePage
  dsimp only
  rw [found]
  dsimp only
  rw [step]
  dsimp only
  rw [placed, ← result]

theorem State.preparePage_finish (step : s.page.transfer.step = .finish) :
    s.preparePage = s.sendPageFrame (pageEndFrame s.typesetRole p.page s.page.transfer.sent) := by
  unfold State.preparePage
  dsimp only
  rw [found]
  dsimp only
  rw [step]

end Steps

/-- The page engine's next frame, after the transfer record `t` is set. -/
def State.transferOn (t : Transfer) (s : State) : State := (s.onPage fun e => { e with transfer := t }).preparePage

/-- The state with a frame of the page engine queued. -/
def State.pageQueued (t : Transfer) (f : OutFrame) (s : State) : State :=
  { s with
      page := { s.page with transfer := { t with frame := .queued } },
      traffic := { s.traffic with queue := s.traffic.queue ++ [newEntry .page f] } }

theorem State.sendPageFrame_eq (f : OutFrame) (free : s.traffic.held .page = 0) :
    s.sendPageFrame f = s.pageQueued s.page.transfer f := by
  unfold State.sendPageFrame State.send
  rw [if_pos (Traffic.hasRoom_page _ free)]
  rfl

variable (mine : t.plan = some slot) (plan : s.plan slot = some p) (free : s.traffic.held .page = 0)

include mine plan

/-- The state that the transfer record is set in names the plan still. -/
theorem State.transferOn_plan :
    (s.onPage fun e => { e with transfer := t }).page.transfer.plan.bind (s.onPage fun e => { e with transfer := t }).plan =
      some p := by
  show t.plan.bind s.plan = _
  rw [mine]
  exact plan

theorem State.transferOn_text {r : Story} (step : t.step = .text) (placed : p.placements[t.placement]? = some q)
    (stands : s.story q.key = some r) :
    s.transferOn t =
      (s.onPage fun e => { e with transfer := { t with frame := .preparing } }).onPort (Port.request
        { purpose := .pageRead, block := r.chain.getD t.chunk 0, first := 0, count := min 32 (r.length - 32 * t.chunk),
          aside := false }) :=
  State.preparePage_text (State.transferOn_plan mine plan) step placed stands

include free

theorem State.transferOn_placement {f : PlacementResult} (step : t.step = .placement)
    (placed : p.placements[t.placement]? = some q) (result : q.result = some f) :
    s.transferOn t = s.pageQueued t (placementFrame s.typesetRole t.placement q f) :=
  (State.preparePage_placement (State.transferOn_plan mine plan) step placed result).trans
    (State.sendPageFrame_eq (s := s.onPage fun e => { e with transfer := t }) _ free)

theorem State.transferOn_finish (step : t.step = .finish) :
    s.transferOn t = s.pageQueued t (pageEndFrame s.typesetRole p.page t.sent) :=
  (State.preparePage_finish (State.transferOn_plan mine plan) step).trans
    (State.sendPageFrame_eq (s := s.onPage fun e => { e with transfer := t }) _ free)

end Prepare

/-! ## A page frame delivered (R132) -/

section Delivered

variable {s w x : State} {slot i : Nat} {p : Plan} {e : OutEntry}

/-- What the page engine is told of a page frame delivered, once the fit queue has followed. -/
theorem State.tellOwner_pageDelivered (mine : e.owner = .page) (notDrop : e.frame.kind ≠ .pageDrop)
    (transfer : s.page.transfer.plan = some slot) (plan : s.plan slot = some p) :
    s.tellOwner (e.attempted none) .delivered = (s.pageDelivered slot p e.frame.kind).settleFits := by
  have owner : (e.attempted none).owner = .page := mine
  unfold State.tellOwner
  rw [owner]
  show s.pageTold e.frame.kind .delivered = _
  unfold State.pageTold
  dsimp only
  rw [if_neg notDrop]
  unfold State.planTold
  rw [transfer]
  dsimp only
  rw [plan]

/-- The head plan SENDING, the page engine has nothing to follow. -/
theorem State.pageRests_sending (head : s.page.sendOrder.head? = some slot) (plan : s.plan slot = some p)
    (sending : p.state = .sending) : s.pageRests := by
  intro n q here
  rw [State.headPlan_iff.mpr ⟨head, plan⟩] at here
  cases here
  rw [sending]
  exact ⟨nofun, nofun⟩

/-- The two settlements after a page frame's delivery keep what the page engine did. -/
theorem State.pageRests_settled (rests : x.pageRests) :
    PageKept x x.settleFits.settle ∧ SettleFollows x x.settleFits.settle := by
  have once := State.settleFits_kept rests
  exact ⟨once.trans (State.settle_kept (State.pageRests_congr rests once.stands.page)),
    (State.settleFits_follows x).trans (State.settle_follows _)⟩

end Delivered

end Sys2Proof.Machine


namespace Sys2Proof.Machine

open Sys2Proof

theorem placementFlags_eq (flags : FitFlags) (overset : Nat) :
    placementFlags flags (decide (0 < overset)) =
      flags.estimated.toNat + 2 * flags.overwide.toNat + 4 * flags.saturated.toNat + if 0 < overset then 8 else 0 := by
  unfold placementFlags
  by_cases more : 0 < overset <;> simp [more]

section Delivered

variable {s w : State} {slot i : Nat} {p : Plan} {e : OutEntry} {t : Transfer}

/-- What the delivery of a page frame leads to: the transfer record, the frames queued after it, and what follows. -/
structure PageLed (t : Transfer) (l : List OutEntry) (s u : State) : Prop where
  page : u.page = { s.page with transfer := t }
  traffic : u.traffic = { s.traffic with queue := s.traffic.queue ++ l }
  follows : SettleFollows { s with page := { s.page with transfer := t }, traffic := u.traffic } u

variable (head : s.page.sendOrder.head? = some slot) (plan : s.plan slot = some p) (sending : p.state = .sending)

include head plan sending

/-- A frame queued after a delivery. -/
theorem State.pageQueued_led (f : OutFrame) :
    PageLed { t with frame := .queued } [newEntry .page f] s (s.pageQueued t f).settleFits.settle := by
  have rests : (s.pageQueued t f).pageRests := State.pageRests_sending head plan sending
  obtain ⟨kept, follows⟩ := State.pageRests_settled rests
  refine ⟨kept.stands.page, kept.stands.traffic, ?_⟩
  rw [kept.stands.traffic]
  exact follows

/-- A read asked for after a delivery, on the port or waiting. -/
theorem State.pageRead_led {a : Access} (purpose : a.purpose = .pageRead) :
    let x := (s.onPage fun e => { e with transfer := t }).onPort (Port.request a)
    PageLed t [] s x.settleFits.settle ∧
      (x.settleFits.settle.port.busy = some a ∨ x.settleFits.settle.port.page = some a) := by
  intro x
  have rests : x.pageRests := State.pageRests_sending head plan sending
  obtain ⟨kept, follows⟩ := State.pageRests_settled rests
  refine ⟨⟨kept.stands.page, ?_, ?_⟩, ?_⟩
  · rw [kept.stands.traffic]
    show s.traffic = _
    simp
  · rw [kept.stands.traffic]
    exact (SettleFollows.request a _).trans follows
  · have asked := Port.request_asked a s.port
    rw [purpose] at asked
    exact asked.imp (kept.busy a) (kept.waits a)

end Delivered

section Steps

variable {s : State} {slot : Nat} {p : Plan} {q : Placement} {r : Story} {tr : Transfer} (own : s.page.transfer = tr)

include own

theorem State.pageDelivered_head :
    s.pageDelivered slot p .pageHead = s.transferOn { tr with step := .placement, placement := 0 } := by
  subst own
  rfl

theorem State.pageDelivered_text :
    s.pageDelivered slot p .setText =
      s.transferOn (if tr.left ≤ 1 then
          ({ tr with sent := tr.sent + 1, left := tr.left - 1, chunk := tr.chunk + 1 } : Transfer).after p.placements.length
        else { tr with sent := tr.sent + 1, left := tr.left - 1, chunk := tr.chunk + 1 }) := by
  subst own
  have last : s.page.transfer.left - 1 = 0 ↔ s.page.transfer.left ≤ 1 := by omega
  show s.transferOn (if s.page.transfer.left - 1 = 0 then _ else _) = _
  simp only [last]

theorem State.pageDelivered_placement (placed : p.placements[tr.placement]? = some q) (stands : s.story q.key = some r) :
    s.pageDelivered slot p .placement =
      s.transferOn (if r.length = 0 then
          ({ tr with left := (r.length + 31) / 32, chunk := 0 } : Transfer).after p.placements.length
        else { tr with left := (r.length + 31) / 32, chunk := 0, step := .text }) := by
  subst own
  have length : (((p.placements[s.page.transfer.placement]?).bind fun q => s.story q.key).map (·.length)).getD 0 =
      r.length := by
    rw [placed, Option.bind_some, stands]
    rfl
  have blocks : blocksFor r.length = 0 ↔ r.length = 0 := by
    rw [← Nat.le_zero, blocksFor_le_iff]
    omega
  unfold State.pageDelivered
  dsimp only
  rw [length]
  show s.transferOn (if blocksFor r.length = 0 then _ else _) = _
  simp only [blocks]
  rfl

end Steps

/-- The state a delivery of the frame at index `i` leaves, before its owner is told. -/
def State.deliveredAt (i : Nat) (s : State) : State :=
  ({ s with line := { s.line with quiet := 0, dominantRun := 0 } } : State).withQueue (s.traffic.queue.eraseIdx i)
    s.traffic.counts.oneSent

section Row

variable {s : State} {i slot : Nat} {e : OutEntry} {p : Plan}

/-- The delivery of a page frame. -/
theorem exec_pageDelivered (here : s.traffic.queue[i]? = some e) (onLine : e.onLine = true) (mine : e.owner = .page)
    (stays : e.withdrawing = false)
    (others : ∀ (j : Nat) (x : OutEntry), j ≠ i → s.traffic.queue[j]? = some x → x.onLine = false ∧ x.owner ≠ .page)
    (transfer : s.page.transfer.plan = some slot) (plan : s.plan slot = some p) (notDrop : e.frame.kind ≠ .pageDrop) :
    exec (.slotEnd true false) s = .next (((s.deliveredAt i).pageDelivered slot p e.frame.kind).settleFits.settle) := by
  rw [exec_slotEnd here onLine (fun j x low at_j => (others j x (Nat.ne_of_lt low) at_j).1)]
  show Host.Outcome.next (State.endAttemptOf i e none _) = _
  rw [State.endAttemptOf_delivered stays]
  exact congrArg (fun x : State => Host.Outcome.next x.settle)
    (State.tellOwner_pageDelivered (s := s.deliveredAt i) mine notDrop transfer plan)

theorem State.deliveredAt_free
    (others : ∀ (j : Nat) (x : OutEntry), j ≠ i → s.traffic.queue[j]? = some x → x.onLine = false ∧ x.owner ≠ .page) :
    (s.deliveredAt i).traffic.held .page = 0 := by
  have none_ : ((s.traffic.queue.eraseIdx i).filter fun e => decide (e.owner = .page)) = [] := by
    rw [List.filter_eq_nil_iff]
    intro x mem
    obtain ⟨j, at_j⟩ := List.getElem?_of_mem mem
    have there : (s.traffic.queue.eraseIdx i)[j]? = _ := List.getElem?_eraseIdx ..
    rw [at_j] at there
    have other : x.owner ≠ .page := by
      split at there
      · next low => exact (others j x (by omega) there.symm).2
      · next high => exact (others (j + 1) x (by omega) there.symm).2
    simpa using other
  show ((s.traffic.queue.eraseIdx i).filter fun e => decide (e.owner = .page)).length = 0
  rw [none_]
  rfl

end Row

/-! ## A SENDING plan that ends by damage (R131, R134) -/

theorem State.endRead_record (a : Access) (upsets : List Upset) (s : State) :
    (s.endRead a upsets).1.desk.record = s.desk.record := by
  have ended : s.endAccess.desk.record = s.desk.record := by
    unfold State.endAccess
    dsimp only
    split <;> rfl
  obtain ⟨_, _, _, _, _, _, _, _, desk⟩ := s.endAccess.readBlock_rest a upsets
  have desk : (s.endRead a upsets).1.desk = _ := desk
  rw [desk]
  exact ended

section Damaged

variable {s : State} {slot : Nat} {p : Plan}

/-- Past its PAGE HEAD, its frame not in the queue, a SENDING plan ends by damage with its PAGE DROP. -/
theorem State.endPlan_damaged (plan : s.plan slot = some p) (sending : p.state = .sending)
    (past : s.page.transfer.step ≠ .head) (free : s.traffic.held .page = 0) :
    let t := s.endPlan slot (.failed .damaged)
    t.plan slot = some { p with state := .failed .damaged } ∧ slot ∉ t.page.sendOrder ∧
      t.page.transfer.drop = some .damaged ∧ t.desk.latched .pageFailed = true ∧
      newEntry .page (pageDropFrame s.typesetRole p.page .damaged) ∈ t.traffic.queue ∧
      t.pass = s.pass ∧ t.line = s.line ∧ t.clock = s.clock ∧ t.traffic.slots = s.traffic.slots := by
  intro t
  have form : t = _ := State.endPlan_sending (o := .failed .damaged) plan sending rfl
  rw [form]
  have waiting : ∀ e ∈ s.traffic.queue, e.owner = .page → e.onLine = false ∧ e.withdrawing = false := fun e mem mine =>
    absurd (List.length_eq_zero_iff.mp free) (List.ne_nil_of_mem (List.mem_filter.mpr ⟨mem, decide_eq_true mine⟩))
  obtain ⟨transfer, queue⟩ := State.stopTransfer_drops (p := p) (reason := .damaged)
    (s := { s with
      store := { s.store with stories := unlockAll (p.placements.map (·.key)) s.store.stories },
      page := { s.page with plans := (s.page.ended slot (.failed .damaged)).plans } }) past waiting
  obtain ⟨_, line, pass, _, clock, _, _, slots, plans, _⟩ := State.stopTransfer_rest .damaged p
    { s with
      store := { s.store with stories := unlockAll (p.placements.map (·.key)) s.store.stories },
      page := { s.page with plans := (s.page.ended slot (.failed .damaged)).plans } }
  refine ⟨State.ended_plan (o := .failed .damaged) plan plans, ?_, congrArg Transfer.drop transfer,
    State.notified_latched rfl _, ?_, pass, line, clock, slots⟩
  · intro mem
    have other : slot ≠ slot := by simpa using (List.mem_filter.mp mem).2
    exact other rfl
  · show _ ∈ (State.stopTransfer _ _ _).traffic.queue
    rw [queue]
    exact List.mem_append_right _ List.mem_cons_self

end Damaged

/-- Settles O46: a page frame delivered moves the transfer on, and a page read builds a SET TEXT or ends the plan. -/
theorem pageReadServed : Obligations.PageReadServed := by
  refine ⟨?delivered, ?read⟩
  case delivered =>
    intro i e slot p s here onLine mine stays others transfer plan sending head role tr gone leads sends reads placement
      after
    have goes := exec_pageDelivered here onLine mine stays others transfer plan
    have free := State.deliveredAt_free others
    have planW : (s.deliveredAt i).plan slot = some p := plan
    have headW : (s.deliveredAt i).page.sendOrder.head? = some slot := head
    have led {t : Transfer} {l : List OutEntry} {x : State} (next : exec (.slotEnd true false) s = .next x)
        (h : PageLed t l (s.deliveredAt i) x) : leads t l x := ⟨next, h.page, h.traffic, h.follows⟩
    have story (k : Key) : (s.deliveredAt i).story k = s.story k := rfl
    have role' : (s.deliveredAt i).typesetRole = s.typesetRole := rfl
    have tr' : (s.deliveredAt i).page.transfer = tr := rfl
    generalize s.deliveredAt i = w at *
    have queues {t : Transfer} {f : OutFrame} (next : exec (.slotEnd true false) s = .next ((w.transferOn t).settleFits.settle))
        (form : w.transferOn t = w.pageQueued t f) : ∃ x, leads { t with frame := .queued } [newEntry .page f] x := by
      rw [form] at next
      exact ⟨_, led next (State.pageQueued_led headW planW sending f)⟩
    have places {u : Transfer} {n : Nat} (own : u.plan = some slot)
        (next : exec (.slotEnd true false) s =
          .next ((w.transferOn { u with step := .placement, placement := n }).settleFits.settle)) : placement u n := by
      intro q f placed result
      have form := State.transferOn_placement (s := w) (t := { u with step := .placement, placement := n }) own planW free rfl
        placed result
      have queued := queues next form
      unfold placementFrame at queued
      rw [placementFlags_eq, role'] at queued
      exact queued
    have asks {u : Transfer} {q : Placement} {r : Story} {n : Nat} (own : u.plan = some slot) (step : u.step = .text)
        (chunk : u.chunk = n)
        (placed : p.placements[u.placement]? = some q) (stands : s.story q.key = some r)
        (next : exec (.slotEnd true false) s = .next ((w.transferOn u).settleFits.settle)) : reads u r n := by
      subst chunk
      rw [State.transferOn_text own planW step placed ((story _).trans stands)] at next
      obtain ⟨led', asked⟩ := State.pageRead_led (s := w) (t := { u with frame := .preparing }) (a :=
        { purpose := .pageRead, block := r.chain.getD u.chunk 0, first := 0, count := min 32 (r.length - 32 * u.chunk),
          aside := false }) headW planW sending rfl
      exact ⟨_, led next led', _, rfl, asked⟩
    have follows {u : Transfer} (own : u.plan = some slot) (same : u.placement = tr.placement)
        (next : exec (.slotEnd true false) s = .next ((w.transferOn (u.after p.placements.length)).settleFits.settle)) :
        after u := by
      unfold Transfer.after at next
      refine ⟨fun more => places own ?_, fun last => ?_⟩
      · rw [if_pos (by omega), same] at next
        exact next
      · rw [if_neg (by omega)] at next
        have queued := queues next (State.transferOn_finish (t := { u with step := .finish }) own planW free rfl)
        rw [role'] at queued
        exact queued
    refine ⟨fun kind => ?_, fun q r placed stands => ⟨fun kind => ?_, fun kind step => ?_⟩⟩
    · have next := goes (by rw [kind]; nofun)
      rw [kind, State.pageDelivered_head tr'] at next
      exact places transfer next
    · intro u
      have next := goes (by rw [kind]; nofun)
      rw [kind, State.pageDelivered_placement tr' placed ((story _).trans stands)] at next
      refine ⟨fun text => ?_, fun none_ => ?_⟩
      · rw [if_neg (by omega)] at next
        exact asks (u := { u with step := .text }) transfer rfl rfl placed stands next
      · rw [if_pos none_] at next
        exact follows transfer rfl next
    · intro u
      have next := goes (by rw [kind]; nofun)
      rw [kind, State.pageDelivered_text tr'] at next
      refine ⟨fun more => ?_, fun last => ?_⟩
      · rw [if_neg (by omega)] at next
        exact asks transfer step rfl placed stands next
      · rw [if_pos last] at next
        exact follows transfer rfl next
  case read =>
    intro a upsets slot p s busy purpose mine transfer step plan sending free op x role tr
    have serving : s.serving Purpose.isPage = some a := by simp [State.serving, busy, purpose, Purpose.isPage]
    have served := State.endRead_servedOn (a := a) (upsets := upsets) op
    have free' : x.1.traffic.held .page = 0 := by rw [served.traffic]; exact free
    have goes : exec (.pageReadCompletion upsets) s = .next
        (if x.2.damaged = true then (x.1.endPlan slot (.failed .damaged)).settleFits
        else x.1.sendPageFrame (setTextFrame s.typesetRole tr.placement tr.chunk x.2.codes)) := by
      show Host.Outcome.next (s.pageReadCompleted upsets) = _
      unfold State.pageReadCompleted
      rw [serving]
      dsimp only
      rw [mine, if_neg Bool.false_ne_true, served.page, transfer]
    refine ⟨fun fine => ?_, fun damaged => ?_⟩
    · rw [goes, fine, if_neg Bool.false_ne_true, State.sendPageFrame_eq _ free', State.pageQueued, served.page, served.traffic]
      rfl
    · rw [goes, damaged, if_pos rfl]
      have planX : x.1.plan slot = some p := by rw [State.plan, served.page]; exact plan
      obtain ⟨failed, out, drop, notice, frame, pass, line, clock, slots⟩ := State.endPlan_damaged planX sending
        (by rw [served.page, step]; nofun) free'
      have follows := State.settleFits_follows (x.1.endPlan slot (.failed .damaged))
      have outOf := (OutOfOrder.kept slot (some { p with state := .failed .damaged })).settleFits ⟨failed, out⟩
      have role' : x.1.typesetRole = s.typesetRole := by
        have record : x.1.desk.record = s.desk.record := State.endRead_record a upsets s
        simp only [State.typesetRole, record]
      refine ⟨_, rfl, outOf.1, fun n mem same => outOf.2 (same ▸ mem), (pendingDrop_kept (some .damaged)).settleFits drop,
        follows.notices _ notice, ?_, follows.pass.trans (pass.trans served.pass), follows.line.trans (line.trans served.line),
        follows.clock.trans (clock.trans served.clock), ?_⟩
      · obtain ⟨l, queue, _⟩ := follows.queue
        rw [queue]
        rw [role'] at frame
        exact List.mem_append_left _ frame
      · rw [follows.slots, slots, served.traffic]

end Sys2Proof.Machine


namespace Sys2Proof.Machine

open Sys2Proof

/-! ## Which pass of a story is under way (R66) -/

section PassOf

variable {s : State} {k : Key} {n : Nat} {p : Pass}

theorem passing_iff {o : Option Pass} :
    o.any (fun p => decide (p.key = k) && p.underWay) = true ↔ ∃ p, o = some p ∧ p.key = k ∧ p.phase ≠ .ended := by
  cases o with
  | none => simp
  | some p => simp [Pass.underWay]

theorem State.passOf_eq (passes : s.passes k n p) : s.passOf k = some (n, p) := by
  obtain ⟨here, key, underWay, lower⟩ := passes
  have index : indexWhere (fun o : Option Pass => o.any fun p => decide (p.key = k) && p.underWay) s.pass.outbound =
      some n := by
    refine indexWhere_eq_some.mpr
      ⟨⟨some p, here, passing_iff.mpr ⟨p, rfl, key, underWay⟩⟩, fun m low o there => ?_⟩
    refine Bool.eq_false_iff.mpr fun passing => ?_
    obtain ⟨q, rfl, same, goesOn⟩ := passing_iff.mp passing
    exact goesOn (lower m q low there same)
  unfold State.passOf
  rw [index, Option.bind_some, State.outbound, Told.getD_some here]
  rfl

theorem State.passOf_eq_none
    (ended : ∀ (n : Nat) (p : Pass), s.pass.outbound[n]? = some (some p) → p.key = k → p.phase = .ended) :
    s.passOf k = none := by
  have index : indexWhere (fun o : Option Pass => o.any fun p => decide (p.key = k) && p.underWay) s.pass.outbound =
      none := by
    refine indexWhere_eq_none.mpr fun o mem => ?_
    refine Bool.eq_false_iff.mpr fun passing => ?_
    obtain ⟨q, rfl, same, goesOn⟩ := passing_iff.mp passing
    obtain ⟨m, there⟩ := List.mem_iff_getElem?.mp mem
    exact goesOn (ended m q there same)
  unfold State.passOf
  rw [index]
  rfl

end PassOf

/-! ## An entry changed -/

section Entry

variable {s : State} {n : Nat} {p q : Pass}

/-- Outbound entry `n` holds `p`. -/
def State.withEntry (n : Nat) (p : Pass) (s : State) : State :=
  { s with pass := { s.pass with outbound := s.pass.outbound.set n (some p) } }

theorem State.onOutbound_eq (here : s.pass.outbound[n]? = some (some p)) (f : Pass → Pass) :
    s.onOutbound n f = s.withEntry n (f p) := by
  simp only [State.onOutbound, State.onPass, State.withEntry, Told.modify_set _ _ _ _ here]

theorem State.withEntry_get (here : s.pass.outbound[n]? = some (some p)) (q : Pass) :
    (s.withEntry n q).pass.outbound[n]? = some (some q) :=
  List.getElem?_set_self (List.getElem?_eq_some_iff.mp here).choose

theorem State.withEntry_twice (p q : Pass) (s : State) : (s.withEntry n p).withEntry n q = s.withEntry n q := by
  simp [State.withEntry]

end Entry

/-! ## The reads of a pass that no more goes on (R11, R78) -/

section Unread

variable {n : Nat} {p : Port} {s t : State}

theorem Purpose.ofOutbound_iff {q : Purpose} : q.ofOutbound n = true ↔ q = .checkRead n ∨ q = .slipRead n := by
  simp [Purpose.ofOutbound]

/-- No read of outbound entry `n` waits at the slip writer, and none goes on but one set aside. -/
def Port.unreadBy (n : Nat) (p : Port) : Prop :=
  (∀ a, p.busy = some a → a.purpose.ofOutbound n = true → a.aside = true) ∧
  ∀ a, p.slip = some a → a.purpose.ofOutbound n = false

theorem Port.abandon_unread (p : Port) : (p.abandon (Purpose.ofOutbound n)).unreadBy n := by
  constructor
  · intro a busy mine
    obtain ⟨b, _, rfl⟩ := Option.map_eq_some_iff.mp busy
    by_cases own : b.purpose.ofOutbound n = true
    · rw [if_pos own]
    · rw [if_neg own] at mine
      exact absurd mine own
  · intro a waits
    obtain ⟨_, other⟩ := Option.filter_eq_some_iff.mp waits
    simpa using other

theorem Port.request_unread {a : Access} (unread : p.unreadBy n) (other : a.purpose.ofOutbound n = false) :
    (p.request a).unreadBy n := by
  obtain ⟨busy, slip⟩ := unread
  unfold Port.request
  split
  · refine ⟨fun b here mine => ?_, slip⟩
    cases here
    exact absurd mine (by simp [other])
  · refine ⟨fun b here => busy b ?_, fun b here => ?_⟩
    · cases h : a.purpose.requester <;> rw [h] at here <;> exact here
    · have waits := Port.waiting_setWaiting .slip a.purpose.requester (some a) p
      rw [show (p.setWaiting a.purpose.requester (some a)).waiting .slip = some b from here] at waits
      split at waits
      · cases waits
        exact other
      · exact slip b waits.symm

/-- What the slip writer reads for the outbound entries is of an entry that has a read to make. -/
theorem State.slipWriterWants_reading {a : Access} (wants : s.slipWriterWants = some a)
    (mine : a.purpose.ofOutbound n = true) : ∃ p, s.outbound n = some p ∧ p.reading ≠ none := by
  unfold State.slipWriterWants at wants
  cases writes : s.slipWriteWanted with
  | some b =>
    rw [writes, Option.some_or] at wants
    cases wants
    unfold State.slipWriteWanted at writes
    repeat' split at writes
    all_goals cases writes
    simp [Purpose.ofOutbound, RxSlot.slipPurpose] at mine
  | none =>
    rw [writes, Option.none_or] at wants
    obtain ⟨m, -, reads⟩ := List.exists_of_findSome?_eq_some wants
    unfold State.outboundWanted at reads
    split at reads
    · cases reads
    next p entry =>
    split at reads
    · next i r reading _ =>
      simp only [Option.ite_none_left_eq_some, Option.some.injEq] at reads
      obtain ⟨-, rfl⟩ := reads
      have same : m = n := by
        dsimp only at mine
        split at mine <;> simpa [Purpose.ofOutbound] using mine
      subst same
      exact ⟨p, entry, by simp [reading]⟩
    · cases reads

/-- Entry `n` has no read to make. -/
def State.readsNothing (n : Nat) (s : State) : Prop := ∀ p, s.outbound n = some p → p.reading = none

theorem State.slipWriterRequest_unread (unread : s.port.unreadBy n) (rests : s.readsNothing n) :
    s.slipWriterRequest.port.unreadBy n ∧ s.slipWriterRequest.readsNothing n := by
  unfold State.slipWriterRequest
  split
  · exact ⟨unread, rests⟩
  · split
    · exact ⟨unread, rests⟩
    · next a wants =>
      refine ⟨Port.request_unread unread (Bool.eq_false_iff.mpr fun mine => ?_), rests⟩
      obtain ⟨p, entry, reads⟩ := State.slipWriterWants_reading wants mine
      exact reads (rests p entry)

theorem State.settleSlips_unread (unread : s.port.unreadBy n) (rests : s.readsNothing n) :
    s.settleSlips.port.unreadBy n := by
  obtain ⟨once, still⟩ := State.slipWriterRequest_unread unread rests
  exact (State.slipWriterRequest_unread once still).1

theorem State.beginRender_unread (unread : s.port.unreadBy n) (m r start : Nat) (story : Story) :
    (s.beginRender m r start story).port.unreadBy n := Port.request_unread unread rfl

theorem State.renderOrBlank_unread (unread : s.port.unreadBy n) (m r : Nat) (story : Story) :
    (s.renderOrBlank m r story).port.unreadBy n := by
  unfold State.renderOrBlank
  repeat' split
  · exact unread
  · exact State.beginRender_unread unread ..
  · exact unread
  · exact unread

theorem State.takeLane_unread (unread : s.port.unreadBy n) (m r : Nat) (w : Window) :
    (s.takeLane m r w).port.unreadBy n := by
  unfold State.takeLane
  dsimp only
  repeat' split
  · exact unread
  · refine State.renderOrBlank_unread ?_ ..
    exact unread
  · refine State.renderOrBlank_unread ?_ ..
    exact unread
  · exact Port.request_unread unread rfl

theorem State.stageAtOnce_port (m : Nat) (s : State) : (s.stageAtOnce m).port = s.port := by
  unfold State.stageAtOnce
  repeat' split
  all_goals rfl

theorem State.chooseLane_unread (unread : s.port.unreadBy n) : s.chooseLane.port.unreadBy n := by
  unfold State.chooseLane
  repeat' split
  · exact unread
  · exact unread
  · exact unread
  · exact unread
  · exact State.takeLane_unread unread ..

theorem State.settleRows_unread (unread : s.port.unreadBy n) : s.settleRows.port.unreadBy n :=
  State.settleRows_induct (P := fun u => u.port.unreadBy n) (fun m _ h => by rw [State.stageAtOnce_port]; exact h)
    (fun _ h => State.chooseLane_unread h) unread

theorem unreadBy_keptByHead : KeptByHead fun u => u.port.unreadBy n where
  congr := fun h _ _ _ _ port _ => by rw [port]; exact h
  requests := fun h fits => Port.request_unread h (by rw [fits]; rfl)
  changes := fun _ h _ _ => h
  ends := fun {s m p} o h head fitting => by
    rw [State.endPlan_fitting (State.headPlan_iff.mp head).2 fitting]
    have rest := State.notified_rest o
      { s with
          store := { s.store with stories := unlockAll (p.placements.map (·.key)) s.store.stories },
          fit := s.fit.withdrawPage,
          page := { s.page.ended m o with requests := [], outstanding := [] } }
    rw [rest.2.1]
    exact h

theorem State.settleFits_unread (unread : s.port.unreadBy n) : s.settleFits.port.unreadBy n :=
  unreadBy_keptByHead.settleFits unread

theorem State.settle_unread (unread : s.port.unreadBy n) (rests : s.readsNothing n) : s.settle.port.unreadBy n := by
  refine State.settleRows_unread (State.settleSlips_unread (State.settleFits_unread unread) fun p entry => ?_)
  exact rests p (by rw [← entry, State.outbound, State.outbound, (State.settleFits_follows s).pass])

end Unread

end Sys2Proof.Machine


namespace Sys2Proof.Machine

open Sys2Proof

/-! ## A pass that ends with its story HELD (R78) -/

section Ends

variable {s t u : State} {n : Nat} {p q : Pass} {o : PassOutcome}

/-- What `endPass` leaves of the entry, the store, the queue and the port. -/
structure EndedPass (n : Nat) (p : Pass) (o : PassOutcome) (s t : State) : Prop where
  pass : t.pass =
    { s.pass with
        outbound := s.pass.outbound.set n
          (some
            { p with
                phase := .ended, outcome := some o, endOrder := s.pass.nextEnd, timer := false,
                reading := none, ready := none }),
        nextEnd := s.pass.nextEnd + 1 }
  port : t.port = s.port.abandon (Purpose.ofOutbound n)
  traffic : t.traffic = s.traffic.withdraw (.passEntry n)
  notice : t.desk.latched .passEnded = true
  desk : onlyNotices s t
  rest : t.line = s.line ∧ t.fit = s.fit ∧ t.page = s.page ∧ t.clock = s.clock ∧ t.screen = s.screen ∧
    t.store = s.store ∧ t.freeReads = s.freeReads ∧ t.pending = s.pending

/-- A pass that ends, not by a RESTART. -/
theorem State.endPass_ends (here : s.pass.outbound[n]? = some (some p)) (noRestart : o ≠ .abandoned) :
    EndedPass n p o s (s.endPass n o) := by
  unfold State.endPass
  dsimp only
  rw [State.onOutbound_eq here, if_neg noRestart]
  generalize known : State.withdraw _ _ = v
  obtain ⟨store, port, line, traffic, pass, fit, page, clock, screen, desk⟩ := State.raise_rest .passEnded v
  refine ⟨pass.trans ?_, port.trans ?_, traffic.trans ?_, State.raise_latched .., ?_, ?_⟩
  all_goals subst known
  · rfl
  · rfl
  · rfl
  · exact desk
  · exact ⟨line, fit, page, clock, screen, store, rfl, rfl⟩

theorem Traffic.withdraw_marks {x : Owner} {r : Traffic} {e : OutEntry} (mem : e ∈ (r.withdraw x).queue) (mine : e.owner = x) :
    e.withdrawing = true := by
  obtain ⟨d, kept, rfl⟩ := List.mem_map.mp mem
  by_cases held : d.heldBy x = true
  · rw [if_pos held]
  · rw [if_neg held] at mine ⊢
    simpa [OutEntry.heldBy, mine] using held

theorem Traffic.withdraw_others {x : Owner} {r : Traffic} {e : OutEntry} (mem : e ∈ r.queue) (other : e.owner ≠ x) :
    e ∈ (r.withdraw x).queue := by
  have free : e.heldBy x = false := by simp [OutEntry.heldBy, other]
  exact List.mem_map.mpr ⟨e, List.mem_filter.mpr ⟨mem, by simp [free]⟩, if_neg (by simp [free])⟩

/-- Its story given back HELD. -/
theorem State.endReturn_ends (here : s.pass.outbound[n]? = some (some q)) (key : q.key = p.key)
    (noRestart : o ≠ .abandoned) : PassEnded n q o s (s.endReturn n p o) := by
  have ended := State.endPass_ends (o := o) here noRestart
  obtain ⟨line, _, _, clock, _, store, _, _⟩ := ended.rest
  unfold State.endReturn
  generalize s.endPass n o = v at *
  obtain ⟨unreadBusy, unreadSlip⟩ := Port.abandon_unread (n := n) s.port
  rw [← ended.port] at unreadBusy unreadSlip
  exact {
    pass := ended.pass
    stories := by
      rw [key]
      show ((Store.change p.key _ v.store).stories.map _) = _
      rw [store]
      rfl
    storeRest := by
      have whole : (v.returnStory p.key).store = s.store.change p.key fun r => { r with custody := .held } := by
        rw [← store]
        rfl
      rw [whole]
      rfl
    notice := ended.notice
    withdrawn := fun e mem mine => Traffic.withdraw_marks (ended.traffic ▸ mem) mine
    others := fun e mem other => by
      show e ∈ v.traffic.queue
      rw [ended.traffic]
      exact Traffic.withdraw_others mem other
    busy := fun a busy mine => unreadBusy a busy (Purpose.ofOutbound_iff.mpr mine)
    slip := fun a waits => not_or.mp fun mine => absurd (unreadSlip a waits) (by simp [Purpose.ofOutbound_iff.mpr mine])
    line := line
    clock := clock }

namespace PassEnded

theorem unread (h : PassEnded n p o s t) : t.port.unreadBy n :=
  ⟨fun a busy mine => h.busy a busy (Purpose.ofOutbound_iff.mp mine), fun a waits =>
    Bool.eq_false_iff.mpr fun mine => (not_or.mpr (h.slip a waits)) (Purpose.ofOutbound_iff.mp mine)⟩

/-- The end of a pass with what follows it at once. -/
theorem follows (h : PassEnded n p o s u) (f : SettleFollows u t) (unread : t.port.unreadBy n) : PassEnded n p o s t where
  pass := f.pass.trans h.pass
  stories := f.stories.trans h.stories
  storeRest := by rw [f.storeRest, h.storeRest]
  notice := f.notices _ h.notice
  withdrawn := fun e mem mine => by
    obtain ⟨l, queue, pages⟩ := f.queue
    rw [queue] at mem
    rcases List.mem_append.mp mem with old | new
    · exact h.withdrawn e old mine
    · rw [pages e new] at mine
      cases mine
  others := fun e mem other => by
    obtain ⟨l, queue, _⟩ := f.queue
    rw [queue]
    exact List.mem_append_left l (h.others e mem other)
  busy := fun a busy mine => unread.1 a busy (Purpose.ofOutbound_iff.mpr mine)
  slip := fun a waits => not_or.mp fun mine =>
    absurd (unread.2 a waits) (by simp [Purpose.ofOutbound_iff.mpr mine])
  line := f.line.trans h.line
  clock := f.clock.trans h.clock

theorem readsNothing (h : PassEnded n p o s t) (here : s.pass.outbound[n]? = some (some q)) : t.readsNothing n := by
  have low : n < s.pass.outbound.length := (List.getElem?_eq_some_iff.mp here).choose
  intro r entry
  rw [State.outbound, h.pass, Told.getD_some (List.getElem?_set_self low)] at entry
  cases entry
  rfl

/-- The other frames of the queue may grow. -/
theorem withQueue (h : PassEnded n p o s t) (l : List OutEntry) (others : ∀ e ∈ l, e.owner ≠ .passEntry n) :
    PassEnded n p o s { t with traffic := { t.traffic with queue := t.traffic.queue ++ l } } :=
  { h with
      withdrawn := fun e mem mine => by
        rcases List.mem_append.mp mem with old | new
        · exact h.withdrawn e old mine
        · exact absurd mine (others e new)
      others := fun e mem other => List.mem_append_left _ (h.others e mem other) }

theorem send (h : PassEnded n p o s t) (f : OutFrame) : PassEnded n p o s (t.send .answer f) := by
  unfold State.send
  split
  · exact h.withQueue _ (by simp)
  · exact h

theorem settleSlips (h : PassEnded n p o s u) (here : s.pass.outbound[n]? = some (some q)) :
    PassEnded n p o s u.settleSlips :=
  h.follows (State.settleSlips_follows u) (State.settleSlips_unread h.unread (h.readsNothing here))

theorem settle (h : PassEnded n p o s u) (here : s.pass.outbound[n]? = some (some q)) : PassEnded n p o s u.settle :=
  h.follows (State.settle_follows u) (State.settle_unread h.unread (h.readsNothing here))

/-- The entry before it ended need not stand in the state the end is told from. -/
theorem ofEntry (h : PassEnded n p o (s.withEntry n p) t) : PassEnded n p o s t :=
  { h with pass := by rw [h.pass]; simp [State.withEntry] }

end PassEnded

end Ends

end Sys2Proof.Machine


namespace Sys2Proof.Machine

open Sys2Proof

/-! ## The answer sender's share (R50) -/

section Share

variable {t : Traffic} {o : Owner} {s : State}

theorem Traffic.hasRoom_shared (shared : o.shared = true) : t.hasRoom o = decide (t.heldShared < 3) := by
  rw [Traffic.hasRoom, if_pos shared]
  rfl

theorem Traffic.withdraw_heldShared (o : Owner) (t : Traffic) : (t.withdraw o).heldShared ≤ t.heldShared := by
  unfold Traffic.heldShared Traffic.withdraw
  dsimp only
  rw [List.filter_map, List.length_map]
  refine (List.filter_sublist.filter _).length_le.trans (le_of_eq (congrArg List.length ?_))
  refine List.filter_congr fun e _ => ?_
  dsimp only [Function.comp]
  split <;> rfl

/-- What the answer sender offers goes in while its share has room. -/
theorem State.send_shared (shared : o.shared = true) (f : OutFrame) (s : State) :
    s.send o f = { s with traffic := { s.traffic with queue := s.traffic.shared o f } } := by
  by_cases room : s.traffic.heldShared < 3
  · have has : s.traffic.hasRoom o = true := by rw [Traffic.hasRoom_shared shared]; exact decide_eq_true room
    unfold State.send Traffic.shared
    rw [if_pos has, if_pos room]
    rfl
  · have full : s.traffic.hasRoom o = false := by rw [Traffic.hasRoom_shared shared]; exact decide_eq_false room
    unfold State.send Traffic.shared
    rw [if_neg (by simp [full]), if_neg room]

end Share

/-! ## CANCEL PASS, the answer timer and DECLINE (R72, R73, R77) -/

section Ends

variable {s t : State} {k : Key} {n : Nat} {p : Pass} {o : PassOutcome}

theorem Pass.finalInHand_iff : p.finalInHand = true ↔ p.phase = .sending ∧ p.nextSlip = p.slipTotal - 1 := by
  unfold Pass.finalInHand
  rw [Bool.and_eq_true, decide_eq_true_iff, decide_eq_true_iff]
  rfl

namespace PassEnded

theorem withDesk (h : PassEnded n p o s t) (d : Desk) (notices : d.notices = t.desk.notices) :
    PassEnded n p o s { t with desk := d } :=
  { h with notice := (congrArg (fun m => m.getLsbD (Notice.bit .passEnded)) notices).trans h.notice }

theorem withSlots (h : PassEnded n p o s t) (l : List RxSlot) :
    PassEnded n p o s { t with traffic := { t.traffic with slots := l } } := { h with }

theorem ofDesk {d : Desk} (h : PassEnded n p o { s with desk := d } t) : PassEnded n p o s t := { h with }

end PassEnded

theorem exec_cancelPass_ends (hears : s.hearsHost) (passes : s.passes k n p)
    (notFinal : ¬(p.phase = .sending ∧ p.nextSlip = p.slipTotal - 1)) :
    ∃ t : State, exec (.cancelPass k) s = .next t ∧ PassEnded n p .cancelled s t ∧
      answeredDone .cancelPass .nothing t ∧ t.traffic.slots = s.traffic.slots ∧
      (p.phase = .offering → s.traffic.heldShared < 3 →
        newEntry .answer { kind := .withdraw, dest := p.dest, payload := keyBytes k } ∈ t.traffic.queue) := by
  have here : (s.takeTransfer (nameByte .cancelPass)).pass.outbound[n]? = some (some p) := passes.1
  have ended := State.endReturn_ends (o := .cancelled) here rfl (by decide)
  have desk : (State.endReturn n p .cancelled (s.takeTransfer (nameByte .cancelPass))).desk.ready = false ∧
      (State.endReturn n p .cancelled (s.takeTransfer (nameByte .cancelPass))).desk.command =
        some (nameByte .cancelPass) := by
    have only := (State.endPass_ends (o := .cancelled) here (by decide)).desk
    exact ⟨congrArg Desk.ready only, congrArg Desk.command only⟩
  have traffic : (State.endReturn n p .cancelled (s.takeTransfer (nameByte .cancelPass))).traffic =
      s.traffic.withdraw (.passEntry n) := (State.endPass_ends (o := .cancelled) here (by decide)).traffic
  have runs : exec (.cancelPass k) s = .next (State.cancelPass k (s.takeTransfer (nameByte .cancelPass))) :=
    congrArg Host.Outcome.next (State.command_of_hearsHost hears (by decide))
  have this : State.passOf k (s.takeTransfer (nameByte .cancelPass)) = some (n, p) := State.passOf_eq passes
  unfold State.cancelPass at runs
  simp only [this] at runs
  rw [if_neg (by rw [Pass.finalInHand_iff]; exact notFinal)] at runs
  generalize State.endReturn n p .cancelled (s.takeTransfer (nameByte .cancelPass)) = v at *
  have kept : v.traffic.slots = s.traffic.slots := by
    rw [traffic]
    rfl
  have answers (w : State) (ended : PassEnded n p .cancelled (s.takeTransfer (nameByte .cancelPass)) w)
      (same : w.desk = v.desk) : PassEnded n p .cancelled s (w.settleSlips.done .nothing) ∧
        answeredDone .cancelPass .nothing (w.settleSlips.done .nothing) := by
    obtain ⟨ready, command⟩ := desk
    have slips := State.settleSlips_slip w
    have after : w.settleSlips.desk = v.desk := by rw [slips.rest]; exact same
    exact ⟨((ended.settleSlips here).withDesk (w.settleSlips.done .nothing).desk rfl).ofDesk,
      answeredDone_done .nothing (after ▸ ready) (after ▸ command)⟩
  refine ⟨_, runs, ?_⟩
  by_cases offering : p.phase = .offering
  · rw [if_pos offering]
    have sent : v.sendWithdraw p.dest k = v.send .answer (withdrawFrame p.dest k) := rfl
    rw [sent]
    obtain ⟨passEnded, done⟩ := answers _ (ended.send (withdrawFrame p.dest k)) (by rw [State.send_shared rfl])
    refine ⟨passEnded, done, ?_, fun _ room => ?_⟩
    · show (v.send .answer (withdrawFrame p.dest k)).settleSlips.traffic.slots = _
      rw [(State.settleSlips_follows _).slots, State.send_shared rfl]
      exact kept
    · show _ ∈ (v.send .answer (withdrawFrame p.dest k)).settleSlips.traffic.queue
      rw [(State.settleSlips_slip _).rest, State.send_shared rfl]
      show _ ∈ v.traffic.shared _ _
      rw [Traffic.shared, if_pos (by rw [traffic]; exact (Traffic.withdraw_heldShared _ _).trans_lt room)]
      exact List.mem_append_right _ (List.mem_singleton.mpr rfl)
  · rw [if_neg offering]
    obtain ⟨passEnded, done⟩ := answers v ended rfl
    refine ⟨passEnded, done, ?_, fun is => absurd is offering⟩
    show v.settleSlips.traffic.slots = _
    rw [(State.settleSlips_follows _).slots, kept]

theorem DeclineReason.ofCode_code (reason : DeclineReason) : DeclineReason.ofCode reason.code = some reason := by
  cases reason <;> rfl

theorem exec_declineDispatch {x : RxSlot} {rest : List RxSlot} {reason : DeclineReason}
    (slots : s.traffic.slots = x :: rest) (kind : x.kind = .decline) (code : reason.code = byteAt x.payload 3) :
    exec .declineDispatch s = .next ((s.receiveDecline (keyAt x.payload 0) x.source reason).freeOldest).settle := by
  refine congrArg Host.Outcome.next ((exec_dispatch slots kind).trans ?_)
  have owner : declineOwner x s = s.receiveDecline (keyAt x.payload 0) x.source reason := by
    unfold declineOwner
    rw [← code, DeclineReason.ofCode_code]
    rfl
  rw [owner]

/-- Settles O31. -/
theorem passEndsHeld : Obligations.PassEndsHeld := by
  unfold Obligations.PassEndsHeld
  refine ⟨fun k s hears => ⟨fun ended => ?_, fun n p passes => ⟨fun sending final => ?_, exec_cancelPass_ends hears passes⟩⟩,
    fun n p s here offering timer => ?_, fun x rest n p reason s slots kind passes offering dest code => ?_⟩
  · refine (congrArg Host.Outcome.next (State.command_of_hearsHost hears (by decide))).trans ?_
    have this : State.passOf k (s.takeTransfer (nameByte .cancelPass)) = none := State.passOf_eq_none ended
    unfold State.cancelPass
    simp only [this]
    rfl
  · refine (congrArg Host.Outcome.next (State.command_of_hearsHost hears (by decide))).trans ?_
    have this : State.passOf k (s.takeTransfer (nameByte .cancelPass)) = some (n, p) := State.passOf_eq passes
    unfold State.cancelPass
    simp only [this]
    rw [if_pos (Pass.finalInHand_iff.mpr ⟨sending, final⟩)]
    rfl
  · have runs : exec (.answerTimerExpiry n) s = .next (s.endReturn n p .noAnswer).settleSlips := by
      show Host.Outcome.next (s.answerTimerExpired n) = _
      unfold State.answerTimerExpired
      rw [State.outbound, Told.getD_some here]
      exact congrArg Host.Outcome.next (if_pos ⟨offering, timer⟩)
    refine ⟨_, runs, (State.endReturn_ends here rfl (by decide)).settleSlips here, ?_⟩
    rw [(State.settleSlips_follows _).slots]
    show (s.endPass n .noAnswer).traffic.slots = _
    rw [(State.endPass_ends here (by decide)).traffic]
    rfl
  · have here := passes.1
    have counted := State.withEntry_get here { p with declines := min 255 (p.declines + 1) }
    have ended := State.endReturn_ends (p := p) (o := .declined reason) counted rfl (by simp)
    have received : s.receiveDecline (keyAt x.payload 0) x.source reason =
        (s.withEntry n { p with declines := min 255 (p.declines + 1) }).endReturn n p (.declined reason) := by
      unfold State.receiveDecline
      simp only [State.passOf_eq passes]
      rw [if_pos offering]
      simp only [congrArg Address.form dest, congrArg Address.number dest, if_true]
      rw [State.onOutbound_eq here, bump_eq]
    refine ⟨_, exec_declineDispatch slots kind code, ?_, ?_⟩
    · rw [(State.settle_follows _).slots, received]
      have traffic := (State.endPass_ends (o := .declined reason) counted (by simp)).traffic
      exact congrArg List.tail ((congrArg Traffic.slots traffic).trans slots)
    · rw [received]
      exact ((ended.withSlots _).settle counted).ofEntry

end Ends

end Sys2Proof.Machine


namespace Sys2Proof.Machine

open Sys2Proof

/-! ## What the slip writer asks for, past the fit queue and the rows (R11) -/

/-- From `p` to `q` the fit reader has asked at most. -/
structure Port.FitAsked (p q : Port) : Prop where
  slip : q.slip = p.slip
  busy : ∀ a, p.busy = some a → q.busy = some a
  idle : p.busy = none → ∀ a, q.busy = some a → a.purpose = .fitRead

section Asks

variable {s t : State} {p q : Port}

theorem Port.FitAsked.request {a : Access} (h : p.FitAsked q) (fits : a.purpose = .fitRead) :
    p.FitAsked (q.request a) := by
  unfold Port.request
  split
  · next free =>
    obtain ⟨idle, -⟩ := (Bool.and_eq_true _ _).mp free
    have none_ : q.busy = none := by simpa using idle
    refine ⟨h.slip, fun b busy => ?_, fun _ b here => ?_⟩
    · rw [h.busy b busy] at none_
      cases none_
    · cases here
      exact fits
  · rw [fits]
    exact ⟨h.slip, h.busy, h.idle⟩

theorem fitAsked_keptByHead (p : Port) : KeptByHead fun u => p.FitAsked u.port where
  congr := fun h _ _ _ _ port _ => by rw [port]; exact h
  requests := fun h fits => h.request fits
  changes := fun _ h _ _ => h
  ends := fun {s m p} o h head fitting => by
    rw [State.endPlan_fitting (State.headPlan_iff.mp head).2 fitting]
    have rest := State.notified_rest o
      { s with
          store := { s.store with stories := unlockAll (p.placements.map (·.key)) s.store.stories },
          fit := s.fit.withdrawPage,
          page := { s.page.ended m o with requests := [], outstanding := [] } }
    rw [rest.2.1]
    exact h

theorem State.settleFits_asked (s : State) : s.port.FitAsked s.settleFits.port :=
  (fitAsked_keptByHead s.port).settleFits (s := s) ⟨rfl, fun _ h => h, fun none_ a here => by rw [none_] at here; cases here⟩

namespace Port.FitAsked

theorem slipBusy (h : p.FitAsked q) {f : Access → Bool} (slips : ∀ a, f a = true → a.purpose ≠ .fitRead) :
    q.busy.any f = p.busy.any f := by
  cases before : p.busy with
  | some a => rw [h.busy a before]
  | none =>
    cases after : q.busy with
    | none => rfl
    | some a =>
      have other : f a = false := Bool.eq_false_iff.mpr fun yes => slips a yes (h.idle before a after)
      simp [other]

end Port.FitAsked

/-- What bears on the write the slip writer wants. -/
theorem State.slipWriteWanted_congr (slots : t.traffic.slots = s.traffic.slots)
    (inbound : t.pass.inbound = s.pass.inbound) (reservations : t.store.reservations = s.store.reservations)
    (busy : ∀ x : RxSlot, ∀ r : InboundRef, (t.port.busy.any fun a => decide (a.purpose = x.slipPurpose r)) =
      s.port.busy.any fun a => decide (a.purpose = x.slipPurpose r)) : t.slipWriteWanted = s.slipWriteWanted := by
  have held (r : InboundRef) : t.holdsPass r = s.holdsPass r := by simp [State.holdsPass, inbound]
  have store (e : Nat) : t.store.reservation e = s.store.reservation e := by simp [Store.reservation, reservations]
  unfold State.slipWriteWanted
  simp only [slots, held, store, busy]

/-- What bears on the read outbound entry `n` makes next. -/
theorem State.outboundWanted_congr {n : Nat} (entry : t.outbound n = s.outbound n)
    (story : ∀ k, (t.story k).map (fun r => (r.chain, r.length)) = (s.story k).map fun r => (r.chain, r.length))
    (check : t.port.serves (.checkRead n) = s.port.serves (.checkRead n))
    (slip : t.port.serves (.slipRead n) = s.port.serves (.slipRead n)) : t.outboundWanted n = s.outboundWanted n := by
  have serves (p : Pass) : t.port.serves (if p.phase = .offering then .checkRead n else .slipRead n) =
      s.port.serves (if p.phase = .offering then .checkRead n else .slipRead n) := by
    split
    · exact check
    · exact slip
  unfold State.outboundWanted
  rw [entry]
  split
  · rfl
  next p _ =>
  have same := story p.key
  cases there : s.story p.key with
  | none =>
    rw [there, Option.map_none, Option.map_eq_none_iff] at same
    rw [same]
    cases p.reading <;> rfl
  | some r =>
    rw [there] at same
    obtain ⟨q, here, alike⟩ := Option.map_eq_some_iff.mp same
    obtain ⟨chain, length⟩ := Prod.mk.inj alike
    rw [here]
    cases p.reading with
    | none => rfl
    | some i => simp only [serves, chain, length]

/-- The slip writer wants the same after the fit queue and the page engine have followed. -/
theorem State.settleFits_wants (s : State) : s.settleFits.slipWriterWants = s.slipWriterWants := by
  have asked := State.settleFits_asked s
  have follows := State.settleFits_follows s
  generalize s.settleFits = t at *
  have serves (mine : Purpose) (slips : mine ≠ .fitRead) : t.port.serves mine = s.port.serves mine :=
    asked.slipBusy fun a both => by
      rw [Bool.and_eq_true] at both
      rw [of_decide_eq_true both.1]
      exact slips
  have writes : t.slipWriteWanted = s.slipWriteWanted :=
    State.slipWriteWanted_congr follows.slots (by rw [follows.pass]) (by rw [follows.storeRest]) fun x r =>
      asked.slipBusy fun a mine => by rw [of_decide_eq_true mine]; simp [RxSlot.slipPurpose]
  have stories (k : Key) : (t.story k).map (fun r => (r.chain, r.length)) = (s.story k).map fun r => (r.chain, r.length) := by
    have same := congrArg (Option.map fun r : Story => (r.chain, r.length)) (story_unlocked follows.stories k)
    rw [Option.map_map, Option.map_map] at same
    exact same
  have reads (n : Nat) : t.outboundWanted n = s.outboundWanted n :=
    State.outboundWanted_congr (by simp [State.outbound, follows.pass]) stories (serves _ (by simp)) (serves _ (by simp))
  unfold State.slipWriterWants
  rw [writes]
  congr 2
  exact funext reads

theorem SlipFollows.asked (h : SlipFollows s t) : slipAsked s t := by
  intro a free wants
  by_cases idle : s.port.busy = none ∧ s.port.noneWaits = true
  · exact .inl (h.granted a wants idle.1 idle.2)
  · have occupied : s.port.busy ≠ none ∨ s.port.noneWaits = false := by
      by_cases busy : s.port.busy = none
      · exact .inr (by simpa using fun waits => idle ⟨busy, waits⟩)
      · exact .inl busy
    rw [h.waits a free wants occupied]
    exact .inr rfl

/-- The slip writer's next request is on the port or waits, once all has followed. -/
theorem State.settle_asked (s : State) : slipAsked s s.settle := by
  intro a free wants
  unfold State.settle
  have rows := State.settleRows_follows s.settleFits.settleSlips
  have slips := (State.settleSlips_slip s.settleFits).asked a
    ((State.settleFits_asked s).slip.trans free) ((State.settleFits_wants s).trans wants)
  generalize s.settleFits.settleSlips = v at *
  exact slips.imp (rows.busy a) fun waits => rows.slipPort.trans waits

end Asks

/-! ## TAKE and the DECLINE of a role offer (R70 to R72) -/

section Answers

variable {s : State} {k : Key} {n : Nat} {p : Pass} {x : RxSlot} {rest : List RxSlot}

theorem Pass.acceptsTake_iff {source : Nat} :
    p.acceptsTake source = true ↔
      p.phase = .offering ∧ p.offered = true ∧ (p.dest.form = .station → p.dest.number = source) := by
  unfold Pass.acceptsTake
  cases p.dest.form <;> simp [and_assoc]

theorem exec_takeDispatch (slots : s.traffic.slots = x :: rest) (kind : x.kind = .take) :
    exec .takeDispatch s = .next ((s.receiveTake (keyAt x.payload 0) x.source).freeOldest).settle :=
  congrArg Host.Outcome.next (exec_dispatch slots kind)

theorem State.withdraw_slots (o : Owner) (s : State) : (s.withdraw o).traffic.slots = s.traffic.slots := rfl

/-- The state with the oldest slot freed and the queue given. -/
def State.dealt (rest : List RxSlot) (queue : List OutEntry) (s : State) : State :=
  { s with traffic := { s.traffic with slots := rest, queue := queue } }

theorem State.freeOldest_dealt {u : State} (slots : u.traffic.slots = x :: rest) :
    u.freeOldest = u.dealt rest u.traffic.queue := State.freeOldest_eq slots

theorem State.receiveTake_refused (slots : s.traffic.slots = x :: rest) {source : Nat}
    (refused : s.receiveTake k source = s.sendWithdraw (toStation source) k) :
    (s.receiveTake k source).freeOldest =
      s.dealt rest (s.traffic.shared .answer
        { kind := .withdraw, dest := { form := .station, number := source }, payload := keyBytes k }) := by
  rw [refused, State.sendWithdraw, State.send_shared rfl]
  exact State.freeOldest_dealt (x := x) slots

theorem State.receiveTake_accepted (passes : s.passes k n p) {source : Nat} (accepted : p.acceptsTake source = true)
    (text : ∃ r, s.story k = some r ∧ 0 < r.length) :
    s.receiveTake k source =
      { s.withEntry n
          { p with taker := some source, phase := .sending, timer := false, nextSlip := 0, reading := some 0 } with
        traffic := s.traffic.withdraw (.passEntry n) } := by
  have here := passes.1
  have key : p.key = k := passes.2.1
  obtain ⟨r, story, long⟩ := text
  unfold State.receiveTake
  simp only [State.passOf_eq passes, accepted, if_true, State.onOutbound_eq here]
  have taken := State.withEntry_get here { p with taker := some source, phase := .sending, timer := false, nextSlip := 0 }
  generalize known : State.withdraw _ _ = v
  have entry : v.pass.outbound[n]? =
      some (some { p with taker := some source, phase := .sending, timer := false, nextSlip := 0 }) := by
    rw [← known]
    exact taken
  have stands : v.story p.key = some r := by
    rw [← known, key]
    exact story
  unfold State.prepareSlip
  rw [State.outbound, Told.getD_some entry]
  dsimp only
  have notEmpty : ¬(Option.map (fun x : Story => x.length) (some r)).getD 0 = 0 := (Nat.pos_iff_ne_zero.mp long)
  rw [stands, State.onOutbound_eq entry, if_neg notEmpty, ← known]
  simp only [State.withEntry, State.withdraw, State.onTraffic, List.set_set]

end Answers

/-- Settles O33. -/
theorem answersReceived : Obligations.AnswersReceived := by
  unfold Obligations.AnswersReceived
  refine ⟨fun x rest s slots kind => ?_, fun x rest n p reason s slots kind passes offering role code => ?_⟩
  · intro k after leads refused
    have runs := exec_takeDispatch slots kind
    have led {u : State} (received : (s.receiveTake k x.source).freeOldest = u) : leads u :=
      ⟨_, runs, received ▸ State.settle_follows _, received ▸ State.settle_asked _⟩
    refine ⟨fun ended => led (State.receiveTake_refused slots ?_), fun n p passes => ?_⟩
    · unfold State.receiveTake
      rw [State.passOf_eq_none ended]
    intro accepted again
    refine ⟨fun accepts text => led ?_, fun repeated => led ?_, fun notAccepted notAgain => led (State.receiveTake_refused slots ?_)⟩
    · rw [State.receiveTake_accepted passes (Pass.acceptsTake_iff.mpr accepts) text]
      exact State.freeOldest_dealt (x := x) slots
    · have notOffering : ¬p.acceptsTake x.source = true := fun accepts => by
        have offering := (Pass.acceptsTake_iff.mp accepts).1
        rw [repeated.1] at offering
        cases offering
      unfold State.receiveTake
      simp only [State.passOf_eq passes]
      rw [if_neg notOffering, if_pos repeated]
      exact State.freeOldest_dealt slots
    · unfold State.receiveTake
      simp only [State.passOf_eq passes]
      rw [if_neg fun accepts => notAccepted (Pass.acceptsTake_iff.mp accepts), if_neg notAgain]
  · refine ⟨_, exec_declineDispatch slots kind code, ?_⟩
    have received : (s.receiveDecline (keyAt x.payload 0) x.source reason).freeOldest =
        { s.withEntry n { p with declines := min 255 (p.declines + 1) } with
          traffic := { s.traffic with slots := rest } } := by
      unfold State.receiveDecline
      simp only [State.passOf_eq passes]
      rw [if_pos offering]
      simp only [role, State.onOutbound_eq passes.1, bump_eq]
      exact State.freeOldest_eq (x := x) slots
    rw [received]
    exact State.settle_follows _

end Sys2Proof.Machine


namespace Sys2Proof.Machine

open Sys2Proof

/-! ## The number of offers told (R82) -/

section Offers

variable {s t : State} {k : Key} {q : QueuedOffer}

/-- From `s` to `t` the screen unit and the desk unit hold the number of offer-queue entries; but for windows and
the outputs of the desk unit nothing else differs. -/
structure OffersTold (s t : State) : Prop where
  store : t.store = s.store
  line : t.line = s.line
  traffic : t.traffic = s.traffic
  pass : t.pass = s.pass
  fit : t.fit = s.fit
  page : t.page = s.page
  clock : t.clock = s.clock
  status : t.screen.status = { s.screen.status with offers := s.pass.offers.length }
  desk : t.desk =
    { s.desk with
        inputs := { s.desk.inputs with offers := s.pass.offers.length }, attention := t.desk.attention,
        lamp := t.desk.lamp, lit := t.desk.lit }

theorem Desk.refresh_only (d : Desk) :
    d.refresh = { d with attention := d.refresh.attention, lamp := d.refresh.lamp, lit := d.refresh.lit } := by
  obtain ⟨attention, lamp, lit, outputs⟩ := Desk.refresh_outputs d
  rw [outputs]

theorem State.tellOffers_told (s : State) : OffersTold s s.tellOffers := by
  have windows := State.dirtyStatus_only (s.onScreen fun c =>
    { c with status := { c.status with offers := s.pass.offers.length } })
  unfold State.tellOffers State.tellStatus
  dsimp only
  generalize State.dirtyStatus _ = v at *
  exact {
    store := windows.store
    line := windows.line
    traffic := windows.traffic
    pass := windows.pass
    fit := windows.fit
    page := windows.page
    clock := windows.clock
    status := windows.status
    desk := by
      have same : v.desk = s.desk := windows.desk
      rw [← same]
      exact Desk.refresh_only _ }

theorem OffersTold.rows {u : State} (h : OffersTold s t) (rows : RowsFollow t u) : OffersTold s u where
  store := rows.store.trans h.store
  line := rows.line.trans h.line
  traffic := rows.traffic.trans h.traffic
  pass := rows.pass.trans h.pass
  fit := rows.fit.trans h.fit
  page := rows.page.trans h.page
  clock := rows.clock.trans h.clock
  status := rows.status.trans h.status
  desk := by
    rw [rows.desk]
    exact h.desk

theorem State.queuedOffer_key (queued : s.queuedOffer k = some q) : q.offer.key = k := by
  have found := List.find?_some queued
  exact of_decide_eq_true found

/-- An offer declined and removed (R82). -/
theorem State.declineOffer_told (queued : s.queuedOffer k = some q) (reason : DeclineReason) :
    OffersTold
      { s with
          traffic :=
            { s.traffic with
                queue := s.traffic.shared .answer
                  { kind := .decline, dest := { form := .station, number := q.source },
                    payload := keyBytes k ++ [BitVec.ofNat 8 reason.code] } },
          pass := { s.pass with offers := s.pass.offers.filter fun o => o.offer.key ≠ k } }
      (s.declineOffer q reason) := by
  unfold State.declineOffer State.removeOffer State.decline
  rw [State.queuedOffer_key queued, State.send_shared rfl]
  exact State.tellOffers_told _

end Offers

/-! ## A freed inbound entry (R7, R85) -/

section Freed

variable {s t u : State} {n : Nat} {b : Inbound} {blocks : List Nat}

/-- From `s` to `t` inbound entry `n`, which had `blocks` reserved, has been freed. -/
structure EntryFreed (n : Nat) (blocks : List Nat) (s t : State) : Prop where
  pass : t.pass = { s.pass with inbound := s.pass.inbound.set n none }
  pool : t.store.pool = blocks ++ s.store.pool
  reservations : t.store.reservations = s.store.reservations.set n none
  text : t.store.text = s.store.text
  stories : t.store.stories.map Story.unlocked = s.store.stories.map Story.unlocked
  withdrawn : ∀ e ∈ t.traffic.queue, e.owner = .take n → e.withdrawing = true
  line : t.line = s.line
  clock : t.clock = s.clock

theorem EntryFreed.follows (h : EntryFreed n blocks s u) (f : SettleFollows u t) : EntryFreed n blocks s t where
  pass := f.pass.trans h.pass
  pool := by rw [f.storeRest]; exact h.pool
  reservations := by rw [f.storeRest]; exact h.reservations
  text := by rw [f.storeRest]; exact h.text
  stories := f.stories.trans h.stories
  withdrawn := fun e mem mine => by
    obtain ⟨l, queue, pages⟩ := f.queue
    rw [queue] at mem
    rcases List.mem_append.mp mem with old | new
    · exact h.withdrawn e old mine
    · rw [pages e new] at mine
      cases mine
  line := f.line.trans h.line
  clock := f.clock.trans h.clock

theorem EntryFreed.raise (h : EntryFreed n blocks s t) (m : Notice) : EntryFreed n blocks s (t.raise m) :=
  h.follows (SettleFollows.raise m t)

/-- The slip write of an entry touches the port and the slots, and nothing else. -/
theorem State.dropSlipWrite_rest (entry pass : Nat) (s : State) :
    s.dropSlipWrite entry pass =
      { s with
          port := (s.dropSlipWrite entry pass).port,
          traffic := { s.traffic with slots := (s.dropSlipWrite entry pass).traffic.slots } } := by
  unfold State.dropSlipWrite
  split
  · dsimp only
    repeat' split
    all_goals rfl
  · rfl

/-- Without a slip of the entry in the oldest slot nothing is dropped. -/
theorem State.dropSlipWrite_other {entry pass : Nat} {x : RxSlot} {rest : List RxSlot}
    (slots : s.traffic.slots = x :: rest) (other : x.inbound = none) : s.dropSlipWrite entry pass = s := by
  unfold State.dropSlipWrite
  simp only [slots]
  rw [if_neg (by simp [RxSlot.refersTo, other])]

theorem State.freeInbound_eq (here : s.pass.inbound[n]? = some (some b)) :
    s.freeInbound n =
      ((((s.onStore (Store.release n)).withdraw (.take n)).dropSlipWrite n b.pass).onPass fun e =>
        { e with inbound := e.inbound.set n none }) := by
  unfold State.freeInbound
  rw [State.inbound, Told.getD_some here]

theorem State.freeInbound_freed (here : s.pass.inbound[n]? = some (some b))
    (reserved : s.store.reservations[n]? = some (some blocks)) : EntryFreed n blocks s (s.freeInbound n) := by
  rw [State.freeInbound_eq here]
  have released : s.store.release n =
      { Store.giveBack blocks.reverse s.store with reservations := s.store.reservations.set n none } := by
    unfold Store.release
    rw [Told.getD_some reserved]
  generalize known : (s.onStore (Store.release n)).withdraw (.take n) = v
  have rest := State.dropSlipWrite_rest n b.pass v
  generalize v.dropSlipWrite n b.pass = w at *
  rw [rest, ← known]
  exact {
    pass := rfl
    pool := by
      show (s.store.release n).pool = _
      rw [released]
      exact congrArg (· ++ s.store.pool) (List.reverse_reverse blocks)
    reservations := by
      show (s.store.release n).reservations = _
      rw [released]
    text := by
      show (s.store.release n).text = _
      rw [released]
      rfl
    stories := by
      show (s.store.release n).stories.map _ = _
      rw [released]
      rfl
    withdrawn := fun e mem mine => Traffic.withdraw_marks mem mine
    line := rfl
    clock := rfl }

/-- With a frame of no inbound entry in the oldest slot, the slots stay. -/
theorem State.freeInbound_slots (here : s.pass.inbound[n]? = some (some b)) {x : RxSlot} {rest : List RxSlot}
    (slots : s.traffic.slots = x :: rest) (other : x.inbound = none) : (s.freeInbound n).traffic.slots = x :: rest := by
  rw [State.freeInbound_eq here]
  have same := State.dropSlipWrite_other (s := (s.onStore (Store.release n)).withdraw (.take n)) (entry := n)
    (pass := b.pass) slots other
  rw [same]
  exact slots

end Freed

/-! ## The gap timer, WITHDRAW and the offer queue timer (R84, R86, R87) -/

section Lost

variable {s : State} {n : Nat} {b : Inbound} {blocks : List Nat} {k : Key} {q : QueuedOffer} {x : RxSlot}
  {rest : List RxSlot}

theorem exec_gapTimerExpiry (here : s.pass.inbound[n]? = some (some b)) (taken : b.complete = false)
    (timer : b.timer = true) : exec (.gapTimerExpiry n) s = .next (s.loseInbound n).settleSlips := by
  show Host.Outcome.next (s.gapTimerExpired n) = _
  unfold State.gapTimerExpired
  rw [State.inbound, Told.getD_some here]
  exact congrArg Host.Outcome.next (if_pos ⟨taken, timer⟩)

theorem exec_withdrawDispatch (slots : s.traffic.slots = x :: rest) (kind : x.kind = .withdraw) :
    exec .withdrawDispatch s = .next ((s.receiveWithdraw (keyAt x.payload 0) x.source).freeOldest).settle :=
  congrArg Host.Outcome.next (exec_dispatch slots kind)

theorem State.receiveWithdraw_inbound (entry : s.inboundOf k = some (n, b)) (noOffer : s.queuedOffer k = none) :
    s.receiveWithdraw k b.sender =
      if b.complete then s
      else (s.freeInbound n).raise (if b.byHost && decide (b.expected = 0) then .offerLapsed else .inboundLost) := by
  have here : ∃ c, s.inbound n = some c := by
    unfold State.inboundOf at entry
    obtain ⟨m, _, found⟩ := Option.bind_eq_some_iff.mp entry
    obtain ⟨c, there, same⟩ := Option.map_eq_some_iff.mp found
    cases same
    exact ⟨b, there⟩
  obtain ⟨c, there⟩ := here
  unfold State.receiveWithdraw
  simp only [entry]
  cases b.complete with
  | true =>
    simp only [Bool.true_eq_false, and_false, if_false, if_true, noOffer]
  | false =>
    simp only [and_self, if_true, Bool.false_eq_true, if_false]
    have offers : ∀ m, ((s.freeInbound n).raise m).queuedOffer k = none := fun m => by
      have pass : ((s.freeInbound n).raise m).pass.offers = s.pass.offers := by
        rw [(State.raise_rest m _).2.2.2.2.1]
        unfold State.freeInbound
        rw [there]
        dsimp only
        rw [State.dropSlipWrite_rest]
        rfl
      unfold State.queuedOffer
      rw [pass]
      exact noOffer
    rw [offers]

theorem State.receiveWithdraw_offer {source : Nat} (noEntry : s.inboundOf k = none) (queued : s.queuedOffer k = some q) :
    s.receiveWithdraw k source =
      if q.source = source then (s.removeOffer k).raise .offerLapsed else s := by
  unfold State.receiveWithdraw
  simp only [noEntry, queued]

/-- A WITHDRAW of an offer-queue entry (R84, R87). -/
theorem exec_withdrawDispatch_offer (slots : s.traffic.slots = x :: rest) (kind : x.kind = .withdraw)
    (noEntry : s.inboundOf (keyAt x.payload 0) = none) (queued : s.queuedOffer (keyAt x.payload 0) = some q) :
    ∃ t : State, exec .withdrawDispatch s = .next t ∧ t.traffic.slots = rest ∧
      (if q.source = x.source then
        t.pass = { s.pass with offers := s.pass.offers.filter fun o => o.offer.key ≠ keyAt x.payload 0 } ∧
        t.desk.latched .offerLapsed = true
      else t.pass = s.pass) := by
  refine ⟨_, exec_withdrawDispatch slots kind, ?_⟩
  rw [State.receiveWithdraw_offer noEntry queued]
  by_cases same : q.source = x.source
  · rw [if_pos same, if_pos same]
    have told := State.tellOffers_told (s.onPass fun e =>
      { e with offers := e.offers.filter fun q => q.offer.key ≠ keyAt x.payload 0 })
    unfold State.removeOffer
    generalize State.tellOffers _ = v at *
    have still : (v.raise .offerLapsed).traffic.slots = x :: rest :=
      (congrArg Traffic.slots told.traffic).trans slots
    rw [State.freeOldest_eq still]
    have follows := State.settle_follows
      { v.raise .offerLapsed with traffic := { (v.raise .offerLapsed).traffic with slots := rest } }
    generalize State.settle _ = t at *
    exact ⟨follows.slots, follows.pass.trans told.pass, follows.notices _ (State.raise_latched _ v)⟩
  · rw [if_neg same, if_neg same, State.freeOldest_eq slots]
    exact ⟨(State.settle_follows _).slots, (State.settle_follows _).pass⟩

/-- The offer queue timer (R84). -/
theorem exec_offerQueueTimerExpiry (queued : s.queuedOffer k = some q) :
    ∃ t : State, exec (.offerQueueTimerExpiry k) s = .next t ∧ t.desk.latched .offerLapsed = true ∧
      t.pass = { s.pass with offers := s.pass.offers.filter fun o => o.offer.key ≠ k } ∧
      t.screen.status =
        { s.screen.status with offers := (s.pass.offers.filter fun o => o.offer.key ≠ k).length } ∧
      t.desk.inputs =
        { s.desk.inputs with offers := (s.pass.offers.filter fun o => o.offer.key ≠ k).length } ∧
      t.traffic =
        { s.traffic with
            queue := s.traffic.shared .answer
              { kind := .decline, dest := { form := .station, number := q.source },
                payload := keyBytes k ++ [0x07#8] } } ∧
      t.store = s.store ∧ t.line = s.line ∧ t.fit = s.fit ∧ t.page = s.page ∧ t.clock = s.clock := by
  have runs : exec (.offerQueueTimerExpiry k) s =
      .next ((s.declineOffer q .noAnswer).raise .offerLapsed).settleRows := by
    show Host.Outcome.next (s.offerTimerExpired k) = _
    unfold State.offerTimerExpired
    rw [queued]
  have told := State.declineOffer_told queued .noAnswer
  generalize s.declineOffer q .noAnswer = v at *
  obtain ⟨store, _, line, traffic, pass, fit, page, clock, screen, desk⟩ := State.raise_rest .offerLapsed v
  have lapsed := State.raise_latched .offerLapsed v
  have rows := State.settleRows_follows (v.raise .offerLapsed)
  generalize v.raise .offerLapsed = w at *
  generalize w.settleRows = t at *
  have kept := congrArg Desk.inputs desk
  have inputs : t.desk.inputs = v.desk.inputs := by
    rw [rows.desk]
    exact kept
  exact ⟨t, runs, rows.desk ▸ lapsed, (rows.pass.trans pass).trans told.pass,
    (rows.status.trans (congrArg Screen.status screen)).trans told.status,
    inputs.trans (congrArg Desk.inputs told.desk), (rows.traffic.trans traffic).trans told.traffic,
    (rows.store.trans store).trans told.store, (rows.line.trans line).trans told.line,
    (rows.fit.trans fit).trans told.fit, (rows.page.trans page).trans told.page,
    (rows.clock.trans clock).trans told.clock⟩

/-- A WITHDRAW of an inbound entry (R87). -/
theorem exec_withdrawDispatch_inbound (slots : s.traffic.slots = x :: rest) (kind : x.kind = .withdraw)
    (other : x.inbound = none) (here : s.pass.inbound[n]? = some (some b))
    (reserved : s.store.reservations[n]? = some (some blocks))
    (entry : s.inboundOf (keyAt x.payload 0) = some (n, b)) (sender : b.sender = x.source)
    (noOffer : s.queuedOffer (keyAt x.payload 0) = none) :
    ∃ t : State, exec .withdrawDispatch s = .next t ∧ t.traffic.slots = rest ∧
      (if b.complete then t.pass = s.pass
       else EntryFreed n blocks s t ∧
         t.desk.latched (if b.byHost ∧ b.expected = 0 then .offerLapsed else .inboundLost) = true) := by
  refine ⟨_, exec_withdrawDispatch slots kind, ?_⟩
  rw [← sender, State.receiveWithdraw_inbound entry noOffer]
  by_cases complete : b.complete = true
  · rw [if_pos complete, if_pos complete, State.freeOldest_eq slots]
    exact ⟨(State.settle_follows _).slots, (State.settle_follows _).pass⟩
  · rw [if_neg complete, if_neg complete]
    have notice : (if b.byHost = true ∧ b.expected = 0 then Notice.offerLapsed else .inboundLost) =
        if b.byHost && decide (b.expected = 0) then .offerLapsed else .inboundLost := by simp
    rw [notice]
    generalize (if b.byHost && decide (b.expected = 0) then Notice.offerLapsed else .inboundLost) = m
    have still : ((s.freeInbound n).raise m).traffic.slots = x :: rest :=
      State.freeInbound_slots here slots other
    have all := (State.freeInbound_freed here reserved).raise m
    have latched := State.raise_latched m (s.freeInbound n)
    rw [State.freeOldest_eq still]
    generalize (s.freeInbound n).raise m = v at *
    have freedSlots : EntryFreed n blocks s { v with traffic := { v.traffic with slots := rest } } := { all with }
    have follows := State.settle_follows { v with traffic := { v.traffic with slots := rest } }
    generalize State.settle _ = t at *
    exact ⟨follows.slots, freedSlots.follows follows, follows.notices _ latched⟩

/-- Settles O35. -/
theorem inboundFreed : Obligations.InboundFreed := by
  unfold Obligations.InboundFreed
  refine ⟨fun n b s blocks here reserved => ?_,
    fun x rest q s slots kind other noEntry queued => exec_withdrawDispatch_offer slots kind noEntry queued,
    fun k q s queued => ?_⟩
  · intro freed
    have gone {m : Notice} {t : State} (all : EntryFreed n blocks s t) (latched : t.desk.latched m = true) : freed m t :=
      ⟨all.pass, all.pool, all.reservations, all.text, all.stories, all.withdrawn, latched, all.line, all.clock⟩
    refine ⟨fun taken timer => ⟨_, exec_gapTimerExpiry here taken timer, ?_⟩,
      fun x rest slots kind other entry sender noOffer => ?_⟩
    · have follows := State.settleSlips_follows (s.loseInbound n)
      exact gone (((State.freeInbound_freed here reserved).raise .inboundLost).follows follows)
        (follows.notices _ (State.raise_latched _ _))
    · obtain ⟨t, runs, slotsLeft, left⟩ :=
        exec_withdrawDispatch_inbound slots kind other here reserved entry sender noOffer
      refine ⟨t, runs, slotsLeft, ?_⟩
      split
      · next complete => rwa [if_pos complete] at left
      · next incomplete =>
        rw [if_neg incomplete] at left
        exact gone left.1 left.2
  · intro left
    obtain ⟨t, runs, lapsed, pass, rest⟩ := exec_offerQueueTimerExpiry queued
    exact ⟨t, runs, pass, lapsed, rest⟩

end Lost

end Sys2Proof.Machine


namespace Sys2Proof.Machine

open Sys2Proof

/-! ## An offer taken (R7, R80, R83) -/

section Take

variable {s : State} {n source : Nat} {o : Offer} {byHost : Bool}

theorem State.freeInboundEntry_none (full : ∀ i ∈ s.pass.inbound, i ≠ none) : s.freeInboundEntry = none := by
  refine indexWhere_eq_none.mpr fun i mem => ?_
  cases i with
  | none => exact absurd rfl (full none mem)
  | some b => rfl

theorem State.freeInboundEntry_first (free : s.pass.inbound[n]? = some none)
    (lowest : ∀ m, m < n → s.pass.inbound[m]? ≠ some none) : s.freeInboundEntry = some n := by
  refine indexWhere_eq_some.mpr ⟨⟨none, free, rfl⟩, fun m low i there => ?_⟩
  cases i with
  | none => exact absurd there (lowest m low)
  | some b => rfl

/-- The store has an entry and the blocks for a pass of `l` slips (R7). -/
def Store.hasRoom (l : Nat) (st : Store) : Prop := st.stories.length + st.reserved < 64 ∧ l ≤ st.pool.length

theorem Store.reserve_eq {l : Nat} {st : Store} (room : st.hasRoom l) :
    st.reserve n l =
      some { st with pool := st.pool.drop l, reservations := st.reservations.set n (some (st.pool.take l)) } := by
  have entries : 1 ≤ st.freeEntries := by
    have := room.1
    unfold Store.freeEntries
    omega
  exact if_pos ⟨entries, room.2⟩

theorem Store.reserve_none {l : Nat} {st : Store} (full : ¬st.hasRoom l) : st.reserve n l = none := by
  refine if_neg fun both => full ⟨?_, both.2⟩
  have := both.1
  unfold Store.freeEntries at this
  omega

/-- The pass engine with an offer taken in entry `n`. -/
def PassEngine.taken (n : Nat) (o : Offer) (source : Nat) (byHost : Bool) (e : PassEngine) : PassEngine :=
  { e with
      inbound := e.inbound.set n
        (some
          { offer := o, sender := source, byHost := byHost, confirmed := false, expected := 0, running := 0xFFFF#16,
            complete := false, timer := false, pass := e.nextPass }),
      nextPass := e.nextPass + 1 }

/-- The store with the blocks of a pass of `l` slips reserved for entry `n`. -/
def Store.reservedFor (n l : Nat) (st : Store) : Store :=
  { st with pool := st.pool.drop l, reservations := st.reservations.set n (some (st.pool.take l)) }

theorem State.takeOffer_noEntry (none_ : s.freeInboundEntry = none) : s.takeOffer o source byHost = (s, .noEntry) := by
  unfold State.takeOffer
  rw [none_]

theorem State.takeOffer_noRoom (entry : s.freeInboundEntry = some n) (full : ¬s.store.hasRoom o.slipTotal) :
    s.takeOffer o source byHost = (s, .noRoom) := by
  unfold State.takeOffer
  simp only [entry, Store.reserve_none full]

theorem State.takeOffer_noShare (entry : s.freeInboundEntry = some n) (room : s.store.hasRoom o.slipTotal)
    (full : 3 ≤ s.traffic.heldShared) : s.takeOffer o source byHost = (s, .noShare) := by
  unfold State.takeOffer
  simp only [entry, Store.reserve_eq room]
  rw [if_neg (by rw [Traffic.hasRoom_shared rfl]; simpa using full)]

theorem State.takeOffer_taken (entry : s.freeInboundEntry = some n) (room : s.store.hasRoom o.slipTotal)
    (share : s.traffic.heldShared < 3) :
    s.takeOffer o source byHost =
      ({ s with
          store := s.store.reservedFor n o.slipTotal, pass := s.pass.taken n o source byHost,
          traffic :=
            { s.traffic with
                queue := s.traffic.queue ++
                  [newEntry (.take n)
                    { kind := .take, dest := { form := .station, number := source }, payload := keyBytes o.key }] } },
        .taken) := by
  unfold State.takeOffer
  simp only [entry, Store.reserve_eq room]
  rw [if_pos (by rw [Traffic.hasRoom_shared rfl]; simpa using share), State.send_shared rfl]
  refine Prod.ext ?_ rfl
  show (_ : State) = _
  simp only [Traffic.shared, State.onPass, share, if_true]
  rfl

end Take

/-! ## The tests of an OFFER (R79) -/

section Tests

variable {s : State} {k : Key} {o : Offer} {source : Nat} {d : StartRecord}

theorem goodOffer_iff :
    goodOffer o = true ↔
      1 ≤ o.key.origin ∧ o.key.origin ≤ 30 ∧ 1 ≤ o.key.serial ∧ o.key.serial ≤ 4095 ∧ 1 ≤ o.edition ∧
        o.edition ≤ 8 ∧ o.length ≤ 16384 ∧ o.slipTotal = max 1 ((o.length + 31) / 32) := by
  unfold goodOffer
  simp only [Bool.and_eq_true, within_iff, decide_eq_true_iff, Nat.zero_le, true_and, and_assoc]
  rfl

theorem State.heldHere_iff : s.heldHere k = true ↔ ∃ r, s.story k = some r ∧ r.custody ≠ .carbon := by
  simp [State.heldHere, Option.any_eq_true]

theorem State.lockedCarbon_iff :
    s.lockedCarbon k = true ↔ ∃ r, s.story k = some r ∧ r.custody = .carbon ∧ r.lock ≠ none := by
  simp [State.lockedCarbon, Option.any_eq_true, Option.isSome_iff_ne_none]

/-- Who stands with a pass of `k` already (test 5 of R79). -/
def State.offerer (k : Key) (s : State) : Option Nat :=
  ((s.inboundOf k).map fun x => x.2.sender).or ((s.queuedOffer k).map (·.source))

theorem State.testOffer_unsound (bad : goodOffer o ≠ true) : s.testOffer o source = s := by
  unfold State.testOffer
  exact if_pos (by simpa using bad)

theorem State.testOffer_unattended (good : goodOffer o = true) (unattended : s.desk.state = .unattended) :
    s.testOffer o source = s.decline source o.key .unattended := by
  unfold State.testOffer
  dsimp only
  rw [if_neg (by simp [good]), if_pos unattended]

section Attended

variable (good : goodOffer o = true) (attended : s.desk.state ≠ .unattended)

include good attended

theorem State.testOffer_held (held : s.heldHere o.key = true) : s.testOffer o source = s.decline source o.key .heldHere := by
  unfold State.testOffer
  dsimp only
  rw [if_neg (by simp [good]), if_neg attended, if_pos held]

theorem State.testOffer_locked (free : ¬s.heldHere o.key = true) (locked : s.lockedCarbon o.key = true) :
    s.testOffer o source = s.decline source o.key .locked := by
  unfold State.testOffer
  dsimp only
  rw [if_neg (by simp [good]), if_neg attended, if_neg free, if_pos locked]

variable (free : ¬s.heldHere o.key = true) (unlocked : ¬s.lockedCarbon o.key = true)

include free unlocked

theorem State.testOffer_other {n : Nat} (other : s.offerer o.key = some n) :
    s.testOffer o source = if n = source then s else s.decline source o.key .busy := by
  unfold State.offerer at other
  unfold State.testOffer
  dsimp only
  rw [if_neg (by simp [good]), if_neg attended, if_neg free, if_neg unlocked]
  simp only [other]

theorem State.testOffer_ask (none_ : s.offerer o.key = none) (asks : s.asks = true) :
    s.testOffer o source =
      if s.pass.offers.length < 4 then
        ((s.onPass fun e => { e with offers := e.offers ++ [{ offer := o, source := source }] }).raise
          .offerWaiting).tellOffers
      else s.decline source o.key .busy := by
  unfold State.offerer at none_
  unfold State.testOffer
  dsimp only
  rw [if_neg (by simp [good]), if_neg attended, if_neg free, if_neg unlocked]
  simp only [none_, asks, if_true]

theorem State.testOffer_auto (none_ : s.offerer o.key = none) (auto : s.asks = false) {u : State} {r : TakeResult}
    (takes : s.takeOffer o source false = (u, r)) :
    s.testOffer o source =
      match r with
      | .taken | .noShare => u
      | .noEntry => s.decline source o.key .busy
      | .noRoom => s.decline source o.key .noRoom := by
  unfold State.offerer at none_
  unfold State.testOffer
  dsimp only
  rw [if_neg (by simp [good]), if_neg attended, if_neg free, if_neg unlocked]
  simp only [none_, auto, takes, Bool.false_eq_true, if_false]
  cases r <;> rfl

end Attended

theorem exec_offerDispatch {x : RxSlot} {rest : List RxSlot} (slots : s.traffic.slots = x :: rest) (kind : x.kind = .offer) :
    exec .offerDispatch s = .next ((s.testOffer (offerFields x.payload) x.source).freeOldest).settle :=
  congrArg Host.Outcome.next (exec_dispatch slots kind)

/-- An OFFER that joins the offer queue (R82). -/
theorem offer_joins {x : RxSlot} {rest : List RxSlot} (slots : s.traffic.slots = x :: rest) (kind : x.kind = .offer)
    (joins : s.testOffer (offerFields x.payload) x.source =
      ((s.onPass fun e => { e with offers := e.offers ++ [{ offer := offerFields x.payload, source := x.source }] }).raise
          .offerWaiting).tellOffers) :
    ∃ t : State, exec .offerDispatch s = .next t ∧ t.traffic.slots = rest ∧
      t.pass = { s.pass with offers := s.pass.offers ++ [{ offer := offerFields x.payload, source := x.source }] } ∧
      t.desk.latched .offerWaiting = true ∧
      t.screen.status = { s.screen.status with offers := s.pass.offers.length + 1 } ∧
      t.desk.inputs = { s.desk.inputs with offers := s.pass.offers.length + 1 } ∧
      t.line = s.line ∧ t.clock = s.clock ∧ t.store.pool = s.store.pool := by
  refine ⟨_, exec_offerDispatch slots kind, ?_⟩
  rw [joins]
  have told := State.tellOffers_told ((s.onPass fun e =>
    { e with offers := e.offers ++ [{ offer := offerFields x.payload, source := x.source }] }).raise .offerWaiting)
  have latched : ((s.onPass fun e =>
    { e with offers := e.offers ++ [{ offer := offerFields x.payload, source := x.source }] }).raise
      .offerWaiting).desk.latched .offerWaiting = true := State.raise_latched _ _
  have count : (s.pass.offers ++ [({ offer := offerFields x.payload, source := x.source } : QueuedOffer)]).length =
      s.pass.offers.length + 1 := by simp
  have inputs : ((s.onPass fun e =>
    { e with offers := e.offers ++ [{ offer := offerFields x.payload, source := x.source }] }).raise
      .offerWaiting).desk.inputs = s.desk.inputs := by simp [State.raise_desk]
  generalize known : (s.onPass fun e =>
    { e with offers := e.offers ++ [{ offer := offerFields x.payload, source := x.source }] }).raise .offerWaiting = u at *
  have pass : u.pass = { s.pass with offers := s.pass.offers ++ [{ offer := offerFields x.payload, source := x.source }] } := by
    rw [← known]
    rfl
  have rest_ : u.traffic = s.traffic ∧ u.screen = s.screen ∧ u.line = s.line ∧ u.clock = s.clock ∧ u.store = s.store := by
    rw [← known]
    exact ⟨rfl, rfl, rfl, rfl, rfl⟩
  obtain ⟨traffic, screen, line, clock, store⟩ := rest_
  have length : u.pass.offers.length = s.pass.offers.length + 1 := by rw [pass]; exact count
  generalize u.tellOffers = v at *
  have still : v.traffic.slots = x :: rest := by rw [told.traffic, traffic, slots]
  rw [State.freeOldest_eq still]
  have follows := State.settle_follows { v with traffic := { v.traffic with slots := rest } }
  generalize State.settle _ = t at *
  have told_status := told.status
  have told_inputs := congrArg Desk.inputs told.desk
  have told_notices := congrArg Desk.notices told.desk
  have desk := congrArg Desk.inputs follows.deskRest
  rw [length] at told_status told_inputs
  rw [screen] at told_status
  rw [inputs] at told_inputs
  refine ⟨follows.slots, (follows.pass.trans told.pass).trans pass, follows.notices _ ?_,
    follows.status.trans told_status, desk.trans told_inputs, (follows.line.trans told.line).trans line,
    (follows.clock.trans told.clock).trans clock, ?_⟩
  · exact (congrArg (fun m => m.getLsbD (Notice.bit .offerWaiting)) told_notices).trans latched
  · rw [follows.storeRest]
    show v.store.pool = _
    rw [told.store, store]

/-- Settles O32. -/
theorem offerTested : Obligations.OfferTested := by
  unfold Obligations.OfferTested
  intro x rest d s slots kind record o k after leads declined sound here locked other
  have led {u : State} (tested : (s.testOffer o x.source).freeOldest = u) : leads u :=
    ⟨_, exec_offerDispatch slots kind, tested ▸ State.settle_follows _⟩
  have asideLeads (aside : s.testOffer o x.source = s) : leads (after s.traffic.queue) :=
    led (by rw [aside]; exact State.freeOldest_eq slots)
  have declines {r : DeclineReason} {n : Nat} (code : r.code = n) (tested : s.testOffer o x.source = s.decline x.source k r) :
      declined n := by
    refine led ?_
    rw [tested, State.decline, State.send_shared rfl, ← code]
    exact State.freeOldest_eq (x := x) slots
  have asks : s.asks = d.ask := by simp [State.asks, record]
  refine ⟨fun unsound => asideLeads (State.testOffer_unsound (unsound ∘ goodOffer_iff.mp)),
    fun good unattended => declines rfl (State.testOffer_unattended (goodOffer_iff.mpr good) unattended),
    fun good attended => ?_⟩
  have good := goodOffer_iff.mpr good
  refine ⟨fun held => declines rfl (State.testOffer_held good attended (State.heldHere_iff.mpr held)),
    fun free locked => declines rfl
      (State.testOffer_locked good attended (free ∘ State.heldHere_iff.mp) (State.lockedCarbon_iff.mpr locked)),
    fun free unlocked => ?_⟩
  have free := free ∘ State.heldHere_iff.mp
  have unlocked := unlocked ∘ State.lockedCarbon_iff.mp
  have auto (ask : d.ask = false) : s.asks = false := asks.trans ask
  refine ⟨fun same => asideLeads ((State.testOffer_other good attended free unlocked same).trans (if_pos rfl)),
    fun n there differs => declines rfl ((State.testOffer_other good attended free unlocked there).trans (if_neg differs)),
    fun none_ ask full => declines rfl
      ((State.testOffer_ask good attended free unlocked none_ (asks.trans ask)).trans (if_neg (by omega))),
    fun none_ ask room => offer_joins slots kind
      ((State.testOffer_ask good attended free unlocked none_ (asks.trans ask)).trans (if_pos room)),
    fun none_ ask => ⟨fun full => declines rfl
      (State.testOffer_auto good attended free unlocked none_ (auto ask)
        (State.takeOffer_noEntry (State.freeInboundEntry_none full))), fun n empty lowest => ?_⟩⟩
  have entry := State.freeInboundEntry_first empty lowest
  refine ⟨fun full => declines rfl
    (State.testOffer_auto good attended free unlocked none_ (auto ask) (State.takeOffer_noRoom entry full)),
    fun room blocks => ⟨fun full => asideLeads
      (State.testOffer_auto good attended free unlocked none_ (auto ask)
        (State.takeOffer_noShare entry ⟨room, blocks⟩ full)), fun share => led ?_⟩⟩
  rw [State.testOffer_auto good attended free unlocked none_ (auto ask) (State.takeOffer_taken entry ⟨room, blocks⟩ share)]
  exact State.freeOldest_eq (x := x) slots

end Tests

end Sys2Proof.Machine


namespace Sys2Proof.Machine

open Sys2Proof

/-! ## ANSWER OFFER (R83) -/

section Answer

variable {s t u w : State} {k : Key} {q : QueuedOffer} {n : Nat}

/-- What ANSWER OFFER leaves: the queue, the pass tables and the store given, the offer of `k` removed and its new
count told, and the response. -/
structure OfferAnswer (k : Key) (queue : List OutEntry) (p : PassEngine) (st : Store) (r : Result) (data : ResponseData)
    (s t : State) : Prop where
  traffic : t.traffic = { s.traffic with queue := queue }
  pass : t.pass = { p with offers := s.pass.offers.filter fun o => o.offer.key ≠ k }
  store : t.store = st
  status : t.screen.status =
    { s.screen.status with offers := (s.pass.offers.filter fun o => o.offer.key ≠ k).length }
  inputs : t.desk.inputs =
    { s.desk.inputs with offers := (s.pass.offers.filter fun o => o.offer.key ≠ k).length }
  response : t.desk.response = some { name := nameByte .answerOffer, result := r, field := none, data := data }
  line : t.line = s.line
  fit : t.fit = s.fit
  page : t.page = s.page
  clock : t.clock = s.clock

/-- The answer is given once the count has been told. -/
theorem OffersTold.answer {queue : List OutEntry} {p : PassEngine} {st : Store} (r : Result) (data : ResponseData)
    (told : OffersTold
      { s.takeTransfer (nameByte .answerOffer) with
        traffic := { s.traffic with queue := queue },
        pass := { p with offers := s.pass.offers.filter fun o => o.offer.key ≠ k }, store := st } w) :
    OfferAnswer k queue p st r data s (w.settleRows.respond r none data) := by
  have all := told.rows (State.settleRows_follows w)
  generalize w.settleRows = v at *
  have command := congrArg Desk.command all.desk
  exact {
    traffic := all.traffic
    pass := all.pass
    store := all.store
    status := all.status
    inputs := by
      have inputs := congrArg Desk.inputs all.desk
      exact inputs
    response := by
      show some (Response.mk (v.desk.command.getD 0#8) r none data) = _
      rw [command]
      rfl
    line := all.line
    fit := all.fit
    page := all.page
    clock := all.clock }

theorem exec_answerOffer (hears : s.hearsHost) (k : Key) (take : Bool) :
    exec (.answerOffer k take) s = .next ((s.takeTransfer (nameByte .answerOffer)).answerOffer k take) :=
  congrArg Host.Outcome.next (State.command_of_hearsHost hears (by decide))

/-- The choice take, by its tests. -/
theorem State.takeQueued_held (held : s.heldHere q.offer.key = true) :
    s.takeQueued q = ((s.declineOffer q .heldHere).settleRows).refuse .wrongState := if_pos held

theorem State.takeQueued_locked (free : ¬s.heldHere q.offer.key = true) (locked : s.lockedCarbon q.offer.key = true) :
    s.takeQueued q = ((s.declineOffer q .locked).settleRows).refuse .locked := (if_neg free).trans (if_pos locked)

theorem State.takeQueued_takes (free : ¬s.heldHere q.offer.key = true) (unlocked : ¬s.lockedCarbon q.offer.key = true)
    {r : TakeResult} (takes : s.takeOffer q.offer q.source true = (u, r)) :
    s.takeQueued q =
      match r with
      | .taken => ((u.removeOffer q.offer.key).settleRows).done .nothing
      | .noEntry => ((s.declineOffer q .busy).settleRows).refuse .busy
      | .noRoom => ((s.declineOffer q .noRoom).settleRows).refuse .noRoom
      | .noShare => s.refuse .full := by
  unfold State.takeQueued
  dsimp only
  rw [if_neg free, if_neg unlocked]
  simp only [takes]
  cases r <;> rfl

end Answer

/-- Settles O34. -/
theorem offerAnswered : Obligations.OfferAnswered := by
  unfold Obligations.OfferAnswered
  refine fun k s hears => ⟨fun none_ take => ?_, fun q queued => ?_⟩
  · rw [exec_answerOffer hears]
    have this : State.queuedOffer k (s.takeTransfer (nameByte .answerOffer)) = none := none_
    unfold State.answerOffer
    rw [this]
    rfl
  · obtain rfl := State.queuedOffer_key queued
    intro left answered declined here locked
    have this : State.queuedOffer q.offer.key (s.takeTransfer (nameByte .answerOffer)) = some q := queued
    have runs (take : Bool) : exec (.answerOffer q.offer.key take) s =
        .next (if take then (s.takeTransfer (nameByte .answerOffer)).takeQueued q
          else (s.takeTransfer (nameByte .answerOffer)).declineQueued q) := by
      rw [exec_answerOffer hears]
      unfold State.answerOffer
      rw [this]
    have gives {take : Bool} {queue : List OutEntry} {p : PassEngine} {st : Store} {r : Result} {data : ResponseData}
        {t : State} (runs : exec (.answerOffer q.offer.key take) s = .next t) (all : OfferAnswer q.offer.key queue p st r data s t) :
        answered take queue p st r data :=
      ⟨t, runs, all.traffic, all.pass, all.store, all.status, all.inputs, all.response, all.line, all.fit, all.page,
        all.clock⟩
    have declines (reason : DeclineReason) (take : Bool) (r : Result) (data : ResponseData)
        (runs : exec (.answerOffer q.offer.key take) s =
          .next ((((s.takeTransfer (nameByte .answerOffer)).declineOffer q reason).settleRows).respond r none data)) :
        declined take reason.code r data :=
      gives runs (OffersTold.answer r data (State.declineOffer_told this reason))
    have notHeld (free : ¬here) : ¬(s.takeTransfer (nameByte .answerOffer)).heldHere q.offer.key = true :=
      fun is => free (State.heldHere_iff.mp is)
    have notLocked (unlocked : ¬locked) : ¬(s.takeTransfer (nameByte .answerOffer)).lockedCarbon q.offer.key = true :=
      fun is => unlocked (State.lockedCarbon_iff.mp is)
    have takes {t : State} (is : (s.takeTransfer (nameByte .answerOffer)).takeQueued q = t) :
        exec (.answerOffer q.offer.key true) s = .next t := (runs true).trans (congrArg Host.Outcome.next is)
    refine ⟨declines .desk false .done _ ?_, fun held => declines .heldHere true .wrongState .nothing (takes ?_),
      fun free locked => declines .locked true .locked .nothing (takes ?_), fun free unlocked full =>
        declines .busy true .busy .nothing (takes ?_), fun n free unlocked empty lowest => ?_⟩
    · refine (runs false).trans (congrArg Host.Outcome.next ?_)
      have room : (s.takeTransfer (nameByte .answerOffer)).traffic.hasRoom .answer = decide (s.traffic.heldShared < 3) :=
        Traffic.hasRoom_shared rfl
      show (State.settleRows _).done (.declineSent (Traffic.hasRoom _ _)) = _
      rw [room]
      rfl
    · exact State.takeQueued_held (State.heldHere_iff.mpr held)
    · exact State.takeQueued_locked (notHeld free) (State.lockedCarbon_iff.mpr locked)
    · exact State.takeQueued_takes (notHeld free)
        (notLocked unlocked)
        (State.takeOffer_noEntry (State.freeInboundEntry_none full))
    · intro room
      have entry : (s.takeTransfer (nameByte .answerOffer)).freeInboundEntry = some n :=
        State.freeInboundEntry_first empty lowest
      have result {u : State} {r : TakeResult}
          (is : (s.takeTransfer (nameByte .answerOffer)).takeOffer q.offer q.source true = (u, r)) :=
        State.takeQueued_takes (notHeld free)
          (notLocked unlocked) is
      refine ⟨fun noRoom => declines .noRoom true .noRoom .nothing (takes (result (State.takeOffer_noRoom entry noRoom))),
        fun hasRoom full => takes (result (State.takeOffer_noShare entry hasRoom full)), fun hasRoom share => ?_⟩
      refine gives (takes (result (State.takeOffer_taken entry hasRoom share)))
        (OffersTold.answer .done .nothing (p := s.pass.taken n q.offer q.source true) ?_)
      exact State.tellOffers_told _

end Sys2Proof.Machine


namespace Sys2Proof.Machine

open Sys2Proof

/-! ## The entry PASS takes (R67) -/

section Choice

/-- The earlier of two ended entries, the first of them where they are as early. -/
def earlier (best : Option (Nat × Nat)) (x : Nat × Nat) : Option (Nat × Nat) :=
  match best with
  | none => some x
  | some b => if x.1 < b.1 then some x else some b

theorem foldl_earlier (l : List (Nat × Nat)) (best : Option (Nat × Nat)) :
    (l.foldl earlier best = none ↔ best = none ∧ l = []) ∧
      ∀ y, l.foldl earlier best = some y →
        (best = some y ∨ y ∈ l) ∧ (∀ b, best = some b → y.1 ≤ b.1) ∧ ∀ x ∈ l, y.1 ≤ x.1 := by
  induction l generalizing best with
  | nil =>
    refine ⟨by simp, fun y found => ⟨.inl found, fun b same => ?_, by simp⟩⟩
    rw [List.foldl_nil] at found
    rw [found] at same
    cases same
    exact Nat.le_refl _
  | cons x l ih =>
    rw [List.foldl_cons]
    obtain ⟨none_iff, least⟩ := ih (earlier best x)
    have step : ∃ b, earlier best x = some b ∧ (best = some b ∨ b = x) ∧ b.1 ≤ x.1 ∧ ∀ c, best = some c → b.1 ≤ c.1 := by
      cases best with
      | none => exact ⟨x, rfl, .inr rfl, Nat.le_refl _, nofun⟩
      | some c =>
        by_cases before : x.1 < c.1
        · exact ⟨x, if_pos before, .inr rfl, Nat.le_refl _, fun d same => by cases same; exact Nat.le_of_lt before⟩
        · exact ⟨c, if_neg before, .inl rfl, by omega, fun d same => by cases same; exact Nat.le_refl _⟩
    obtain ⟨b, now, origin, first, others⟩ := step
    refine ⟨?_, fun y found => ?_⟩
    · rw [none_iff, now]
      simp
    · obtain ⟨here, below, rest⟩ := least y found
      refine ⟨?_, fun c same => (below b now).trans (others c same), fun z mem => ?_⟩
      · rcases here with same | mem
        · rw [now] at same
          cases same
          exact origin.imp id fun is => by rw [is]; exact List.mem_cons_self
        · exact .inr (List.mem_cons_of_mem _ mem)
      · rcases List.mem_cons.mp mem with rfl | later
        · exact (below b now).trans first
        · exact rest z later

variable {s : State} {n : Nat}

/-- The ended entries, each with its end order and its number. -/
def endedEntries (l : List (Option Pass)) : List (Nat × Nat) :=
  l.zipIdx.filterMap fun x => x.1.bind fun p => if p.phase = .ended then some (p.endOrder, x.2) else none

theorem mem_endedEntries {l : List (Option Pass)} {e i : Nat} :
    (e, i) ∈ endedEntries l ↔ ∃ p, l[i]? = some (some p) ∧ p.phase = .ended ∧ p.endOrder = e := by
  unfold endedEntries
  rw [List.mem_filterMap]
  constructor
  · rintro ⟨⟨o, j⟩, mem, found⟩
    obtain ⟨p, rfl, picked⟩ := Option.bind_eq_some_iff.mp found
    have there : l[j]? = some (some p) := by simpa using List.mem_zipIdx_iff_getElem?.mp mem
    split at picked
    · next ended =>
      cases picked
      exact ⟨p, there, ended, rfl⟩
    · cases picked
  · rintro ⟨p, there, ended, rfl⟩
    exact ⟨(some p, i), List.mem_zipIdx_iff_getElem?.mpr there, by simp [ended]⟩

theorem earliestEnded_eq (l : List (Option Pass)) :
    earliestEnded l = ((endedEntries l).foldl earlier none).map (·.2) := rfl

theorem earliestEnded_some {l : List (Option Pass)} (found : earliestEnded l = some n) :
    ∃ p, l[n]? = some (some p) ∧ p.phase = .ended ∧
      ∀ (m : Nat) (q : Pass), l[m]? = some (some q) → q.phase = .ended → p.endOrder ≤ q.endOrder := by
  rw [earliestEnded_eq] at found
  obtain ⟨⟨e, i⟩, least, rfl⟩ := Option.map_eq_some_iff.mp found
  obtain ⟨mem, -, below⟩ := (foldl_earlier (endedEntries l) none).2 _ least
  obtain ⟨p, there, ended, rfl⟩ := mem_endedEntries.mp (mem.resolve_left nofun)
  exact ⟨p, there, ended, fun m q entry over_ => below (q.endOrder, m) (mem_endedEntries.mpr ⟨q, entry, over_, rfl⟩)⟩

theorem earliestEnded_none {l : List (Option Pass)} :
    earliestEnded l = none ↔ ∀ (m : Nat) (q : Pass), l[m]? = some (some q) → q.phase ≠ .ended := by
  rw [earliestEnded_eq, Option.map_eq_none_iff, (foldl_earlier _ none).1]
  constructor
  · rintro ⟨-, empty⟩ m q entry ended
    have mem : (q.endOrder, m) ∈ endedEntries l := mem_endedEntries.mpr ⟨q, entry, ended, rfl⟩
    rw [empty] at mem
    cases mem
  · intro goOn
    refine ⟨rfl, List.eq_nil_iff_forall_not_mem.mpr fun ⟨e, i⟩ mem => ?_⟩
    obtain ⟨p, there, ended, -⟩ := mem_endedEntries.mp mem
    exact goOn i p there ended

theorem State.passEntryChoice_some (chosen : s.passEntryChoice = some n) :
    (s.pass.outbound[n]? = some none ∧ ∀ m, m < n → s.pass.outbound[m]? ≠ some none) ∨
      ((∀ m : Nat, s.pass.outbound[m]? ≠ some none) ∧
        ∃ p, s.pass.outbound[n]? = some (some p) ∧ p.phase = .ended ∧
          ∀ (m : Nat) (q : Pass), s.pass.outbound[m]? = some (some q) → q.phase = .ended → p.endOrder ≤ q.endOrder) := by
  unfold State.passEntryChoice at chosen
  cases free : indexWhere (fun o : Option Pass => o.isNone) s.pass.outbound with
  | some m =>
    rw [free, Option.some_or] at chosen
    cases chosen
    obtain ⟨⟨o, there, none_⟩, lower⟩ := indexWhere_eq_some.mp free
    rw [Option.isNone_iff_eq_none] at none_
    subst none_
    exact .inl ⟨there, fun m low entry => absurd (lower m low none entry) (by simp)⟩
  | none =>
    rw [free, Option.none_or] at chosen
    refine .inr ⟨fun m entry => ?_, earliestEnded_some chosen⟩
    exact absurd (indexWhere_eq_none.mp free none (List.mem_of_getElem? entry)) (by simp)

theorem State.passEntryChoice_none :
    s.passEntryChoice = none ↔ ∀ o ∈ s.pass.outbound, ∃ p, o = some p ∧ p.phase ≠ .ended := by
  unfold State.passEntryChoice
  rw [Option.or_eq_none_iff, indexWhere_eq_none, earliestEnded_none]
  constructor
  · rintro ⟨used, goOn⟩ o mem
    cases o with
    | none => exact absurd (used none mem) (by simp)
    | some p =>
      obtain ⟨m, entry⟩ := List.mem_iff_getElem?.mp mem
      exact ⟨p, rfl, goOn m p entry⟩
  · intro all
    refine ⟨fun o mem => ?_, fun m q entry => ?_⟩
    · obtain ⟨p, rfl, -⟩ := all o mem
      rfl
    · obtain ⟨p, same, goesOn⟩ := all _ (List.mem_of_getElem? entry)
      cases same
      exact goesOn

end Choice

end Sys2Proof.Machine


namespace Sys2Proof.Machine

open Sys2Proof

/-! ## What the windows do to the port (R11, R176) -/

section RowsDropped

variable {s t : State} {p q r : Port}

/-- From `p` to `q` reads of the row builder have been withdrawn or set aside. -/
structure Port.RowsDropped (p q : Port) : Prop where
  slip : ∀ a, p.slip = some a → a.purpose.isRow = false → q.slip = some a
  noSlip : p.slip = none → q.slip = none
  busy : ∀ mine : Access → Bool, (∀ a, mine a = true → a.purpose.isRow = false) → q.busy.any mine = p.busy.any mine

namespace Port.RowsDropped

theorem refl (p : Port) : p.RowsDropped p := ⟨fun _ h _ => h, id, fun _ _ => rfl⟩

theorem trans (h : p.RowsDropped q) (k : q.RowsDropped r) : p.RowsDropped r :=
  ⟨fun a waits other => k.slip a (h.slip a waits other) other, fun none_ => k.noSlip (h.noSlip none_),
    fun mine others => (k.busy mine others).trans (h.busy mine others)⟩

theorem abandon (p : Port) : p.RowsDropped (p.abandon Purpose.isRow) where
  slip := fun a waits other => by
    show p.slip.filter _ = some a
    rw [waits]
    simp [Option.filter, other]
  noSlip := fun none_ => by
    show p.slip.filter _ = none
    rw [none_]
    rfl
  busy := fun mine others => by
    show (p.busy.map _).any mine = p.busy.any mine
    cases p.busy with
    | none => rfl
    | some a =>
      rw [Option.map_some, Option.any_some, Option.any_some]
      by_cases row : a.purpose.isRow = true
      · rw [if_pos row]
        have no (b : Access) (same : b.purpose = a.purpose) : mine b = false := Bool.eq_false_iff.mpr fun yes => by
          have := others b yes
          rw [same, row] at this
          cases this
        rw [no a rfl, no { a with aside := true } rfl]
      · rw [if_neg row]

end Port.RowsDropped

theorem State.dirty_port (n : Nat) (rows : Nat → Bool) (s : State) : s.port.RowsDropped (s.dirty n rows).port := by
  unfold State.dirty
  split
  · exact Port.RowsDropped.abandon s.port
  · exact Port.RowsDropped.refl s.port

theorem State.windowsEditBarred_port (k : Key) (s : State) : s.port.RowsDropped (s.windowsEditBarred k).port := by
  unfold State.windowsEditBarred State.eachWindowOn
  generalize List.range 8 = l
  induction l generalizing s with
  | nil => exact Port.RowsDropped.refl s.port
  | cons n l ih =>
    rw [List.foldl_cons]
    refine Port.RowsDropped.trans ?_ (ih _)
    split
    · dsimp only
      split
      · exact State.dirty_port n anyRow s
      · exact Port.RowsDropped.refl s.port
    · exact Port.RowsDropped.refl s.port

end RowsDropped

/-! ## PASS (R67) -/

section Begins

variable {s : State} {k : Key} {dest : Address} {carbon : Bool} {n : Nat} {r : Story}

theorem goodDestination_iff {station : Nat} :
    goodDestination station dest = true ↔
      (dest.form = .station → 1 ≤ dest.number ∧ dest.number ≤ 30 ∧ dest.number ≠ station) ∧
        (dest.form = .role → 1 ≤ dest.number ∧ dest.number ≤ 15) := by
  unfold goodDestination
  cases dest.form <;> simp [within_iff, and_assoc]

/-- Why PASS is refused, by the record of the story (R67). -/
theorem State.passRefusal_eq (stands : s.story k = some r) :
    s.passRefusal k dest =
      if !r.isHeld then some .wrongState
      else if r.lock.isSome then some .locked
      else if r.damaged then some .damaged
      else if !goodDestination s.desk.station dest then some .badField
      else if s.passEntryChoice.isNone then some .full
      else none := by
  unfold State.passRefusal
  rw [stands]

/-- PASS begun, before the slip writer and the rows follow. -/
def State.passBegun (n : Nat) (k : Key) (dest : Address) (carbon : Bool) (length : Nat) (s : State) : State :=
  ((s.onPass fun e => { e with outbound := e.outbound.set n (some (newPass k dest carbon length)) }).beginPass k)

theorem State.startPass_eq (stands : s.story k = some r) (chosen : s.passEntryChoice = some n) :
    State.startPass k dest carbon s =
      ((((s.passBegun n k dest carbon r.length).prepareOffer n k).settleSlips).settleRows).done (.passEntry n) := by
  unfold State.startPass State.beginOutbound State.passBegun
  rw [chosen, stands]
  rfl

/-- A story that has been given to a pass. -/
def Story.sentOut (r : Story) : Story := { r with custody := .outbound, receivedFrom := none }

theorem Store.sentOut_story (st : Store) (k : Key) : (st.change k Story.sentOut).story k = (st.story k).map Story.sentOut :=
  Store.story_change (f := Story.sentOut) (fun _ => rfl) st

/-- A pass that begins leaves every text where it was. -/
theorem Store.sentOut_texts (st : Store) (k key : Key) :
    ((st.change k Story.sentOut).story key).map (fun r => (r.chain, r.length)) =
      (st.story key).map fun r => (r.chain, r.length) := by
  unfold Store.story Store.change
  dsimp only
  induction st.stories with
  | nil => rfl
  | cons r l ih =>
    have sameKey : (if r.key = k then r.sentOut else r).key = r.key := by split <;> rfl
    rw [List.map_cons, List.find?_cons, List.find?_cons, sameKey]
    split
    · rw [Option.map_some, Option.map_some]
      split <;> rfl
    · exact ih

theorem State.passBegun_eq (n : Nat) (k : Key) (dest : Address) (carbon : Bool) (length : Nat) (s : State) :
    s.passBegun n k dest carbon length =
      State.windowsEditBarred k
        { s with
            pass := { s.pass with outbound := s.pass.outbound.set n (some (newPass k dest carbon length)) },
            store := s.store.change k Story.sentOut } := rfl

/-- What PASS has begun differs in the entry, the story, the windows and the port. -/
theorem State.passBegun_only (n : Nat) (k : Key) (dest : Address) (carbon : Bool) (length : Nat) (s : State) :
    OnlyWindows
      { s with
          pass := { s.pass with outbound := s.pass.outbound.set n (some (newPass k dest carbon length)) },
          store := s.store.change k Story.sentOut }
      (s.passBegun n k dest carbon length) := by
  rw [State.passBegun_eq]
  exact State.windowsEditBarred_only k _

theorem State.passBegun_story (length : Nat) (stands : s.story k = some r) :
    (s.passBegun n k dest carbon length).story k = some r.sentOut := by
  unfold State.story
  rw [(State.passBegun_only n k dest carbon length s).store]
  exact (Store.sentOut_story s.store k).trans (congrArg _ stands)

theorem State.passBegun_windows (length m : Nat) (low : m < 8) :
    (s.passBegun n k dest carbon length).screen.windows[m]? =
      (s.screen.windows[m]?).map fun w => if w.key = some k then w.barred else w := by
  rw [State.passBegun_eq, State.windowsEditBarred_get k _ m low]

theorem State.passBegun_port (n : Nat) (k : Key) (dest : Address) (carbon : Bool) (length : Nat) (s : State) :
    s.port.RowsDropped (s.passBegun n k dest carbon length).port := by
  have port := State.windowsEditBarred_port k
    { s with
        pass := { s.pass with outbound := s.pass.outbound.set n (some (newPass k dest carbon length)) },
        store := s.store.change k Story.sentOut }
  rw [State.passBegun_eq]
  exact port

/-- What stands once PASS is answered, when `v` differs from `s` in the tables given, in windows barred from EDIT and
in the port. -/
theorem passBegins_answered {v : State} {p : PassEngine} {st : Store} {traffic : Traffic}
    (only : OnlyWindows
      { s.takeTransfer (nameByte .pass) with pass := p, store := st, traffic := traffic } v)
    (windows : ∀ m w, m < 8 → s.screen.windows[m]? = some w →
      v.screen.windows[m]? = some (if w.key = some k then w.barred else w)) :
    let t := (v.settleSlips.settleRows).done (.passEntry n)
    t.pass = p ∧ t.store = st ∧ answeredDone .pass (.passEntry n) t ∧ toldEditBarred k s t ∧ t.line = s.line ∧
      t.traffic = traffic ∧ t.fit = s.fit ∧ t.page = s.page ∧ t.clock = s.clock := by
  have slips := (State.settleSlips_slip v).rest
  generalize v.settleSlips = y at *
  have count : y.screenCount = s.screenCount := by
    unfold State.screenCount
    rw [slips, only.desk]
    rfl
  have windows (m : Nat) (w : Window) (low : m < 8) (here : s.screen.windows[m]? = some w) :
      y.screen.windows[m]? = some (if w.key = some k then w.barred else w) := by
    rw [slips]
    exact windows m w low here
  have told := State.settleRows_toldEditBarred (k := k) (s := s) (u := y) count windows
  have rows := State.settleRows_follows y
  generalize y.settleRows = x at *
  rw [slips] at rows
  have desk : x.desk = (s.takeTransfer (nameByte .pass)).desk := rows.desk.trans only.desk
  exact ⟨rows.pass.trans only.pass, rows.store.trans only.store,
    answeredDone_done _ (by rw [desk]; rfl) (by rw [desk]; rfl), told, rows.line.trans only.line,
    rows.traffic.trans only.traffic, rows.fit.trans only.fit, rows.page.trans only.page, rows.clock.trans only.clock⟩

/-- The first entry of a list that gives something. -/
theorem findSome?_only {f : Nat → Option Access} {m : Nat} {a : Access} {l : List Nat} (mem : m ∈ l)
    (found : f m = some a) (others : ∀ i ∈ l, i ≠ m → f i = none) : l.findSome? f = some a := by
  induction l with
  | nil => cases mem
  | cons i l ih =>
    rw [List.findSome?_cons]
    by_cases same : i = m
    · rw [same, found]
    · rw [others i List.mem_cons_self same]
      exact ih ((List.mem_cons.mp mem).resolve_left (Ne.symm same)) fun j there => others j (List.mem_cons_of_mem _ there)

/-- The read an outbound entry makes next. -/
theorem State.outboundWanted_reads {p : Pass} {i : Nat} (entry : s.outbound n = some p) (reading : p.reading = some i)
    (story : s.story p.key = some r)
    (free : s.port.serves (if p.phase = .offering then .checkRead n else .slipRead n) = false) :
    s.outboundWanted n =
      some { purpose := if p.phase = .offering then .checkRead n else .slipRead n, block := r.chain.getD i 0, first := 0,
             count := min 32 (r.length - 32 * i), aside := false } := by
  unfold State.outboundWanted
  rw [entry]
  dsimp only
  rw [reading, story]
  exact if_neg (by simp [free])

/-- With nothing wanted before, the slip writer wants the first read of the pass begun. -/
theorem State.passBegun_wants (stands : s.story k = some r) (low : n < 4)
    (length : s.pass.outbound.length = 4) (nothing : s.slipWriterWants = none)
    (idle : ∀ c, s.port.busy = some c → c.purpose = .checkRead n → c.aside = true) :
    ((s.passBegun n k dest carbon r.length).withEntry n
        { newPass k dest carbon r.length with reading := some 0 }).slipWriterWants =
      some { purpose := .checkRead n, block := r.chain.getD 0 0, first := 0, count := min 32 r.length, aside := false } := by
  have only := State.passBegun_only n k dest carbon r.length s
  have port := State.passBegun_port n k dest carbon r.length s
  have story := State.passBegun_story (n := n) (dest := dest) (carbon := carbon) r.length stands
  generalize s.passBegun n k dest carbon r.length = u at *
  obtain ⟨noWrite, noRead⟩ := Option.or_eq_none_iff.mp nothing
  have stories (key : Key) : (u.story key).map (fun r => (r.chain, r.length)) = (s.story key).map fun r => (r.chain, r.length) := by
    unfold State.story
    rw [only.store]
    exact Store.sentOut_texts s.store k key
  have serves (mine : Purpose) (slips : mine.isRow = false) : u.port.serves mine = s.port.serves mine :=
    port.busy _ fun a both => by
      rw [Bool.and_eq_true] at both
      rw [of_decide_eq_true both.1]
      exact slips
  have inbound := congrArg PassEngine.inbound only.pass
  have reservations := congrArg Store.reservations only.store
  have write : (u.withEntry n { newPass k dest carbon r.length with reading := some 0 }).slipWriteWanted = none := by
    rw [← noWrite]
    refine State.slipWriteWanted_congr (congrArg Traffic.slots only.traffic) ?_ ?_ fun x i => ?_
    · exact inbound
    · exact reservations
    · exact port.busy _ fun a mine => by rw [of_decide_eq_true mine]; rfl
  unfold State.slipWriterWants
  rw [write, Option.none_or]
  have entry (m : Nat) (other : m ≠ n) :
      (u.withEntry n { newPass k dest carbon r.length with reading := some 0 }).outbound m = s.outbound m := by
    unfold State.outbound State.withEntry
    simp only [only.pass, List.getD_eq_getElem?_getD, List.getElem?_set_ne (Ne.symm other)]
  refine findSome?_only (List.mem_range.mpr low) ?_ fun m mem other => ?_
  · have mine : (u.withEntry n { newPass k dest carbon r.length with reading := some 0 }).outbound n =
        some { newPass k dest carbon r.length with reading := some 0 } := by
      refine Told.getD_some (List.getElem?_set_self ?_)
      rw [only.pass]
      simpa [length] using low
    have free : u.port.serves (.checkRead n) = false := by
      rw [serves _ rfl]
      unfold Port.serves
      cases busy : s.port.busy with
      | none => rfl
      | some c => by_cases same : c.purpose = .checkRead n <;> simp [same, idle c busy]
    exact State.outboundWanted_reads (r := r.sentOut) mine rfl story free
  · have none_ := List.findSome?_eq_none_iff.mp noRead m mem
    rw [← none_]
    exact State.outboundWanted_congr (entry m other) stories (serves _ rfl) (serves _ rfl)

/-- PASS taken and passing its checks. -/
theorem exec_pass_begins (hears : s.hearsHost) (stands : s.story k = some r) (held : r.custody = .held)
    (unlocked : r.lock = none) (sound : r.damaged = false) (reaches : goodDestination s.desk.station dest = true)
    (chosen : s.passEntryChoice = some n) :
    exec (.pass k dest carbon) s =
      .next ((((((s.takeTransfer (nameByte .pass)).passBegun n k dest carbon r.length).prepareOffer n
        k).settleSlips).settleRows).done (.passEntry n)) := by
  have there : (s.takeTransfer (nameByte .pass)).story k = some r := stands
  have choice : (s.takeTransfer (nameByte .pass)).passEntryChoice = some n := chosen
  refine (State.command_unless_goes hears (by decide) ?_).trans ?_
  · rw [State.passRefusal_eq there]
    simp [Story.isHeld, held, unlocked, sound, reaches, choice]
  · rw [State.startPass_eq there choice]

theorem State.prepareOffer_reads {u : State} {p : Pass} (entry : u.pass.outbound[n]? = some (some p))
    (story : u.story k = some r) (long : 0 < r.length) :
    u.prepareOffer n k = u.withEntry n { p with reading := some 0 } := by
  unfold State.prepareOffer
  have notEmpty : ¬(Option.map (fun x : Story => x.length) (some r)).getD 0 = 0 := Nat.pos_iff_ne_zero.mp long
  rw [story, if_neg notEmpty, State.onOutbound_eq entry]

/-- A built frame goes in while its entry's share is free. -/
theorem State.passFrame_inserts {u : State} {p : Pass} {f : OutFrame} (entry : u.pass.outbound[n]? = some (some p))
    (free : u.traffic.held (.passEntry n) = 0) :
    u.passFrame n f =
      { u.withEntry n { p with reading := none, ready := none, offered := p.offered || decide (f.kind = .offer) } with
        traffic := { u.traffic with queue := u.traffic.queue ++ [newEntry (.passEntry n) f] } } := by
  have room := Traffic.hasRoom_pass _ _ free
  unfold State.passFrame State.send
  rw [if_pos room, if_pos room]
  have sent : (u.onTraffic (Traffic.insert (.passEntry n) f)).pass.outbound[n]? = some (some p) := entry
  rw [State.onOutbound_eq sent]
  rfl

/-- The OFFER of an entry, inserted. -/
theorem State.buildOffer_inserts {u : State} {p : Pass} (entry : u.pass.outbound[n]? = some (some p))
    (story : u.story p.key = some r) (free : u.traffic.held (.passEntry n) = 0) :
    u.buildOffer n =
      { u.withEntry n { p with reading := none, ready := none, offered := true } with
        traffic := { u.traffic with queue := u.traffic.queue ++ [newEntry (.passEntry n) (p.offerFrame r)] } } := by
  have offered : (p.offered || decide ((p.offerFrame r).kind = .offer)) = true := by
    rw [show (p.offerFrame r).kind = .offer from rfl]
    simp
  unfold State.buildOffer
  rw [State.outbound, Told.getD_some entry]
  dsimp only
  rw [story]
  dsimp only
  rw [State.passFrame_inserts entry free, offered]

theorem State.prepareOffer_empty {u : State} {p : Pass} (entry : u.pass.outbound[n]? = some (some p))
    (story : u.story p.key = some r) (empty : r.length = 0) (free : u.traffic.held (.passEntry n) = 0) :
    u.prepareOffer n p.key =
      { u.withEntry n { p with reading := none, ready := none, offered := true } with
        traffic :=
          { u.traffic with queue := u.traffic.queue ++ [newEntry (.passEntry n) (p.offerFrame r)] } } := by
  have isEmpty : (Option.map (fun x : Story => x.length) (some r)).getD 0 = 0 := empty
  unfold State.prepareOffer
  rw [story, if_pos isEmpty, State.buildOffer_inserts entry story free]

theorem Purpose.slip_notRow {a : Purpose} (slips : a.requester = .slip) : a.isRow = false := by
  cases a <;> simp_all [Purpose.isRow, Purpose.requester]

/-- A pass of a story with text, begun: its entry, and its first read with the slip writer. -/
theorem passBegins_text (x : State) {entry : Pass} (x_is : x = s.takeTransfer (nameByte .pass))
    (stands : x.story k = some r) (chosen : n < 4) (length : x.pass.outbound.length = 4) (long : 0 < r.length)
    (entry_is : entry = { newPass k dest carbon r.length with reading := some 0 }) :
    let t := ((((x.passBegun n k dest carbon r.length).prepareOffer n k).settleSlips).settleRows).done (.passEntry n)
    (t.pass = { s.pass with outbound := s.pass.outbound.set n (some entry) } ∧
      t.store = s.store.change k Story.sentOut ∧ answeredDone .pass (.passEntry n) t ∧ toldEditBarred k s t ∧
      t.line = s.line ∧ t.traffic = s.traffic ∧ t.fit = s.fit ∧ t.page = s.page ∧ t.clock = s.clock) ∧
    (s.portOwned → ∀ a, s.port.slip = some a → t.port.slip = some a) ∧
    (s.port.slip = none → s.slipWriterWants = none →
      (∀ c, s.port.busy = some c → c.purpose = .checkRead n → c.aside = true) →
      let read : Access :=
        { purpose := .checkRead n, block := r.chain.getD 0 0, first := 0, count := min 32 r.length, aside := false }
      t.port.busy = some read ∨ t.port.slip = some read) := by
  have wants (nothing : x.slipWriterWants = none)
      (idle : ∀ c, x.port.busy = some c → c.purpose = .checkRead n → c.aside = true) :=
    State.passBegun_wants (dest := dest) (carbon := carbon) stands chosen length nothing idle
  have only := State.passBegun_only n k dest carbon r.length x
  have port := State.passBegun_port n k dest carbon r.length x
  have story := State.passBegun_story (n := n) (dest := dest) (carbon := carbon) r.length stands
  have windows (m : Nat) (low : m < 8) := State.passBegun_windows (n := n) (k := k) (dest := dest) (carbon := carbon)
    (s := x) r.length m low
  generalize x.passBegun n k dest carbon r.length = u at *
  have mine : u.pass.outbound[n]? = some (some (newPass k dest carbon r.length)) := by
    rw [only.pass]
    exact List.getElem?_set_self (by omega)
  have reads := State.prepareOffer_reads (r := r.sentOut) mine story long
  rw [reads, ← entry_is]
  rw [← entry_is] at wants
  have here : OnlyWindows
      { s.takeTransfer (nameByte .pass) with
        pass := { s.pass with outbound := s.pass.outbound.set n (some entry) },
        store := s.store.change k Story.sentOut, traffic := s.traffic }
      (u.withEntry n entry) := by
    subst x_is
    exact { only with
      pass := by
        show PassEngine.mk _ _ _ _ _ = _
        rw [only.pass]
        simp }
  have shows (m : Nat) (w : Window) (low : m < 8) (at_m : s.screen.windows[m]? = some w) :
      (u.withEntry n entry).screen.windows[m]? = some (if w.key = some k then w.barred else w) := by
    have same : x.screen.windows[m]? = some w := by
      rw [x_is]
      exact at_m
    exact (windows m low).trans (by rw [same]; rfl)
  have answered := passBegins_answered (s := s) (n := n) (k := k) here shows
  have slips := State.settleSlips_slip (u.withEntry n entry)
  have asked := slips.asked
  have port : x.port.RowsDropped (u.withEntry n entry).port := port
  generalize u.withEntry n entry = v at *
  have rows := State.settleRows_follows v.settleSlips
  generalize v.settleSlips = y at *
  generalize y.settleRows = z at *
  refine ⟨answered, fun owned a waits => ?_, fun free nothing idle => ?_⟩
  · have there := port.slip a (by rw [x_is]; exact waits) (Purpose.slip_notRow (owned .slip a waits))
    rw [← slips.nothing (.inl (by simp [there]))] at there
    exact rows.slipPort.trans there
  · have asked := asked _ (port.noSlip (by rw [x_is]; exact free))
      (wants (by rw [x_is]; exact nothing) (by rw [x_is]; exact idle))
    exact asked.imp (rows.busy _) rows.slipPort.trans

/-- A pass of an empty story, begun: its OFFER goes into the queue. -/
theorem passBegins_noText (x : State) {entry : Pass} (x_is : x = s.takeTransfer (nameByte .pass))
    (stands : x.story k = some r) (low : n < x.pass.outbound.length) (empty : r.length = 0)
    (free : x.traffic.held (.passEntry n) = 0)
    (entry_is : entry = { newPass k dest carbon r.length with reading := none, ready := none, offered := true }) :
    let t := ((((x.passBegun n k dest carbon r.length).prepareOffer n k).settleSlips).settleRows).done (.passEntry n)
    t.pass = { s.pass with outbound := s.pass.outbound.set n (some entry) } ∧
      t.store = s.store.change k Story.sentOut ∧ answeredDone .pass (.passEntry n) t ∧ toldEditBarred k s t ∧
      t.line = s.line ∧
      t.traffic =
        { s.traffic with
            queue := s.traffic.queue ++
              [newEntry (.passEntry n) ((newPass k dest carbon r.length).offerFrame r.sentOut)] } ∧
      t.fit = s.fit ∧ t.page = s.page ∧ t.clock = s.clock := by
  have only := State.passBegun_only n k dest carbon r.length x
  have story := State.passBegun_story (n := n) (dest := dest) (carbon := carbon) r.length stands
  have windows (m : Nat) (low : m < 8) := State.passBegun_windows (n := n) (k := k) (dest := dest) (carbon := carbon)
    (s := x) r.length m low
  generalize x.passBegun n k dest carbon r.length = u at *
  have mine : u.pass.outbound[n]? = some (some (newPass k dest carbon r.length)) := by
    rw [only.pass]
    exact List.getElem?_set_self low
  have sends := State.prepareOffer_empty (r := r.sentOut) mine story empty (by rw [only.traffic]; exact free)
  have sends : u.prepareOffer n k = _ := sends
  rw [sends, ← entry_is]
  have here : OnlyWindows
      { s.takeTransfer (nameByte .pass) with
        pass := { s.pass with outbound := s.pass.outbound.set n (some entry) },
        store := s.store.change k Story.sentOut,
        traffic :=
          { s.traffic with
              queue := s.traffic.queue ++
                [newEntry (.passEntry n) ((newPass k dest carbon r.length).offerFrame r.sentOut)] } }
      { u.withEntry n entry with
        traffic :=
          { u.traffic with
              queue := u.traffic.queue ++
                [newEntry (.passEntry n) ((newPass k dest carbon r.length).offerFrame r.sentOut)] } } := by
    subst x_is
    exact { only with
      traffic := by
        rw [only.traffic]
        rfl
      pass := by
        show PassEngine.mk _ _ _ _ _ = _
        rw [only.pass]
        simp }
  have shows (m : Nat) (w : Window) (low : m < 8) (at_m : s.screen.windows[m]? = some w) :
      (u.withEntry n entry).screen.windows[m]? = some (if w.key = some k then w.barred else w) := by
    have same : x.screen.windows[m]? = some w := by
      rw [x_is]
      exact at_m
    exact (windows m low).trans (by rw [same]; rfl)
  exact passBegins_answered (s := s) (n := n) (k := k) here shows

end Begins

/-- Settles O30. -/
theorem passBegins : Obligations.PassBegins := by
  unfold Obligations.PassBegins
  refine ⟨fun s => ⟨fun n => State.passEntryChoice_some, State.passEntryChoice_none⟩, fun k dest carbon s hears => ?_⟩
  intro no reaches
  have refuses {res : Result} (found : State.passRefusal k dest (s.takeTransfer (nameByte .pass)) = some res) : no res :=
    State.command_unless_refused hears (by decide) found
  refine ⟨fun none_ => refuses ?_, fun r stands => ?_⟩
  · have there : (s.takeTransfer (nameByte .pass)).story k = none := none_
    unfold State.passRefusal
    rw [there]
  have there : (s.takeTransfer (nameByte .pass)).story k = some r := stands
  have reaches_iff : goodDestination s.desk.station dest = true ↔ reaches := goodDestination_iff
  have checks := State.passRefusal_eq (dest := dest) there
  refine ⟨fun notHeld => refuses ?_, fun held locked => refuses ?_, fun held unlocked damaged => refuses ?_,
    fun held unlocked sound bad => refuses ?_, fun held unlocked sound good full => refuses ?_,
    fun n held unlocked sound good chosen length => ?_⟩
  · simp [checks, Story.isHeld, notHeld]
  · simp [checks, Story.isHeld, held, Option.isSome_iff_ne_none.mpr locked]
  · simp [checks, Story.isHeld, held, unlocked, damaged]
  · have wrong := Bool.eq_false_iff.mpr fun yes => bad (reaches_iff.mp yes)
    simp [checks, Story.isHeld, held, unlocked, sound, wrong]
  · have choice : (s.takeTransfer (nameByte .pass)).passEntryChoice = none := full
    simp [checks, Story.isHeld, held, unlocked, sound, reaches_iff.mpr good, choice]
  intro entry begins
  have runs := exec_pass_begins (carbon := carbon) hears stands held unlocked sound (reaches_iff.mpr good) chosen
  have low : n < s.pass.outbound.length := by
    rcases State.passEntryChoice_some chosen with ⟨here, -⟩ | ⟨-, p, here, -⟩
    · exact (List.getElem?_eq_some_iff.mp here).choose
    · exact (List.getElem?_eq_some_iff.mp here).choose
  refine ⟨fun long => ?_, fun empty free => ?_⟩
  · obtain ⟨⟨pass, store, answered, told, line, traffic, fit, page, clock⟩, waits, reads⟩ :=
      passBegins_text (s := s) (k := k) (dest := dest) (carbon := carbon) (n := n) (r := r) _ rfl there
        (length ▸ low) length long (entry := entry (some 0) false) rfl
    exact ⟨_, ⟨runs, pass, store, answered, told, line, traffic, fit, page, clock⟩, waits, reads⟩
  · obtain ⟨pass, store, answered, told, line, traffic, fit, page, clock⟩ :=
      passBegins_noText (s := s) (k := k) (dest := dest) (carbon := carbon) (n := n) (r := r) _ rfl there
        low empty free (entry := entry none true) rfl
    have payload : ((newPass k dest carbon r.length).offerFrame r.sentOut).payload =
        keyBytes k ++ slugBytes r.slug ++ oneByte r.edition ++
          [0x00#8, 0x00#8, 0x00#8, 0x01#8, 0xFF#8, 0xFF#8] := by
      show _ ++ twoBytes r.length ++ twoBytes (slipTotalOf r.length) ++ twoBytes _ = _
      have ending : twoBytes 0 ++ (twoBytes (slipTotalOf 0) ++ twoBytes crcStart.toNat) =
          [0x00#8, 0x00#8, 0x00#8, 0x01#8, 0xFF#8, 0xFF#8] := by decide
      rw [empty, List.append_assoc, List.append_assoc, ← ending]
      rfl
    have frame : (newPass k dest carbon r.length).offerFrame r.sentOut =
        { kind := .offer, dest := dest,
          payload := keyBytes k ++ slugBytes r.slug ++ oneByte r.edition ++
            [0x00#8, 0x00#8, 0x00#8, 0x01#8, 0xFF#8, 0xFF#8] } := by
      rw [← payload]
      rfl
    rw [frame] at traffic
    exact ⟨_, runs, pass, store, answered, told, line, traffic, fit, page, clock⟩

end Sys2Proof.Machine


namespace Sys2Proof.Machine

open Sys2Proof

/-! ## The reads of an outbound pass (R68, R74) -/

section Reads

variable {s u : State} {a : Access} {upsets : List Upset} {n : Nat} {p : Pass} {r : Story}

/-- A read touches neither the pass tables nor the out queue. -/
theorem State.endRead_rest (a : Access) (upsets : List Upset) (s : State) :
    (s.endRead a upsets).1.pass = s.pass ∧ (s.endRead a upsets).1.traffic = s.traffic := by
  obtain ⟨_, _, traffic, pass, _⟩ := s.endAccess.readBlock_rest a upsets
  have ended := State.endAccess_eq s
  exact ⟨pass.trans (by rw [ended]), traffic.trans (by rw [ended])⟩

/-- A read that delivers characters as they stand leaves every story as it was. -/
theorem State.endRead_stories (sound : (s.endRead a upsets).2.damaged = false) :
    (s.endRead a upsets).1.store.stories = s.store.stories := by
  have ended : s.endAccess.store.stories = s.store.stories := by rw [State.endAccess_eq]
  unfold State.endRead State.readBlock at sound ⊢
  dsimp only at sound ⊢
  split at sound
  · cases sound
  next unmarked =>
  split at sound
  · next good =>
    rw [if_neg unmarked, if_pos good]
    exact ended
  · cases sound

theorem State.endRead_story (sound : (s.endRead a upsets).2.damaged = false) (k : Key) :
    (s.endRead a upsets).1.story k = s.story k := by
  unfold State.story Store.story
  rw [State.endRead_stories sound]

variable (busy : s.port.busy = some a) (live : a.aside = false) (entry : s.pass.outbound[n]? = some (some p))

include busy live entry

theorem exec_checkRead (purpose : a.purpose = .checkRead n) :
    exec (.offerCheckReadCompletion upsets) s =
      .next
        (if (s.endRead a upsets).2.damaged then ((s.endRead a upsets).1.endReturn n p (.failed .damaged)).settleSlips
         else
          (if (p.reading.getD 0) + 1 < blocksFor ((((s.endRead a upsets).1.story p.key).map (·.length)).getD 0) then
            (s.endRead a upsets).1.withEntry n
              { p with storyCheck := crcCodes p.storyCheck (s.endRead a upsets).2.codes,
                       reading := some ((p.reading.getD 0) + 1) }
          else
            ((s.endRead a upsets).1.withEntry n
              { p with storyCheck := crcCodes p.storyCheck (s.endRead a upsets).2.codes,
                       reading := some ((p.reading.getD 0) + 1) }).buildOffer n).settleSlips) := by
  have here : (s.endRead a upsets).1.pass.outbound[n]? = some (some p) := by
    rw [(State.endRead_rest a upsets s).1]
    exact entry
  show Host.Outcome.next (s.checkReadCompleted upsets) = _
  unfold State.checkReadCompleted
  simp only [busy, purpose, live, Bool.false_eq_true, if_false, State.outbound, Told.getD_some here,
    State.onOutbound_eq here]
  split <;> rfl

theorem exec_slipRead (purpose : a.purpose = .slipRead n) :
    exec (.slipReadCompletion upsets) s =
      .next
        (if (s.endRead a upsets).2.damaged then ((s.endRead a upsets).1.endReturn n p (.failed .damaged)).settleSlips
         else ((s.endRead a upsets).1.buildSlip n (s.endRead a upsets).2.codes).settleSlips) := by
  have here : (s.endRead a upsets).1.pass.outbound[n]? = some (some p) := by
    rw [(State.endRead_rest a upsets s).1]
    exact entry
  show Host.Outcome.next (s.slipReadCompleted upsets) = _
  unfold State.slipReadCompleted
  simp only [busy, purpose, live, Bool.false_eq_true, if_false, State.outbound, Told.getD_some here]

end Reads

/-- Settles O37. -/
theorem outboundReadServed : Obligations.OutboundReadServed := by
  unfold Obligations.OutboundReadServed
  intro a upsets n p r s busy live entry stands x entryOf inserts check
  obtain ⟨pass, traffic⟩ := State.endRead_rest a upsets s
  have here : x.1.pass.outbound[n]? = some (some p) := by
    rw [pass]
    exact entry
  have damaged {row : Instr} (runs : exec row s = .next (x.1.endReturn n p (.failed .damaged)).settleSlips) :
      ∃ t : State, exec row s = .next t ∧ PassEnded n p (.failed .damaged) x.1 t :=
    ⟨_, runs, (State.endReturn_ends here rfl (by simp)).settleSlips here⟩
  have inserted {q : Pass} {f : OutFrame} {u t : State} (same : u = inserts q f) (follows : SlipFollows u t) :
      SlipFollows (inserts q f) t := same ▸ follows
  refine ⟨fun i purpose reading => ?_, fun taker purpose takes => ?_⟩
  · have runs := exec_checkRead (upsets := upsets) busy live entry purpose
    refine ⟨fun bad => damaged (runs.trans (congrArg Host.Outcome.next (if_pos bad))), fun sound more => ?_,
      fun sound last free => ?_⟩
    all_goals
      have sound : (s.endRead a upsets).2.damaged = false := sound
      have story := (State.endRead_story sound p.key).trans stands
      rw [if_neg (by rw [sound]; exact Bool.false_ne_true), story, reading, Option.map_some, Option.getD_some,
        Option.getD_some] at runs
    · rw [if_pos (lt_blocksFor.mpr more)] at runs
      refine ⟨_, runs, ?_⟩
      have same : ({ x.1 with pass := entryOf { p with storyCheck := check, reading := some (i + 1) } } : State) =
          x.1.withEntry n { p with storyCheck := check, reading := some (i + 1) } := by
        unfold State.withEntry
        rw [pass]
      rw [same]
      exact State.settleSlips_slip _
    · rw [if_neg (by have := blocksFor_le_iff.mpr last; show ¬i + 1 < blocksFor r.length; omega)] at runs
      have counted := State.withEntry_get here { p with storyCheck := check, reading := some (i + 1) }
      have built := State.buildOffer_inserts (r := r) counted story (by rw [State.withEntry, traffic]; exact free)
      have runs : exec (.offerCheckReadCompletion upsets) s =
        .next ((x.1.withEntry n { p with storyCheck := check, reading := some (i + 1) }).buildOffer n).settleSlips := runs
      rw [built, State.withEntry_twice] at runs
      refine ⟨_, runs, ?_⟩
      refine inserted ?_ (State.settleSlips_slip _)
      unfold State.withEntry
      rw [pass, traffic]
      rfl
  · have runs := exec_slipRead (upsets := upsets) busy live entry purpose
    refine ⟨fun bad => damaged (runs.trans (congrArg Host.Outcome.next (if_pos bad))), fun sound free => ?_⟩
    have sound : (s.endRead a upsets).2.damaged = false := sound
    rw [if_neg (by rw [sound]; exact Bool.false_ne_true)] at runs
    have built : x.1.buildSlip n x.2.codes =
        inserts { p with reading := none, ready := none }
          { kind := .slip, dest := { form := .station, number := taker },
            payload := keyBytes p.key ++ twoBytes p.nextSlip ++ x.2.codes } := by
      unfold State.buildSlip
      rw [State.outbound, Told.getD_some here]
      dsimp only
      rw [State.passFrame_inserts here (by rw [traffic]; exact free), takes]
      unfold State.withEntry
      rw [pass, traffic]
      simp [inserts, entryOf, slipFrame, toStation]
    rw [← built]
    exact ⟨_, runs, State.settleSlips_slip _⟩

end Sys2Proof.Machine


namespace Sys2Proof.Machine

open Sys2Proof

/-! ## What the slip writer asks for (R11, R61) -/

section Wants

variable {s : State} {a : Access} {n : Nat}

theorem State.holdsPass_iff {r : InboundRef} :
    s.holdsPass r = true ↔ ∃ b, s.pass.inbound[r.entry]? = some (some b) ∧ b.pass = r.pass := by
  unfold State.holdsPass
  rw [List.getD_eq_getElem?_getD]
  cases here : s.pass.inbound[r.entry]? with
  | none => simp
  | some o => cases o <;> simp

theorem State.slipWriteWanted_iff : s.slipWriteWanted = some a ↔ s.slipWriteAsked a := by
  unfold State.slipWriteWanted
  constructor
  · intro wanted
    split at wanted
    · next x rest slots =>
      split at wanted
      · next r refers =>
        split at wanted
        · next mayAsk =>
          cases wanted
          rw [Bool.and_eq_true, Bool.and_eq_true] at mayAsk
          obtain ⟨⟨handed, holds⟩, free⟩ := mayAsk
          obtain ⟨b, here, mine⟩ := State.holdsPass_iff.mp holds
          refine ⟨x, rest, r, b, slots, handed, refers, here, mine, ?_, fun c busy => ?_⟩
          · simp [RxSlot.slipPurpose, RxSlot.slipIndex, RxSlot.slipText]
          · simpa [busy] using free
        · cases wanted
      · cases wanted
    · cases wanted
  · rintro ⟨x, rest, r, b, slots, handed, refers, here, mine, rfl, free⟩
    simp only [slots, refers]
    refine (if_pos ?_).trans ?_
    · rw [Bool.and_eq_true, Bool.and_eq_true]
      refine ⟨⟨handed, State.holdsPass_iff.mpr ⟨b, here, mine⟩⟩, ?_⟩
      cases busy : s.port.busy with
      | none => rfl
      | some c =>
        rw [Option.any_some, Bool.not_eq_true', decide_eq_false_iff_not]
        exact free c busy
    · simp [RxSlot.slipPurpose, RxSlot.slipIndex, RxSlot.slipText]

theorem Port.serves_eq_false {mine : Purpose} {p : Port} :
    p.serves mine = false ↔ ∀ c, p.busy = some c → c.purpose = mine → c.aside = true := by
  unfold Port.serves
  cases p.busy <;> simp

theorem State.outboundWanted_iff : s.outboundWanted n = some a ↔ s.outboundReadAsked n a := by
  constructor
  · intro wanted
    unfold State.outboundWanted at wanted
    split at wanted
    · cases wanted
    next p entry =>
    split at wanted
    · next i r reading story =>
      obtain ⟨free, is⟩ := Option.ite_none_left_eq_some.mp wanted
      cases is
      have here : s.pass.outbound[n]? = some (some p) := by
        unfold State.outbound at entry
        rw [List.getD_eq_getElem?_getD] at entry
        cases there : s.pass.outbound[n]? with
        | none => simp [there] at entry
        | some o => simpa [there] using entry
      exact ⟨p, r, i, here, reading, story, rfl, Port.serves_eq_false.mp (by simpa using free)⟩
    · cases wanted
  · rintro ⟨p, r, i, here, reading, story, rfl, free⟩
    exact State.outboundWanted_reads (Told.getD_some here) reading story (Port.serves_eq_false.mpr free)

theorem State.wants_write (asked : s.slipWriteAsked a) : s.slipWriterWants = some a := by
  unfold State.slipWriterWants
  rw [State.slipWriteWanted_iff.mpr asked, Option.some_or]

theorem State.noWrite (none_ : ∀ c, ¬s.slipWriteAsked c) : s.slipWriteWanted = none :=
  Option.eq_none_iff_forall_ne_some.mpr fun c wanted => none_ c (State.slipWriteWanted_iff.mp wanted)

theorem findSome?_first {f : Nat → Option Access} {k : Nat} (low : n < k) (found : f n = some a)
    (before : ∀ m, m < n → f m = none) : (List.range k).findSome? f = some a := by
  have split_ : List.range k = List.range n ++ n :: (List.range (k - n - 1)).map (n + 1 + ·) := by
    rw [← List.range'_eq_map_range, List.range_eq_range', List.range_eq_range', ← List.range'_succ]
    have whole : k = n + (k - n - 1 + 1) := by omega
    conv_lhs => rw [whole]
    rw [← List.range'_append]
    simp
  rw [split_, List.findSome?_append]
  have none_ : (List.range n).findSome? f = none :=
    List.findSome?_eq_none_iff.mpr fun m mem => before m (List.mem_range.mp mem)
  rw [none_, Option.none_or, List.findSome?_cons, found]

theorem State.wants_read (low : n < 4) (none_ : ∀ c, ¬s.slipWriteAsked c) (asked : s.outboundReadAsked n a)
    (before : ∀ m c, m < n → ¬s.outboundReadAsked m c) : s.slipWriterWants = some a := by
  unfold State.slipWriterWants
  rw [State.noWrite none_, Option.none_or]
  refine findSome?_first low (State.outboundWanted_iff.mpr asked) fun m below => ?_
  exact Option.eq_none_iff_forall_ne_some.mpr fun c wanted => before m c below (State.outboundWanted_iff.mp wanted)

theorem State.wants_nothing (none_ : ∀ c, ¬s.slipWriteAsked c) (noRead : ∀ n c, n < 4 → ¬s.outboundReadAsked n c) :
    s.slipWriterWants = none := by
  unfold State.slipWriterWants
  rw [State.noWrite none_, Option.none_or]
  exact List.findSome?_eq_none_iff.mpr fun m mem => Option.eq_none_iff_forall_ne_some.mpr fun c wanted =>
    noRead m c (List.mem_range.mp mem) (State.outboundWanted_iff.mp wanted)

end Wants

/-! ## SLIP_DISPATCH and SLIP_WRITE_COMPLETION (R8, R61, R90) -/

section Slips

variable {s : State} {x : RxSlot} {rest : List RxSlot} {r : InboundRef} {b : Inbound} {blocks : List Nat}

theorem State.commitIfFinal_final {i : Nat} (here : s.pass.inbound[r.entry]? = some (some b)) (mine : b.pass = r.pass)
    (complete : b.complete = true) (final : i + 1 = b.offer.slipTotal) : s.commitIfFinal r i = s.commit r.entry := by
  unfold State.commitIfFinal
  rw [State.inbound, Told.getD_some here]
  exact if_pos ⟨mine, complete, final⟩

theorem State.commitIfFinal_other {i : Nat} (here : s.pass.inbound[r.entry]? = some (some b))
    (other : ¬(b.complete = true ∧ i + 1 = b.offer.slipTotal)) : s.commitIfFinal r i = s := by
  unfold State.commitIfFinal
  rw [State.inbound, Told.getD_some here]
  exact if_neg fun all => other all.2

/-- The meaning of SLIP_DISPATCH for a stored SLIP at the head of the slots. -/
theorem exec_slipDispatch (slots : s.traffic.slots = x :: rest) (kind : x.kind = .slip) (waits : x.handed = false)
    (refers : x.inbound = some r) :
    exec .slipDispatch s =
      .next
        (if s.holdsPass r then
          if x.slipText = [] then (s.freeOldest.commitIfFinal r x.slipIndex).settle
          else ({ s with traffic := { s.traffic with slots := { x with handed := true } :: rest } } : State).settleSlips
        else s.freeOldest) := by
  show Host.Outcome.next s.slipDispatched = _
  unfold State.slipDispatched
  simp only [slots]
  rw [if_pos ⟨kind, waits⟩]
  simp only [refers]
  cases s.holdsPass r <;> rfl

theorem reservation_of (reserved : s.store.reservations[r.entry]? = some (some blocks)) :
    s.store.reservation r.entry = blocks := by
  unfold Store.reservation
  rw [Told.getD_some reserved]
  rfl

/-- A commit with all that follows at once. -/
theorem State.commit_settled {n : Nat} (here : s.pass.inbound[n]? = some (some b))
    (reserved : s.store.reservation n = blocks) : Committed n b blocks s (s.commit n).settle := by
  unfold State.settle
  refine State.commit_committed (Told.getD_some here) reserved
    ((State.settleFits_follows _).trans (State.settleSlips_follows _)) ?_
  rw [(State.settleSlips_slip _).rest]
  exact State.settleFits_screen _

/-- A write of a slip, its slot freed. -/
def State.slipWritten (a : Access) (codes : List Byte) (rest : List RxSlot) (s : State) : State :=
  { s with
      store :=
        { s.store with
            text := writeCodes a.block a.first (substitute legalCode codes).1 s.store.text,
            marks := s.store.marks.filter (· ≠ a.block),
            substitutions := add16 s.store.substitutions (substitute legalCode codes).2 },
      port := s.port.complete, traffic := { s.traffic with slots := rest } }

theorem exec_slipWriteCompletion {a : Access} {codes : List Byte} (busy : s.port.busy = some a)
    (purpose : a.purpose = .slipWrite r.entry r.pass x.slipIndex codes) (op : s.desk.op ≠ .restarting)
    (slots : s.traffic.slots = x :: rest) (handed : x.handed = true) (refers : x.inbound = some r) :
    exec .slipWriteCompletion s =
      .next (if a.aside then s.slipWritten a codes rest
        else (s.slipWritten a codes rest).commitIfFinal r x.slipIndex).settleSlips.settleRows := by
  have freed : Traffic.freeWritten r x.slipIndex s.traffic = { s.traffic with slots := rest } := by
    unfold Traffic.freeWritten
    simp only [slots]
    exact if_pos (by simp [handed, refers])
  show Host.Outcome.next s.slipWriteCompleted = _
  unfold State.slipWriteCompleted
  simp only [busy, purpose, State.endAccess_serves op, State.writeBlock, State.onTraffic, State.onStore, State.onPort]
  rw [freed]
  rfl

end Slips

/-- Settles O36. -/
theorem slipsStored : Obligations.SlipsStored := by
  unfold Obligations.SlipsStored
  refine ⟨fun s => ⟨fun a => State.wants_write, fun n a => State.wants_read, State.wants_nothing⟩,
    fun x rest r s slots kind waits refers => ?_, fun a x rest r s => ?_⟩
  · intro i freed
    have runs := exec_slipDispatch slots kind waits refers
    have free : s.freeOldest = freed := State.freeOldest_eq slots
    refine ⟨fun gone => runs.trans (congrArg Host.Outcome.next ?_), fun b blocks here mine reserved => ?_⟩
    · rw [if_neg fun holds => ?_, free]
      obtain ⟨b, there, mine⟩ := State.holdsPass_iff.mp holds
      exact gone b there mine
    · rw [if_pos (State.holdsPass_iff.mpr ⟨b, here, mine⟩), free] at runs
      refine ⟨fun long => ?_, fun short => ?_⟩
      · intro write
        have text : x.slipText ≠ [] := fun empty => by
          have := congrArg List.length empty
          simp [RxSlot.slipText] at this
          omega
        rw [if_neg text] at runs
        refine ⟨_, runs, State.settleSlips_slip _, fun noRequest idle => ?_⟩
        have slips := State.settleSlips_slip
          { s with traffic := { s.traffic with slots := { x with handed := true } :: rest } }
        have wants := State.wants_write (a := write)
          (s := { s with traffic := { s.traffic with slots := { x with handed := true } :: rest } })
          ⟨{ x with handed := true }, rest, r, b, rfl, rfl, refers, here, mine,
            by rw [show Store.reservation _ _ = blocks from reservation_of reserved], idle⟩
        exact ⟨fun busy => slips.waits _ noRequest wants (.inl busy), fun busy none_ => slips.granted _ wants busy none_⟩
      · have text : x.slipText = [] := List.drop_eq_nil_iff.mpr short
        rw [if_pos text] at runs
        refine ⟨fun other => ⟨_, runs, ?_⟩, fun complete final => ⟨_, runs, ?_⟩⟩
        · rw [State.commitIfFinal_other (i := x.slipIndex) (s := freed) here other]
          exact State.settle_follows freed
        · rw [State.commitIfFinal_final (i := x.slipIndex) (s := freed) here mine complete final]
          exact State.commit_settled (s := freed) here (reservation_of reserved)
  · intro i codes busy purpose first op slots handed refers legal written
    have runs := exec_slipWriteCompletion busy purpose op slots handed refers
    have same : s.slipWritten a codes rest = written := by
      have code (c : Byte) : legalCode c = legal c := by
        show _ = decide _
        unfold legalCode
        rw [Bool.eq_iff_iff]
        simp [within_iff]
      unfold State.slipWritten
      simp only [substitute, code, first, add16, List.countP_eq_length_filter, written]
    rw [same] at runs
    refine ⟨fun aside => ?_, fun b blocks live here mine reserved block => ⟨fun other => ?_, fun complete final => ?_⟩⟩
    · rw [if_pos aside] at runs
      exact ⟨_, _, runs, State.settleSlips_slip _, State.settleRows_follows _⟩
    · rw [if_neg (by simp [live]), State.commitIfFinal_other (i := x.slipIndex) (s := written) here other] at runs
      exact ⟨_, _, runs, State.settleSlips_slip _, State.settleRows_follows _⟩
    · rw [if_neg (by simp [live]), State.commitIfFinal_final (i := x.slipIndex) (s := written) here mine complete final] at runs
      refine ⟨_, runs, State.commit_committed (Told.getD_some here) (reservation_of reserved)
        (State.settleSlips_follows _) ?_⟩
      rw [(State.settleSlips_slip _).rest]

end Sys2Proof.Machine


namespace Sys2Proof.Machine

open Sys2Proof

/-! ## What the out queue tells each owner (R54, R55) -/

section Told

variable {s : State} {e : OutEntry} {n : Nat} {p : Pass} {b : Inbound} {c : Cause} {r : Report}

theorem State.tellOwner_answer (mine : e.owner = .answer) : s.tellOwner e r = s := by
  unfold State.tellOwner
  rw [mine]

theorem State.tellOwner_clock (mine : e.owner = .clock) (notWithdrawn : r ≠ .withdrawn) : s.tellOwner e r = s := by
  unfold State.tellOwner
  rw [mine]
  cases r
  case withdrawn => exact absurd rfl notWithdrawn
  all_goals rfl

theorem State.tellOwner_flash (mine : e.owner = .flash) : s.tellOwner e r = s.flashTold r := by
  unfold State.tellOwner
  rw [mine]

theorem State.tellOwner_take (mine : e.owner = .take n) : s.tellOwner e r = s.takeTold n r := by
  unfold State.tellOwner
  rw [mine]

/-- A report of an OFFER at its OFFERING pass. -/
theorem State.tellOwner_offer (mine : e.owner = .passEntry n) (entry : s.pass.outbound[n]? = some (some p))
    (kind : e.frame.kind = .offer) (offering : p.phase = .offering) :
    s.tellOwner e r = if r.ends then (s.offerTold n p r).sendReady n else s.offerTold n p r := by
  unfold State.tellOwner
  rw [mine]
  show s.passTold n e.frame.kind r = _
  unfold State.passTold
  rw [State.outbound, Told.getD_some entry]
  simp only [offering, kind, and_self, if_true]

/-- A report of a SLIP at its SENDING pass. -/
theorem State.tellOwner_slip (mine : e.owner = .passEntry n) (entry : s.pass.outbound[n]? = some (some p))
    (kind : e.frame.kind = .slip) (sending : p.phase = .sending) :
    s.tellOwner e r = if r.ends then (s.slipTold n p r).sendReady n else s.slipTold n p r := by
  unfold State.tellOwner
  rw [mine]
  show s.passTold n e.frame.kind r = _
  unfold State.passTold
  rw [State.outbound, Told.getD_some entry]
  simp only [sending, kind, reduceCtorEq, and_self, if_false, if_true]

/-- Without a frame that waits for its share nothing more goes in. -/
theorem State.sendReady_nothing (nothing : ∀ p, s.outbound n = some p → p.ready = none) : s.sendReady n = s := by
  unfold State.sendReady
  cases entry : s.outbound n with
  | none => rfl
  | some p =>
    rw [Option.bind_some, nothing p entry]

/-- An attempt that leaves others to make tells nothing but a PARTIAL OFFER's pass. -/
theorem State.tellOwner_attempt
    (quiet : c ≠ .partly ∨ ∀ n p, s.pass.outbound[n]? = some (some p) →
      ¬(e.owner = .passEntry n ∧ e.frame.kind = .offer ∧ p.phase = .offering)) :
    SettleFollows s (s.tellOwner e (.attempt c)) := by
  cases mine : e.owner with
  | answer => rw [State.tellOwner_answer mine]; exact SettleFollows.refl s
  | clock => rw [State.tellOwner_clock mine (by simp)]; exact SettleFollows.refl s
  | flash => rw [State.tellOwner_flash mine]; exact SettleFollows.refl s
  | take n => rw [State.tellOwner_take mine]; exact SettleFollows.refl s
  | page =>
    have told : s.tellOwner e (.attempt c) = s.pageTold e.frame.kind (.attempt c) := by
      unfold State.tellOwner
      rw [mine]
    rw [told]
    unfold State.pageTold
    dsimp only
    split
    · exact SettleFollows.refl s
    · have plan : s.planTold e.frame.kind (.attempt c) = s := by
        unfold State.planTold
        cases s.page.transfer.plan with
        | none => rfl
        | some slot =>
          dsimp only
          cases s.plan slot <;> rfl
      rw [plan]
      exact State.settleFits_follows s
  | passEntry n =>
    have told : s.tellOwner e (.attempt c) = s := by
      unfold State.tellOwner
      rw [mine]
      show s.passTold n e.frame.kind (.attempt c) = s
      unfold State.passTold
      dsimp only [Report.ends]
      cases entry : s.outbound n with
      | none => rfl
      | some p =>
        simp only [Bool.false_eq_true, if_false]
        split
        · next offers =>
          have here : s.pass.outbound[n]? = some (some p) := by
            unfold State.outbound at entry
            rw [List.getD_eq_getElem?_getD] at entry
            cases there : s.pass.outbound[n]? with
            | none => simp [there] at entry
            | some o => simpa [there] using entry
          have other : c ≠ .partly := quiet.resolve_right fun none_ => none_ n p here ⟨mine, offers.2, offers.1⟩
          unfold State.offerTold
          cases c <;> first | rfl | exact absurd rfl other
        · split <;> rfl
    rw [told]
    exact SettleFollows.refl s

end Told

/-! ## A PARTIAL OFFER with attempts left (R69) -/

section Partly

variable {s : State} {i n : Nat} {p : Pass} {e : OutEntry}

theorem filter_set_eraseIdx {α : Type} {l : List α} {i : Nat} {a : α} {f : α → Bool} (low : i < l.length) (goes : f a = false)
    (stay : ∀ (j : Nat) (x : α), j ≠ i → l[j]? = some x → f x = true) : (l.set i a).filter f = l.eraseIdx i := by
  rw [List.set_eq_take_append_cons_drop, if_pos low, List.eraseIdx_eq_take_drop_succ, List.filter_append,
    List.filter_cons_of_neg (by simp [goes])]
  have before : (l.take i).filter f = l.take i := List.filter_eq_self.mpr fun x mem => by
    obtain ⟨j, there⟩ := List.getElem?_of_mem mem
    rw [List.getElem?_take] at there
    split at there
    · exact stay j x (by omega) there
    · cases there
  have after : (l.drop (i + 1)).filter f = l.drop (i + 1) := List.filter_eq_self.mpr fun x mem => by
    obtain ⟨j, there⟩ := List.getElem?_of_mem mem
    rw [List.getElem?_drop] at there
    exact stay (i + 1 + j) x (by omega) there
  rw [before, after]

/-- Its pass withdraws it, and its answer timer runs. -/
theorem State.tellOwner_partly {queue : List OutEntry} (here : queue[i]? = some e) (mine : e.owner = .passEntry n)
    (kind : e.frame.kind = .offer) (offering : p.phase = .offering) (waits : e.onLine = false) (stays : e.withdrawing = false)
    (entry : s.pass.outbound[n]? = some (some p)) (is : s.traffic.queue = queue)
    (others : ∀ (j : Nat) (y : OutEntry), j ≠ i → queue[j]? = some y → y.owner ≠ .passEntry n) :
    s.tellOwner e (.attempt .partly) =
      { s.withEntry n { p with timer := true } with traffic := { s.traffic with queue := queue.eraseIdx i } } := by
  have low : i < queue.length := (List.getElem?_eq_some_iff.mp here).choose
  have waiting : ∀ y ∈ s.traffic.queue, y.owner = .passEntry n → y.onLine = false ∧ y.withdrawing = false := by
    intro y mem own
    rw [is] at mem
    obtain ⟨j, there⟩ := List.getElem?_of_mem mem
    by_cases same : j = i
    · rw [same, here] at there
      cases there
      exact ⟨waits, stays⟩
    · exact absurd own (others j y same there)
  have whole : (queue.filter fun y => decide (y.owner ≠ .passEntry n)) = queue.eraseIdx i := by
    have set : queue.set i e = queue := by
      refine List.ext_getElem? fun j => ?_
      rw [List.getElem?_set]
      by_cases same : i = j
      · subst same
        rw [if_pos rfl, if_pos low, here]
      · rw [if_neg same]
    have erased := filter_set_eraseIdx (f := fun y => decide (y.owner ≠ .passEntry n)) (a := e) low (by simp [mine])
      fun j y differs there => by simpa using others j y differs there
    rwa [set] at erased
  rw [State.tellOwner_offer mine entry kind offering]
  show (s.onOutbound n fun p => { p with timer := true }).withdraw (.passEntry n) = _
  rw [State.onOutbound_eq entry]
  show ({ s.withEntry n { p with timer := true } with traffic := s.traffic.withdraw (.passEntry n) } : State) = _
  rw [Traffic.withdraw_waiting waiting, is, whole]

end Partly

/-! ## The ends of attempts, by owner -/

section Ended

variable {s t : State} {e : OutEntry} {n : Nat} {p : Pass} {b : Inbound} {c : Cause} {r : Report} {q : Story}

/-- The frames that have come into the out queue are the page engine's. -/
def PagesAdded (queue : List OutEntry) (t : State) : Prop :=
  ∃ l, t.traffic.queue = queue ++ l ∧ ∀ y ∈ l, y.owner = .page

theorem PagesAdded.refl (s : State) : PagesAdded s.traffic.queue s := ⟨[], (List.append_nil _).symm, by simp⟩

theorem PagesAdded.follows {queue : List OutEntry} (h : PagesAdded queue s) (f : SettleFollows s t) : PagesAdded queue t := by
  obtain ⟨l, is, pages⟩ := h
  obtain ⟨m, more, others⟩ := f.queue
  refine ⟨l ++ m, by rw [more, is, List.append_assoc], fun y mem => ?_⟩
  exact (List.mem_append.mp mem).elim (pages y) (others y)

theorem State.tellOwner_takeDelivered (mine : e.owner = .take n) (entry : s.pass.inbound[n]? = some (some b)) :
    s.tellOwner e .delivered =
      { s with
          pass :=
            { s.pass with
                inbound := s.pass.inbound.set n (some { b with confirmed := true, timer := !b.complete }) } } := by
  rw [State.tellOwner_take mine]
  simp only [State.takeTold, State.onInbound, State.onPass, Told.modify_set _ _ _ _ entry]

theorem State.tellOwner_takeFailed (mine : e.owner = .take n) (entry : s.pass.inbound[n]? = some (some b)) :
    s.tellOwner e (.failed c) = s.loseInbound n := by
  rw [State.tellOwner_take mine]
  unfold State.takeTold
  dsimp only
  rw [State.inbound, Told.getD_some entry]
  rfl

/-- An inbound entry lost: its TAKE withdrawn, the entry free, the notice. -/
theorem State.loseInbound_lost (entry : s.pass.inbound[n]? = some (some b)) :
    (s.loseInbound n).traffic.queue = (s.traffic.withdraw (.take n)).queue ∧
      (s.loseInbound n).traffic.counts = s.traffic.counts ∧ (s.loseInbound n).pass.inbound[n]? = some none ∧
      (s.loseInbound n).desk.latched .inboundLost = true := by
  have latched := State.raise_latched .inboundLost (s.freeInbound n)
  unfold State.loseInbound
  refine ⟨?_, ?_, ?_, latched⟩
  all_goals
    show _ = _
    simp only [State.raise_traffic, State.raise_pass]
    rw [State.freeInbound_eq entry, State.dropSlipWrite_rest]
  · rfl
  · rfl
  · exact List.getElem?_set_self (List.getElem?_eq_some_iff.mp entry).choose

/-- A pass whose OFFER was delivered, or failed PARTIAL, waits for its answer. -/
theorem State.tellOwner_offerWaits (mine : e.owner = .passEntry n) (entry : s.pass.outbound[n]? = some (some p))
    (kind : e.frame.kind = .offer) (offering : p.phase = .offering) (nothing : p.ready = none)
    (waits : r = .delivered ∨ r = .failed .partly) : s.tellOwner e r = s.withEntry n { p with timer := true } := by
  have told : s.offerTold n p r = s.withEntry n { p with timer := true } := by
    have started := State.onOutbound_eq entry fun p => { p with timer := true }
    rcases waits with rfl | rfl <;> exact started
  have ends : r.ends = true := by rcases waits with rfl | rfl <;> rfl
  rw [State.tellOwner_offer mine entry kind offering, if_pos ends, told]
  refine State.sendReady_nothing fun q there => ?_
  rw [State.outbound, Told.getD_some (State.withEntry_get entry _)] at there
  cases there
  exact nothing

/-- A pass that has ended has no frame that waits. -/
theorem State.endReturn_sendReady (entry : s.pass.outbound[n]? = some (some p)) (o : PassOutcome) (noRestart : o ≠ .abandoned) :
    (s.endReturn n p o).sendReady n = s.endReturn n p o := by
  have ended := State.endReturn_ends (o := o) entry rfl noRestart
  refine State.sendReady_nothing fun q there => ?_
  rw [State.outbound, ended.pass, Told.getD_some (List.getElem?_set_self (List.getElem?_eq_some_iff.mp entry).choose)] at there
  cases there
  rfl

theorem State.tellOwner_offerFailed (mine : e.owner = .passEntry n) (entry : s.pass.outbound[n]? = some (some p))
    (kind : e.frame.kind = .offer) (offering : p.phase = .offering) (other : c ≠ .partly) :
    s.tellOwner e (.failed c) = s.endReturn n p (.failed (.line c)) := by
  have told : s.offerTold n p (.failed c) = s.endReturn n p (.failed (.line c)) := by
    unfold State.offerTold
    cases c <;> first | rfl | exact absurd rfl other
  rw [State.tellOwner_offer mine entry kind offering, told]
  exact State.endReturn_sendReady entry _ (by simp)

theorem State.tellOwner_slipFailed (mine : e.owner = .passEntry n) (entry : s.pass.outbound[n]? = some (some p))
    (kind : e.frame.kind = .slip) (sending : p.phase = .sending) (notFinal : p.nextSlip ≠ p.slipTotal - 1) :
    s.tellOwner e (.failed c) = s.endReturn n p (.failed (.line c)) := by
  have told : s.slipTold n p (.failed c) = s.endReturn n p (.failed (.line c)) :=
    if_neg fun final => notFinal (Pass.finalInHand_iff.mp final).2
  rw [State.tellOwner_slip mine entry kind sending, told]
  exact State.endReturn_sendReady entry _ (by simp)

/-- After a slip that was not the final one the next is prepared. -/
theorem State.tellOwner_slipDelivered (mine : e.owner = .passEntry n) (entry : s.pass.outbound[n]? = some (some p))
    (kind : e.frame.kind = .slip) (sending : p.phase = .sending) (nothing : p.ready = none)
    (notFinal : p.nextSlip ≠ p.slipTotal - 1) (stands : s.story p.key = some q) (long : 0 < q.length) :
    s.tellOwner e .delivered =
      s.withEntry n { p with nextSlip := p.nextSlip + 1, reading := some (p.nextSlip + 1) } := by
  have told : s.slipTold n p .delivered =
      s.withEntry n { p with nextSlip := p.nextSlip + 1, reading := some (p.nextSlip + 1) } := by
    refine (if_neg fun final => notFinal (Pass.finalInHand_iff.mp final).2).trans ?_
    rw [State.onOutbound_eq entry]
    have next := State.withEntry_get entry { p with nextSlip := p.nextSlip + 1 }
    have story : (s.withEntry n { p with nextSlip := p.nextSlip + 1 }).story p.key = some q := stands
    have notEmpty : ¬(Option.map (fun x : Story => x.length) (some q)).getD 0 = 0 := Nat.pos_iff_ne_zero.mp long
    unfold State.prepareSlip
    rw [State.outbound, Told.getD_some next]
    dsimp only
    rw [story, if_neg notEmpty, State.onOutbound_eq next, State.withEntry_twice]
  rw [State.tellOwner_slip mine entry kind sending, told]
  refine State.sendReady_nothing fun x there => ?_
  rw [State.outbound, Told.getD_some (State.withEntry_get entry _)] at there
  cases there
  exact nothing

end Ended

end Sys2Proof.Machine


namespace Sys2Proof.Machine

open Sys2Proof

/-! ## The final slip (R76) -/

section Final

variable {s t w : State} {e : OutEntry} {n : Nat} {p : Pass} {o : PassOutcome} {k : Key} {q : Story} {c : Cause}

theorem PagesAdded.freeStory (k : Key) (s : State) : PagesAdded s.traffic.queue (s.freeStory k) := by
  unfold State.freeStory State.notifyStoryFreed State.fitStoryFreed
  have windows := State.windowsStoryFreed_only k (s.onStore (Store.free k id))
  generalize State.windowsStoryFreed k _ = v at *
  dsimp only
  refine PagesAdded.follows ?_ (State.settleFits_follows _)
  have noted : PagesAdded s.traffic.queue
      (v.onFit fun e => { e.noteText k with editKey := e.editKey.filter (· ≠ k) }) := by
    have same : s.traffic.queue = v.traffic.queue := by rw [windows.traffic]; rfl
    rw [same]
    exact PagesAdded.refl _
  split
  · exact noted.follows (State.stopRun_follows _ _)
  · exact noted

/-- Pass `p` of entry `n` has ended with outcome `o` and its stories as `l`. -/
structure FinalTold (n : Nat) (p : Pass) (o : PassOutcome) (l : List Story) (s t : State) : Prop where
  pass : t.pass =
    { s.pass with
        outbound := s.pass.outbound.set n
          (some
            { p with
                phase := .ended, outcome := some o, endOrder := s.pass.nextEnd, timer := false,
                reading := none, ready := none }),
        nextEnd := s.pass.nextEnd + 1 }
  pages : PagesAdded (s.traffic.withdraw (.passEntry n)).queue t
  notice : t.desk.latched .passEnded = true
  counts : t.traffic.counts = s.traffic.counts
  stories : t.store.stories.map Story.unlocked = l.map Story.unlocked

theorem FinalTold.follows {l : List Story} (h : FinalTold n p o l s w) (f : SettleFollows w t) : FinalTold n p o l s t where
  pass := f.pass.trans h.pass
  pages := h.pages.follows f
  notice := f.notices _ h.notice
  counts := f.counts.trans h.counts
  stories := f.stories.trans h.stories

theorem FinalTold.sendReady {l : List Story} (h : FinalTold n p o l s t) (low : n < s.pass.outbound.length) :
    t.sendReady n = t :=
  State.sendReady_nothing fun q there => by
    rw [State.outbound, h.pass, Told.getD_some (List.getElem?_set_self low)] at there
    cases there
    rfl

theorem FinalTold.told {l : List Story} (h : FinalTold n p o l s t) (low : n < s.pass.outbound.length) (r : Report) :
    FinalTold n p o l s (if r.ends then t.sendReady n else t) := by
  rw [h.sendReady low]
  split <;> exact h

/-- A pass that ends with a change of its story's record. -/
theorem State.endPass_changed (entry : s.pass.outbound[n]? = some (some p)) (noRestart : o ≠ .abandoned)
    (f : Story → Story) :
    FinalTold n p o (s.store.with p.key f) s ((s.endPass n o).onStore (Store.change p.key f)) := by
  have ended := State.endPass_ends (o := o) entry noRestart
  have store : (s.endPass n o).store = s.store := by
    obtain ⟨_, _, _, _, _, store, _⟩ := ended.rest
    exact store
  generalize s.endPass n o = v at *
  exact {
    pass := ended.pass
    pages := by
      rw [← ended.traffic]
      exact PagesAdded.refl (v.onStore (Store.change p.key f))
    notice := ended.notice
    counts := by
      show v.traffic.counts = _
      rw [ended.traffic]
      rfl
    stories := by
      show (v.store.change p.key f).stories.map _ = _
      rw [store]
      rfl }

/-- A pass that ends with its story freed. -/
theorem State.endPass_freed (entry : s.pass.outbound[n]? = some (some p)) (noRestart : o ≠ .abandoned)
    (stands : s.story p.key = some q) :
    FinalTold n p o (s.store.stories.filter fun y => y.key ≠ p.key) s ((s.endPass n o).freeStory p.key) := by
  have ended := State.endPass_ends (o := o) entry noRestart
  have store : (s.endPass n o).store = s.store := by
    obtain ⟨_, _, _, _, _, store, _⟩ := ended.rest
    exact store
  generalize s.endPass n o = v at *
  have pages := PagesAdded.freeStory p.key v
  have keeps := State.notifyStoryFreed_keeps p.key (v.onStore (Store.free p.key id))
  have freed : v.freeStory p.key = (v.onStore (Store.free p.key id)).notifyStoryFreed p.key := rfl
  rw [freed] at pages ⊢
  have there : v.store.story p.key = some q := by rw [store]; exact stands
  generalize (v.onStore (Store.free p.key id)).notifyStoryFreed p.key = w at *
  exact {
    pass := keeps.pass.trans ended.pass
    pages := by
      rw [← ended.traffic]
      exact pages
    notice := keeps.notices _ ended.notice
    counts := keeps.counts.trans (by
      show v.traffic.counts = _
      rw [ended.traffic]
      rfl)
    stories := keeps.stories.trans (by
      show (v.store.free p.key id).stories.map _ = _
      rw [Store.free_id there, store]) }

/-- The final slip DELIVERED: a carbon, or the story freed. -/
theorem State.tellOwner_finalDelivered (mine : e.owner = .passEntry n) (entry : s.pass.outbound[n]? = some (some p))
    (kind : e.frame.kind = .slip) (sending : p.phase = .sending) (final : p.nextSlip = p.slipTotal - 1)
    (stands : s.story p.key = some q) :
    FinalTold n p .delivered
      (if p.keepCarbon then s.store.with p.key fun y => { y with custody := .carbon }
       else s.store.stories.filter fun y => y.key ≠ p.key) s (s.tellOwner e .delivered) := by
  have told : s.slipTold n p .delivered =
      if p.keepCarbon then (s.endPass n .delivered).carbonStory p.key else (s.endPass n .delivered).freeStory p.key :=
    if_pos (Pass.finalInHand_iff.mpr ⟨sending, final⟩)
  have low := (List.getElem?_eq_some_iff.mp entry).choose
  rw [State.tellOwner_slip mine entry kind sending, told]
  cases p.keepCarbon with
  | true =>
    have ended := State.endPass_changed (o := .delivered) entry (by simp) fun y => { y with custody := .carbon }
    rw [if_pos rfl, if_pos rfl]
    exact ended.told low .delivered
  | false =>
    have ended := State.endPass_freed (o := .delivered) entry (by simp) stands
    rw [if_neg Bool.false_ne_true, if_neg Bool.false_ne_true]
    exact ended.told low .delivered

/-- The final slip failed: the story is in DOUBT. -/
theorem State.tellOwner_finalFailed (mine : e.owner = .passEntry n) (entry : s.pass.outbound[n]? = some (some p))
    (kind : e.frame.kind = .slip) (sending : p.phase = .sending) (final : p.nextSlip = p.slipTotal - 1) :
    FinalTold n p .unconfirmed (s.store.with p.key fun y => { y with custody := .doubt p.keepCarbon }) s
      (s.tellOwner e (.failed c)) := by
  have told : s.slipTold n p (.failed c) = (s.endPass n .unconfirmed).doubtStory p.key p.keepCarbon :=
    if_pos (Pass.finalInHand_iff.mpr ⟨sending, final⟩)
  have ended := State.endPass_changed (o := .unconfirmed) entry (by simp) fun y => { y with custody := .doubt p.keepCarbon }
  rw [State.tellOwner_slip mine entry kind sending, told]
  exact ended.told (List.getElem?_eq_some_iff.mp entry).choose (.failed c)

end Final

/-! ## The page engine's frames (R132, R134) -/

section Pages

variable {s t u : State} {e : OutEntry} {slot : Nat} {p : Plan} {o : PlanState} {m : Notice} {r : Report} {f : OutFrame}

/-- A plan that ends without a PAGE DROP. -/
structure PlanLeft (slot : Nat) (p : Plan) (o : PlanState) (m : Notice) (s t : State) : Prop where
  traffic : t.traffic = s.traffic
  outOfOrder : OutOfOrder slot (some { p with state := o }) t
  notice : t.desk.latched m = true

theorem State.endPlan_left (plan : s.plan slot = some p) (noDrop : o.dropReason = none) (notice : o.notice = some m) :
    PlanLeft slot p o m s (s.endPlan slot o) := by
  have changed : (s.onPlan slot fun p => { p with state := o }).plan slot = some { p with state := o } := by
    rw [State.onPlan_plan, plan]
    rfl
  unfold State.endPlan
  rw [plan]
  dsimp only
  rw [notice]
  generalize first : (if p.state.underWay then _ else _ : State) = a
  have atFirst : a.traffic = s.traffic ∧ a.plan slot = some { p with state := o } := by
    rw [← first]
    split
    · rw [releaseLocks_eq]
      exact ⟨rfl, changed⟩
    · exact ⟨rfl, changed⟩
  generalize second : (if p.state = .fitting then _ else _ : State) = b
  have atSecond : b.traffic = s.traffic ∧ b.plan slot = some { p with state := o } := by
    rw [← second]
    split <;> exact atFirst
  generalize third : (if p.state = .sending then _ else _ : State) = c
  have atThird : c.traffic = s.traffic ∧ c.plan slot = some { p with state := o } := by
    rw [← third]
    split
    · unfold State.endTransfer
      rw [noDrop]
      exact atSecond
    · exact atSecond
  generalize fourth : (if p.state = .planned then _ else _ : State) = d
  have atFourth : d.traffic = s.traffic ∧ OutOfOrder slot (some { p with state := o }) d := by
    have out : slot ∉ c.page.sendOrder.filter (· ≠ slot) := fun mem => by
      have := (List.mem_filter.mp mem).2
      simp at this
    rw [← fourth]
    split
    · exact ⟨atThird.1, atThird.2, out⟩
    · exact ⟨atThird.1, atThird.2, out⟩
  exact ⟨atFourth.1, atFourth.2, State.raise_latched m d⟩

/-- What follows at once leaves an ended plan as it is. -/
theorem PlanLeft.settled (h : PlanLeft slot p o m s u) :
    PagesAdded s.traffic.queue u.settleFits.settle ∧ u.settleFits.settle.plan slot = some { p with state := o } ∧
      u.settleFits.settle.desk.latched m = true ∧ u.settleFits.settle.traffic.counts = s.traffic.counts := by
  have fits := State.settleFits_follows u
  have all := fits.trans (State.settle_follows u.settleFits)
  have kept := OutOfOrder.kept slot (some { p with state := o })
  have once := kept.settleFits h.outOfOrder
  have twice := OutOfOrder.settled u.settleFits (kept.settleFits once)
  generalize u.settleFits.settle = t at *
  refine ⟨?_, twice.1, all.notices m h.notice, all.counts.trans (by rw [h.traffic])⟩
  rw [← h.traffic]
  exact (PagesAdded.refl u).follows all

theorem State.tellOwner_plan (mine : e.owner = .page) (notDrop : e.frame.kind ≠ .pageDrop) (notWithdrawn : r ≠ .withdrawn) :
    s.tellOwner e r = (s.planTold e.frame.kind r).settleFits := by
  unfold State.tellOwner
  rw [mine]
  show s.pageTold e.frame.kind r = _
  unfold State.pageTold
  cases r
  case withdrawn => exact absurd rfl notWithdrawn
  all_goals exact if_neg notDrop

theorem State.tellOwner_pageFailed {c : Cause} (mine : e.owner = .page) (notDrop : e.frame.kind ≠ .pageDrop)
    (transfer : s.page.transfer.plan = some slot) (plan : s.plan slot = some p) :
    s.tellOwner e (.failed c) = (s.endPlan slot (.failed (.line c))).settleFits := by
  rw [State.tellOwner_plan mine notDrop (by simp)]
  unfold State.planTold
  rw [transfer]
  dsimp only
  rw [plan]

theorem State.tellOwner_pageEnd (mine : e.owner = .page) (kind : e.frame.kind = .pageEnd)
    (transfer : s.page.transfer.plan = some slot) (plan : s.plan slot = some p) :
    s.tellOwner e .delivered =
      ((s.onPlan slot fun p =>
        { p with late := decide (s.editionState p.edition = some .late) }).endPlan slot .sent).settleFits := by
  rw [State.tellOwner_plan mine (by rw [kind]; simp) (by simp)]
  unfold State.planTold
  rw [transfer]
  dsimp only
  rw [plan, kind]
  dsimp only [State.pageDelivered]
  have same : (s.onPlan slot fun p_1 => { p_1 with late := decide (s.editionState p.edition = some .late) }) =
      s.onPlan slot fun p => { p with late := decide (s.editionState p.edition = some .late) } := by
    unfold State.onPlan State.onPage
    have here : s.page.plans[slot]? = some (some p) := by
      unfold State.plan at plan
      rw [List.getD_eq_getElem?_getD] at plan
      cases there : s.page.plans[slot]? with
      | none => simp [there] at plan
      | some o => simpa [there] using plan
    simp only [Told.modify_set _ _ _ _ here]
  rw [same]

/-- No drop is pending and no PAGE HEAD waits for one. -/
def State.noDrop (s : State) : Prop := s.page.transfer.drop = none ∧ s.page.ready = none

theorem noDrop_kept : KeptByHead State.noDrop where
  congr := fun h _ _ drop _ _ ready => ⟨drop.trans h.1, (ready h.1).trans h.2⟩
  requests := fun h _ => h
  changes := fun _ h _ _ => h
  ends := fun o h head fitting => by
    unfold State.noDrop
    rw [State.endPlan_page o (State.headPlan_iff.mp head).2 fitting]
    exact h

theorem State.noDrop_settled (h : s.noDrop) : s.settle.noDrop := by
  have fits := noDrop_kept.settleFits h
  have rest : PageStands s.settleFits s.settle := PageStands.ofSlips s.settleFits
  unfold State.noDrop
  rw [rest.page]
  exact fits

theorem State.tellOwner_drop (mine : e.owner = .page) (kind : e.frame.kind = .pageDrop) (ends : r.ends = true)
    (notWithdrawn : r ≠ .withdrawn) :
    s.tellOwner e r = (s.onPage fun x => { x with transfer := { x.transfer with drop := none } }).sendHead := by
  unfold State.tellOwner
  rw [mine]
  show s.pageTold e.frame.kind r = _
  unfold State.pageTold
  rw [kind]
  cases r
  case withdrawn => exact absurd rfl notWithdrawn
  all_goals exact (if_pos rfl).trans (if_pos ends)

theorem State.sendHead_none (nothing : s.page.ready = none) : s.sendHead = s := by
  unfold State.sendHead
  rw [nothing]

theorem State.sendHead_some (waits : s.page.ready = some f) (free : s.traffic.held .page = 0) :
    s.sendHead =
      { s with
          page := { s.page with ready := none, transfer := { s.page.transfer with frame := .queued } },
          traffic := { s.traffic with queue := s.traffic.queue ++ [newEntry .page f] } } := by
  unfold State.sendHead
  rw [waits]
  dsimp only
  rw [State.sendPageFrame_eq f free]
  rfl

end Pages

/-- An owner of no other entry holds none once its own has left. -/
theorem held_eraseIdx {l : List OutEntry} {i : Nat} {o : Owner}
    (others : ∀ (j : Nat) (x : OutEntry), j ≠ i → l[j]? = some x → x.owner ≠ o) :
    ((l.eraseIdx i).filter fun e => decide (e.owner = o)).length = 0 := by
  rw [List.length_eq_zero_iff, List.filter_eq_nil_iff]
  intro x mem
  obtain ⟨j, at_j⟩ := List.getElem?_of_mem mem
  have there : (l.eraseIdx i)[j]? = _ := List.getElem?_eraseIdx ..
  rw [at_j] at there
  have other : x.owner ≠ o := by
    split at there
    · next low => exact others j x (by omega) there.symm
    · next high => exact others (j + 1) x (by omega) there.symm
  simpa using other

end Sys2Proof.Machine


namespace Sys2Proof.Machine

open Sys2Proof

/-! ## The end of an attempt, row by row -/

section Ends

variable {s : State} {i n : Nat} {e : OutEntry} {o : Option Cause} {p : Pass} {row : Instr} {line : Line}

/-- The line, the queue and the counts after an attempt. -/
def State.attempted (line : Line) (queue : List OutEntry) (counts : LineCounts) (s : State) : State :=
  { s with line := line, traffic := { s.traffic with queue := queue, counts := counts } }

/-- The entry gone, and its frame counted. -/
def State.entryGone (line : Line) (i : Nat) (o : Option Cause) (s : State) : State :=
  s.attempted line (s.traffic.queue.eraseIdx i)
    (if o = none then s.traffic.counts.oneSent else s.traffic.counts.oneFailed)

/-- What an entry that has left the queue tells its owner. -/
def OutEntry.report (o : Option Cause) : Report :=
  match o with
  | none => .delivered
  | some c => .failed c

/-- The entry as its owner is told of it. -/
def OutEntry.toldOf (o : Option Cause) (e : OutEntry) : OutEntry :=
  match o with
  | none => e.attempted none
  | some c => { e.attempted (some c) with lastCause := some c }

theorem OutEntry.toldOf_owner (o : Option Cause) (e : OutEntry) : (e.toldOf o).owner = e.owner := by
  cases o <;> rfl

theorem OutEntry.toldOf_kind (o : Option Cause) (e : OutEntry) : (e.toldOf o).frame.kind = e.frame.kind := by
  cases o <;> rfl

variable (runs : exec row s = .next (({ s with line := line } : State).endAttemptOf i e o))

include runs

theorem exec_endsAttempt (stays : e.withdrawing = false) (ends : o = none ∨ ∃ x, o = some x ∧ s.retryLimit ≤ e.attempts) :
    exec row s = .next (((s.entryGone line i o).tellOwner (e.toldOf o) (OutEntry.report o)).settle) := by
  rw [runs]
  cases o with
  | none =>
    rw [State.endAttemptOf_delivered stays]
    rfl
  | some c =>
    have spent : s.retryLimit ≤ e.attempts := by
      rcases ends with none_ | ⟨_, _, spent⟩
      · cases none_
      · exact spent
    rw [State.endAttemptOf_failed (s := { s with line := line }) stays spent]
    rfl

theorem exec_endsAttempt_withdrawn (withdrawing : e.withdrawing = true) :
    ∃ t : State, exec row s = .next t ∧
      WithdrawnGone e (s.attempted line (s.traffic.queue.eraseIdx i)
        (if o = none then s.traffic.counts.oneSent else s.traffic.counts)) t := by
  refine ⟨_, runs, ?_⟩
  rw [State.endAttemptOf_withdrawn withdrawing]
  exact { State.told_withdrawn (e.attempted o) (s.attempted line (s.traffic.queue.eraseIdx i)
    (if o = none then s.traffic.counts.oneSent else s.traffic.counts)) with }

theorem exec_endsAttempt_again {x : Cause} (is : o = some x) (here : s.traffic.queue[i]? = some e)
    (stays : e.withdrawing = false) (left : e.attempts < s.retryLimit)
    (quiet : x ≠ .partly ∨ ∀ n p, s.pass.outbound[n]? = some (some p) →
      ¬(e.owner = .passEntry n ∧ e.frame.kind = .offer ∧ p.phase = .offering)) :
    ∃ t : State, exec row s = .next t ∧
      SettleFollows (s.attempted line (s.traffic.queue.set i { e.attempted o with lastCause := some x }) s.traffic.counts) t := by
  subst is
  refine ⟨_, runs, ?_⟩
  rw [State.endAttemptOf_again (s := { s with line := line }) stays left here]
  have told := State.tellOwner_attempt (c := x) (e := { e.attempted (some x) with lastCause := some x })
    (s := s.attempted line (s.traffic.queue.set i { e.attempted (some x) with lastCause := some x }) s.traffic.counts) quiet
  exact told.trans (State.settle_follows _)

theorem exec_endsAttempt_partly (is : o = some .partly) (here : s.traffic.queue[i]? = some e)
    (stays : e.withdrawing = false) (left : e.attempts < s.retryLimit) (mine : e.owner = .passEntry n)
    (kind : e.frame.kind = .offer) (offering : p.phase = .offering) (entry : s.pass.outbound[n]? = some (some p))
    (others : ∀ (j : Nat) (y : OutEntry), j ≠ i → s.traffic.queue[j]? = some y → y.owner ≠ .passEntry n) :
    ∃ t : State, exec row s = .next t ∧
      SettleFollows ((s.attempted line (s.traffic.queue.eraseIdx i) s.traffic.counts).withEntry n { p with timer := true }) t := by
  subst is
  refine ⟨_, runs, ?_⟩
  have low : i < s.traffic.queue.length := (List.getElem?_eq_some_iff.mp here).choose
  rw [State.endAttemptOf_again (s := { s with line := line }) stays left here]
  have told := State.tellOwner_partly (e := { e.attempted (some .partly) with lastCause := some .partly }) (i := i)
    (s := s.attempted line (s.traffic.queue.set i { e.attempted (some .partly) with lastCause := some .partly })
      s.traffic.counts) (List.getElem?_set_self low) mine kind offering rfl stays entry rfl fun j y differs there => by
        rw [List.getElem?_set_ne (Ne.symm differs)] at there
        exact others j y differs there
  have erased : (s.traffic.queue.set i { e.attempted (some .partly) with lastCause := some .partly }).eraseIdx i =
      s.traffic.queue.eraseIdx i := List.eraseIdx_set_eq
  rw [erased] at told
  exact told ▸ State.settle_follows _

end Ends

end Sys2Proof.Machine


namespace Sys2Proof.Machine

open Sys2Proof

section Rows

variable {s : State} {i n slot : Nat} {e : OutEntry} {o : Option Cause} {row : Instr} {line : Line} {p : Pass}

/-- A row that ends the attempt of the entry on the line. -/
theorem exec_attemptRow (here : s.traffic.queue[i]? = some e) (onLine : e.onLine = true)
    (first : ∀ (j : Nat) (x : OutEntry), j < i → s.traffic.queue[j]? = some x → x.onLine = false)
    (rows : (∃ taken refused, row = .slotEnd taken refused ∧ line = { s.line with quiet := 0, dominantRun := 0 } ∧
          ((taken = true ∧ refused = false ∧ o = none) ∨ (taken = false ∧ refused = true ∧ o = some .refused) ∨
            (taken = true ∧ refused = true ∧ o = some .partly) ∨
            (taken = false ∧ refused = false ∧ o = some .noTaker))) ∨
        (∃ bit, row = .bitError bit ∧ (8 ≤ bit ∧ (bodyBits (e.frame.onLine s.desk.station))[bit - 1]? = some true) ∧
          line = { s.line with quiet := 0, join := 0, recessive := 0 } ∧ o = some .bitError)) :
    exec row s = .next (({ s with line := line } : State).endAttemptOf i e o) := by
  rcases rows with ⟨taken, refused, rfl, rfl, answers⟩ | ⟨bit, rfl, ⟨late, one⟩, rfl, rfl⟩
  · have outcome : slotOutcome taken refused = o := by
      rcases answers with ⟨rfl, rfl, rfl⟩ | ⟨rfl, rfl, rfl⟩ | ⟨rfl, rfl, rfl⟩ | ⟨rfl, rfl, rfl⟩ <;> rfl
    rw [exec_slotEnd here onLine first, outcome]
  · exact exec_bitError here onLine first late one

theorem exec_slotEnd_idle (idle : ∀ e ∈ s.traffic.queue, e.onLine = false) (taken refused : Bool) :
    exec (.slotEnd taken refused) s = .next { s with line := { s.line with slot := .neither, dominantRun := 0 } } := by
  have notSending : ¬s.traffic.sending = true := fun sends => by
    obtain ⟨e, mem, onLine⟩ := List.any_eq_true.mp sends
    rw [idle e mem] at onLine
    cases onLine
  exact congrArg Host.Outcome.next (if_neg notSending)

theorem exec_bitError_idle (idle : ∀ e ∈ s.traffic.queue, e.onLine = false) (bit : Nat) :
    exec (.bitError bit) s = .next s := by
  show Host.Outcome.next (s.bitError bit) = _
  unfold State.bitError
  rw [State.onLineEntry_eq_none idle]

/-- A page drop that has left the queue. -/
theorem exec_dropEnds (line : Line)
    (runs : exec row s = .next (((s.entryGone line i o).tellOwner (e.toldOf o) (OutEntry.report o)).settle))
    (mine : e.owner = .page) (kind : e.frame.kind = .pageDrop) {u : State}
    (heads : ((s.entryGone line i o).onPage fun x => { x with transfer := { x.transfer with drop := none } }).sendHead = u)
    (noDrop : u.noDrop) :
    ∃ t, exec row s = .next t ∧ SettleFollows u t ∧ t.page.transfer.drop = none ∧ t.page.ready = none := by
  have told := State.tellOwner_drop (s := s.entryGone line i o) (e := e.toldOf o) (r := OutEntry.report o)
    ((e.toldOf_owner o).trans mine) ((e.toldOf_kind o).trans kind) (by cases o <;> rfl) (by cases o <;> simp [OutEntry.report])
  rw [told, heads] at runs
  exact ⟨_, runs, State.settle_follows u, State.noDrop_settled noDrop⟩

/-- What an ended plan leaves once its frame has left the queue. -/
theorem exec_planLeft {q r : Plan} {st : PlanState} {m : Notice} {u : State} (line : Line)
    (runs : exec row s = .next (((s.entryGone line i o).tellOwner (e.toldOf o) (OutEntry.report o)).settle))
    (told : (s.entryGone line i o).tellOwner (e.toldOf o) (OutEntry.report o) = (u.endPlan slot st).settleFits)
    (plan : u.plan slot = some r) (is : { r with state := st } = q) (traffic : u.traffic = (s.entryGone line i o).traffic)
    (noDrop : st.dropReason = none) (notice : st.notice = some m) :
    ∃ t, exec row s = .next t ∧ PagesAdded (s.traffic.queue.eraseIdx i) t ∧ t.plan slot = some q ∧
      t.desk.latched m = true ∧ t.traffic.counts = (s.entryGone line i o).traffic.counts := by
  rw [told] at runs
  obtain ⟨pages, stands, latched, counts⟩ := (State.endPlan_left plan noDrop notice).settled
  rw [traffic] at pages counts
  exact ⟨_, runs, pages, by rw [stands, is], latched, counts⟩

/-- The end of a pass at its final slip, with what follows at once. -/
theorem exec_finalEnds {po : PassOutcome} {l : List Story} {u w : State} {q : Pass} (runs : exec row s = .next w.settle)
    (h : FinalTold n q po l u w) (entry : u.pass.outbound[n]? = some (some q)) :
    ∃ t, exec row s = .next t ∧ PagesAdded (u.traffic.withdraw (.passEntry n)).queue t ∧
      t.desk.latched .passEnded = true ∧ t.traffic.counts = u.traffic.counts ∧
      t.pass.outbound[n]? =
        some (some { q with phase := .ended, outcome := some po, endOrder := u.pass.nextEnd, timer := false,
                            reading := none, ready := none }) ∧
      t.store.stories.map Story.unlocked = l.map Story.unlocked := by
  have all := h.follows (State.settle_follows w)
  refine ⟨_, runs, all.pages, all.notice, all.counts, ?_, all.stories⟩
  rw [all.pass]
  exact List.getElem?_set_self (List.getElem?_eq_some_iff.mp entry).choose

theorem State.editionLate_iff (n : Nat) :
    s.editionState n = some .late ↔ 1 ≤ n ∧ s.clock.editions[n - 1]? = some .late := by
  unfold State.editionState
  split
  · next zero => simp [zero]
  · next low => simp [Nat.one_le_iff_ne_zero.mpr low]

end Rows

/-- Settles O58. -/
theorem attemptsEnd : Obligations.AttemptsEnd := by
  unfold Obligations.AttemptsEnd
  refine ⟨fun s idle => ⟨exec_slotEnd_idle idle, exec_bitError_idle idle⟩, fun i e s here onLine first => ?_⟩
  intro ownOne
  refine ⟨fun bit other => exec_bitError_other here onLine first other, fun row line o rows => ?_⟩
  have runs := exec_attemptRow here onLine first rows
  intro done c sent failed now gone offers slips entry final leads clears withEntry left ends
  have gone_is : gone = s.entryGone line i o := rfl
  refine ⟨exec_endsAttempt_withdrawn runs, fun stays => ?_⟩
  refine ⟨fun x is left quiet => ?_, fun n p is left offers entry others => ?_, fun ended => ?_⟩
  · subst is
    exact exec_endsAttempt_again runs rfl here stays left (quiet.imp id fun none_ n p there => none_ n p there)
  · exact exec_endsAttempt_partly runs is here stays left offers.1 offers.2.1 offers.2.2 entry others
  have told := exec_endsAttempt runs stays ended
  rw [← gone_is] at told
  have led {u : State} (is : gone.tellOwner (e.toldOf o) (OutEntry.report o) = u) : leads u :=
    ⟨_, told, is ▸ State.settle_follows _⟩
  have owner := e.toldOf_owner o
  have kind := e.toldOf_kind o
  refine ⟨fun own => led ?_, fun own => led ?_, fun n b own entry => ⟨fun is => led ?_, fun fails => ?_⟩,
    fun n p offers entry => ⟨fun waits => led ?_, fun x is other => ?_⟩, fun n p r slips entry stands =>
      ⟨fun is notFinal long => led ?_, fun fails notFinal => ?_, fun final => ?_⟩, fun slot p own notDrop transfer plan =>
        ⟨fun x is => ?_, fun is pageEnd => ?_⟩, fun own drop nothing => ?_, fun f own drop waits others => ?_⟩
  · rcases own with answer | clock
    · exact State.tellOwner_answer (owner.trans answer)
    · exact State.tellOwner_clock (owner.trans clock) (by cases o <;> simp [OutEntry.report])
  · rw [State.tellOwner_flash (owner.trans own)]
    cases o <;> rfl
  · subst is
    exact State.tellOwner_takeDelivered (owner.trans own) entry
  · obtain ⟨c, rfl⟩ := Option.ne_none_iff_exists'.mp fails
    have fails := State.tellOwner_takeFailed (c := c) (owner.trans own) (s := gone) entry
    obtain ⟨queue, counts, free, latched⟩ := State.loseInbound_lost (s := gone) entry
    rw [show OutEntry.report (some c) = .failed c from rfl, fails] at told
    have follows := State.settle_follows (gone.loseInbound n)
    refine ⟨_, told, queue ▸ (PagesAdded.refl _).follows follows, ?_, follows.notices _ latched, follows.counts.trans counts⟩
    rw [follows.pass]
    exact free
  · refine State.tellOwner_offerWaits (owner.trans offers.1) entry.1 (kind.trans offers.2.1) offers.2.2 entry.2 ?_
    rcases waits with rfl | rfl
    · exact .inl rfl
    · exact .inr rfl
  · subst is
    have fails := State.tellOwner_offerFailed (s := gone) (owner.trans offers.1) entry.1 (kind.trans offers.2.1) offers.2.2 other
    rw [show OutEntry.report (some x) = .failed x from rfl, fails] at told
    refine ⟨_, told, (State.endReturn_ends (s := gone) entry.1 rfl (by simp)).settle entry.1, ?_⟩
    rw [(State.settle_follows _).counts]
    show (gone.endPass n (.failed (.line x))).traffic.counts = _
    rw [(State.endPass_ends (s := gone) entry.1 (by simp)).traffic]
    rfl
  · subst is
    exact State.tellOwner_slipDelivered (owner.trans slips.1) entry.1 (kind.trans slips.2.1) slips.2.2 entry.2 notFinal stands long
  · obtain ⟨c, rfl⟩ := Option.ne_none_iff_exists'.mp fails
    have fails := State.tellOwner_slipFailed (c := c) (s := gone) (owner.trans slips.1) entry.1 (kind.trans slips.2.1) slips.2.2 notFinal
    rw [show OutEntry.report (some c) = .failed c from rfl, fails] at told
    refine ⟨c, _, rfl, told, (State.endReturn_ends (s := gone) entry.1 rfl (by simp)).settle entry.1, ?_⟩
    rw [(State.settle_follows _).counts]
    show (gone.endPass n (.failed (.line c))).traffic.counts = _
    rw [(State.endPass_ends (s := gone) entry.1 (by simp)).traffic]
    rfl
  · cases o with
    | none =>
      have fin := State.tellOwner_finalDelivered (s := gone) (owner.trans slips.1) entry.1 (kind.trans slips.2.1) slips.2.2
        final stands
      obtain ⟨t, runs, pages, notice, counts, there, stories⟩ := exec_finalEnds told fin entry.1
      exact ⟨t, _, runs, pages, notice, there, rfl, rfl, rfl, counts, fun _ => ⟨rfl, stories⟩, fun is => absurd rfl is⟩
    | some c =>
      have fin := State.tellOwner_finalFailed (c := c) (s := gone) (owner.trans slips.1) entry.1 (kind.trans slips.2.1)
        slips.2.2 final
      obtain ⟨t, runs, pages, notice, counts, there, stories⟩ := exec_finalEnds told fin entry.1
      exact ⟨t, _, runs, pages, notice, there, rfl, rfl, rfl, counts, nofun, fun _ => ⟨rfl, stories⟩⟩
  · subst is
    exact exec_planLeft line told (State.tellOwner_pageFailed (owner.trans own) (by rw [kind]; exact notDrop) transfer plan)
      plan rfl rfl rfl rfl
  · subst is
    have late : (gone.onPlan slot fun p => { p with late := decide (gone.editionState p.edition = some .late) }).plan slot =
        some { p with late := decide (gone.editionState p.edition = some .late) } := by
      rw [State.onPlan_plan, show gone.plan slot = some p from plan]
      rfl
    obtain ⟨t, runs, rest⟩ := exec_planLeft line told
      (State.tellOwner_pageEnd (s := gone) (owner.trans own) (kind.trans pageEnd) transfer plan) late rfl rfl rfl rfl
    refine ⟨t, decide (gone.editionState p.edition = some .late), runs, rest.1, ?_, rest.2⟩
    rw [decide_eq_true_iff]
    exact State.editionLate_iff p.edition
  · refine exec_dropEnds line told own drop (State.sendHead_none nothing) ⟨rfl, nothing⟩
  · refine exec_dropEnds line told own drop (State.sendHead_some waits ?_) ⟨rfl, rfl⟩
    exact held_eraseIdx others

end Sys2Proof.Machine


namespace Sys2Proof.Machine

open Sys2Proof

/-! ## What the line section listens to -/

section Listens

variable {s : State} {t : Traffic}

theorem LineState.listens_iff {l : LineState} : l.listens = true ↔ l = .joining ∨ l = .active ∨ l = .listenOnly := by
  cases l <;> simp [LineState.listens]

theorem Traffic.sending_iff_exists : t.sending = true ↔ ∃ e ∈ t.queue, e.onLine = true := by
  simp [Traffic.sending]

theorem Traffic.sending_eq_false_iff : t.sending = false ↔ ∀ e ∈ t.queue, e.onLine = false := by
  simp [Traffic.sending]

theorem dominantLevel_notSeen_iff (n : Nat) : dominantLevel n = .notSeen ↔ n = 0 := by
  unfold dominantLevel
  split_ifs <;> simp <;> omega

theorem dominantLevel_startMark_iff (n : Nat) : dominantLevel n = .startMark ↔ 12 ≤ n ∧ n ≤ 20 := by
  unfold dominantLevel
  split_ifs <;> simp <;> omega

theorem dominantLevel_stuck_iff (n : Nat) : dominantLevel n = .stuck ↔ 64 < n := by
  unfold dominantLevel
  split_ifs <;> simp <;> omega

end Listens

theorem modify_at {α : Type} {l : List α} {i : Nat} {a : α} (here : l[i]? = some a) (f : α → α) :
    l.modify i f = l.set i (f a) := by
  rw [List.modify_eq_set_getElem?, here]
  rfl

/-! ## The beginning of an attempt (R37, R51) -/

section Begin

variable {s : State} {t : Traffic} {i quiet : Nat} {e : OutEntry}

theorem FrameKind.cls_le (k : FrameKind) : k.cls ≤ 3 := by
  cases k <;> simp [FrameKind.cls]

/-- With nothing on the line the oldest entry of the lowest class is selected (R51). -/
theorem Traffic.selected_of (idle : ∀ e ∈ t.queue, e.onLine = false) (here : t.queue[i]? = some e)
    (least : ∀ (j : Nat) (x : OutEntry), t.queue[j]? = some x →
      e.frame.kind.cls < x.frame.kind.cls ∨ (e.frame.kind.cls = x.frame.kind.cls ∧ i ≤ j)) :
    t.selected = some i := by
  have best : indexWhere (fun x : OutEntry => !x.onLine && decide (x.frame.kind.cls = e.frame.kind.cls)) t.queue = some i := by
    refine indexWhere_eq_some.mpr ⟨⟨e, here, ?_⟩, fun j low x there => ?_⟩
    · simp [idle e (List.mem_of_getElem? here)]
    · have later := least j x there
      have differs : x.frame.kind.cls ≠ e.frame.kind.cls := by omega
      simp [differs]
  have lower : ∀ c, c < e.frame.kind.cls →
      indexWhere (fun x : OutEntry => !x.onLine && decide (x.frame.kind.cls = c)) t.queue = none := by
    refine fun c low => indexWhere_eq_none.mpr fun x mem => ?_
    obtain ⟨j, there⟩ := List.getElem?_of_mem mem
    have later := least j x there
    have differs : x.frame.kind.cls ≠ c := by omega
    simp [differs]
  have limit := e.frame.kind.cls_le
  unfold Traffic.selected
  generalize e.frame.kind.cls = c at best lower limit
  obtain rfl | rfl | rfl | rfl : c = 0 ∨ c = 1 ∨ c = 2 ∨ c = 3 := by omega
  · simp [best]
  · simp [best, lower 0]
  · simp [best, lower 0, lower 1]
  · simp [best, lower 0, lower 1, lower 2]

theorem Traffic.selected_empty (empty : t.queue = []) : t.selected = none := by
  simp [Traffic.selected, empty, indexWhere]

/-- The quiet count kept and nothing begun. -/
def State.quietKept (quiet : Nat) (s : State) : State :=
  { s with
      line :=
        { s.line with
            quiet := max s.line.quiet quiet, dominantRun := 0,
            slot := if 2 ≤ max s.line.quiet quiet then .neither else s.line.slot } }

/-- The entry at index `i` on the line, the counts at 0. -/
def State.markBegun (i : Nat) (e : OutEntry) (s : State) : State :=
  { s with
      line := { s.line with quiet := 0, join := 0, recessive := 0, dominantRun := 0, slot := .neither },
      traffic := { s.traffic with queue := s.traffic.queue.set i { e with onLine := true } } }

theorem exec_startMarkBegin_busy
    (busy : ¬(s.line.state = .active ∧ s.line.receiving = false ∧ ∀ e ∈ s.traffic.queue, e.onLine = false)) :
    exec (.startMarkBegin quiet) s = .next s := by
  refine congrArg Host.Outcome.next (if_neg fun free => busy ?_)
  simpa [Traffic.sending_eq_false_iff, and_assoc] using free

section Free

variable (free : s.line.state = .active ∧ s.line.receiving = false ∧ ∀ e ∈ s.traffic.queue, e.onLine = false)

include free

theorem exec_startMarkBegin_free :
    exec (.startMarkBegin quiet) s =
      .next (match s.traffic.selected with
        | none => s.quietKept quiet
        | some i =>
            if (s.traffic.queue[i]?).any fun e => decide (e.quietTime ≤ max s.line.quiet quiet) then
              ((s.quietKept quiet).onLine fun l => { l.fall with slot := .neither }).onTraffic (Traffic.begin i)
            else s.quietKept quiet) := by
  refine congrArg Host.Outcome.next ((if_pos ?_).trans rfl)
  obtain ⟨active, outside, idle⟩ := free
  simp [active, outside, Traffic.sending_eq_false_iff.mpr idle]

theorem exec_startMarkBegin_empty (empty : s.traffic.queue = []) :
    exec (.startMarkBegin quiet) s = .next (s.quietKept quiet) := by
  rw [exec_startMarkBegin_free free, Traffic.selected_empty empty]

variable (here : s.traffic.queue[i]? = some e)
  (least : ∀ (j : Nat) (x : OutEntry), s.traffic.queue[j]? = some x →
    e.frame.kind.cls < x.frame.kind.cls ∨ (e.frame.kind.cls = x.frame.kind.cls ∧ i ≤ j))

include here least

theorem exec_startMarkBegin_waits (early : max s.line.quiet quiet < e.quietTime) :
    exec (.startMarkBegin quiet) s = .next (s.quietKept quiet) := by
  rw [exec_startMarkBegin_free free, Traffic.selected_of free.2.2 here least]
  dsimp only
  rw [here, if_neg (by simpa using early)]

theorem exec_startMarkBegin_begins (reached : e.quietTime ≤ max s.line.quiet quiet) :
    exec (.startMarkBegin quiet) s = .next (s.markBegun i e) := by
  rw [exec_startMarkBegin_free free, Traffic.selected_of free.2.2 here least]
  dsimp only
  rw [here, if_pos (by simpa using reached)]
  unfold State.markBegun
  rw [← modify_at here fun x => { x with onLine := true }]
  rfl

end Free

/-- The entry begun drives its own frame alone. -/
theorem State.markBegun_drives (idle : ∀ e ∈ s.traffic.queue, e.onLine = false) (here : s.traffic.queue[i]? = some e)
    (start : Nat) :
    (s.markBegun i e).drives start none none = frameWire start (bodyBits (e.frame.onLine s.desk.station)) := by
  obtain ⟨low, _⟩ := List.getElem?_eq_some_iff.mp here
  have entry : (s.markBegun i e).onLineEntry = some (i, { e with onLine := true }) := by
    refine State.onLineEntry_of (List.getElem?_set_self low) rfl fun j x below there => ?_
    rw [State.markBegun, List.getElem?_set_ne (by omega)] at there
    exact idle x (List.mem_of_getElem? there)
  funext u
  unfold State.drives Wire.join slotWire
  rw [entry]
  simp [State.markBegun]

end Begin

/-! ## Arbitration lost (R38, R52, R55) -/

section Arbitration

variable {s : State} {i bit : Nat} {e : OutEntry}

/-- The counts with one loss of arbitration more. -/
def LineCounts.oneLost (c : LineCounts) : LineCounts := { c with arbLosses := min 65535 (c.arbLosses + 1) }

/-- The station receives, with the out queue given, after it lost arbitration. -/
def State.lostTo (queue : List OutEntry) (s : State) : State :=
  { s with
      line := { s.line with receiving := true },
      traffic := { s.traffic with queue := queue, counts := s.traffic.counts.oneLost } }

theorem exec_arbitrationLost_idle (idle : ∀ e ∈ s.traffic.queue, e.onLine = false) :
    exec (.arbitrationLost bit) s = .next s := by
  show Host.Outcome.next (s.arbitrationLost bit) = _
  unfold State.arbitrationLost
  rw [State.onLineEntry_eq_none idle]

variable (here : s.traffic.queue[i]? = some e) (onLine : e.onLine = true)
  (first : ∀ (j : Nat) (x : OutEntry), j < i → s.traffic.queue[j]? = some x → x.onLine = false)

include here onLine first

theorem exec_arbitrationLost_other (other : ¬(1 ≤ bit ∧ bit ≤ 7 ∧ s.ownBit e bit = some true)) :
    exec (.arbitrationLost bit) s = .next s := by
  show Host.Outcome.next (s.arbitrationLost bit) = _
  unfold State.arbitrationLost
  rw [State.onLineEntry_of here onLine first]
  dsimp only
  rw [if_neg (by simpa [within, and_assoc] using other)]

theorem exec_arbitrationLost (lost : 1 ≤ bit ∧ bit ≤ 7 ∧ s.ownBit e bit = some true) :
    exec (.arbitrationLost bit) s = .next (s.loseArbitration i e) := by
  show Host.Outcome.next (s.arbitrationLost bit) = _
  unfold State.arbitrationLost
  rw [State.onLineEntry_of here onLine first]
  dsimp only
  rw [if_pos (by simpa [within, and_assoc] using lost)]

omit onLine first in
theorem State.loseArbitration_stays (stays : e.withdrawing = false) :
    s.loseArbitration i e =
      s.lostTo (s.traffic.queue.set i { e with onLine := false, losses := min 15 (e.losses + 1) }) := by
  unfold State.loseArbitration State.lostTo LineCounts.oneLost
  rw [← bump_eq, ← modify_at here fun x => { x with onLine := false, losses := bump 15 x.losses }, ← bump16_eq]
  exact if_neg (by rw [stays]; exact Bool.false_ne_true)

omit here onLine first in
theorem State.loseArbitration_withdrawn (withdrawing : e.withdrawing = true) :
    s.loseArbitration i e = ((s.lostTo (s.traffic.queue.eraseIdx i)).tellOwner e .withdrawn).settle := by
  unfold State.loseArbitration State.lostTo LineCounts.oneLost
  rw [← bump16_eq]
  exact if_pos withdrawing

end Arbitration

/-! ## Start marks, and levels that are none (R28, R41) -/

section Levels

variable {s : State} {dominant lead : Nat}

theorem exec_startMarkRecognised (listens : s.line.state.listens = true)
    (outside : s.line.receiving = false ∧ ∀ e ∈ s.traffic.queue, e.onLine = false)
    (mark : 12 ≤ dominant ∧ dominant ≤ 20 ∧ lead ≤ 16) :
    exec (.startMarkRecognised dominant lead) s =
      .next
        { s with
            line :=
              { s.line with
                  quiet := 0, join := 0, recessive := 0, receiving := true, slot := .neither, dominantRun := 0 } } := by
  refine congrArg Host.Outcome.next ((if_pos ?_).trans rfl)
  obtain ⟨low, high, near⟩ := mark
  simp [listens, outside.1, Traffic.sending_eq_false_iff.mpr outside.2, dominantLevel_startMark_iff, low, high, near]

theorem exec_startMarkRecognised_other
    (other : ¬(s.line.state.listens = true ∧
      (s.line.receiving = false ∧ ∀ e ∈ s.traffic.queue, e.onLine = false) ∧ 12 ≤ dominant ∧ dominant ≤ 20 ∧ lead ≤ 16)) :
    exec (.startMarkRecognised dominant lead) s = .next s := by
  refine congrArg Host.Outcome.next (if_neg fun marks => other ?_)
  simpa [Traffic.sending_eq_false_iff, dominantLevel_startMark_iff, and_assoc] using marks

theorem exec_dominantLevel_ignored
    (ignored : ¬(s.line.state ≠ .dormant ∧
      (s.line.receiving = false ∧ ∀ e ∈ s.traffic.queue, e.onLine = false) ∧ 1 ≤ dominant)) :
    exec (.dominantLevelNotStartMark dominant) s = .next s := by
  refine congrArg Host.Outcome.next (if_pos ?_)
  by_contra seen
  refine ignored ?_
  simp only [Bool.or_eq_true, decide_eq_true_eq, not_or, dominantLevel_notSeen_iff, Bool.not_eq_true,
    Traffic.sending_eq_false_iff] at seen
  obtain ⟨⟨⟨awake, outside⟩, idle⟩, some_⟩ := seen
  exact ⟨awake, ⟨outside, idle⟩, by omega⟩

variable (awake : s.line.state ≠ .dormant)
  (outside : s.line.receiving = false ∧ ∀ e ∈ s.traffic.queue, e.onLine = false) (seen : 1 ≤ dominant)

include awake outside seen

theorem exec_dominantLevel_seen :
    exec (.dominantLevelNotStartMark dominant) s =
      .next (if s.line.state.listens && decide (dominantLevel dominant = .stuck) then s.stuckLine dominant
        else s.onLine fun l => { l.fall.released with slot := .neither }) := by
  refine congrArg Host.Outcome.next (if_neg ?_)
  simp only [Bool.or_eq_true, decide_eq_true_eq, not_or, dominantLevel_notSeen_iff, Bool.not_eq_true,
    Traffic.sending_eq_false_iff]
  exact ⟨⟨⟨awake, outside.1⟩, outside.2⟩, by omega⟩

theorem exec_dominantLevel_stuck (listens : s.line.state.listens = true) (long : 64 < dominant) :
    exec (.dominantLevelNotStartMark dominant) s = exec (.stuckLine dominant) s := by
  rw [exec_dominantLevel_seen awake outside seen, if_pos (by simp [listens, dominantLevel_stuck_iff, long])]
  rfl

theorem exec_dominantLevel_passed (short : ¬(s.line.state.listens = true ∧ 64 < dominant)) :
    exec (.dominantLevelNotStartMark dominant) s =
      .next
        { s with
            line := { s.line with quiet := 0, join := 0, recessive := 0, dominantRun := 0, slot := .neither } } := by
  rw [exec_dominantLevel_seen awake outside seen, if_neg (by simpa [dominantLevel_stuck_iff] using short)]
  rfl

end Levels

/-- Settles O57. -/
theorem attemptsBegin : Obligations.AttemptsBegin := by
  refine ⟨fun quiet s => ⟨exec_startMarkBegin_busy, exec_startMarkBegin_empty, fun i e free here least => ?_⟩,
    fun bit s => ⟨exec_arbitrationLost_idle, fun i e here onLine first => ?_⟩, fun dominant lead s => ?_⟩
  · exact ⟨fun reached => ⟨exec_startMarkBegin_begins free here least reached,
      State.markBegun_drives free.2.2 here⟩, exec_startMarkBegin_waits free here least⟩
  · refine ⟨exec_arbitrationLost_other here onLine first, fun lost stays => ?_, fun lost withdrawing => ?_⟩
    · rw [exec_arbitrationLost here onLine first lost, State.loseArbitration_stays here stays]
      rfl
    · refine ⟨_, exec_arbitrationLost here onLine first lost, ?_⟩
      rw [State.loseArbitration_withdrawn withdrawing]
      exact State.told_withdrawn e (s.lostTo (s.traffic.queue.eraseIdx i))
  · intro outside listens mark
    have awake : listens → s.line.state ≠ .dormant := by
      rintro hears dormant
      have hears := LineState.listens_iff.mpr hears
      rw [dormant] at hears
      cases hears
    refine ⟨fun hears => exec_startMarkRecognised (LineState.listens_iff.mpr hears), fun other => ?_, fun hears out long => ?_,
      fun awake out seen short => ?_, exec_dominantLevel_ignored⟩
    · exact exec_startMarkRecognised_other fun marks => other ⟨LineState.listens_iff.mp marks.1, marks.2⟩
    · exact exec_dominantLevel_stuck (awake hears) out (by omega) (LineState.listens_iff.mpr hears) long
    · exact exec_dominantLevel_passed awake out seen fun stuck => short ⟨LineState.listens_iff.mp stuck.1, stuck.2⟩

end Sys2Proof.Machine


namespace Sys2Proof.Machine

open Sys2Proof

/-! ## The SLIP acceptance test (R59, R88) -/

section Accept

variable {s : State} {n i source : Nat} {b : Inbound} {k : Key} {codes : List Byte} {free : Bool}

/-- The first inbound entry of a key is the one the key is of. -/
theorem State.inboundOf_of (here : s.pass.inbound[n]? = some (some b)) (key : b.offer.key = k)
    (first : ∀ (m : Nat) (x : Inbound), m < n → s.pass.inbound[m]? = some (some x) → x.offer.key ≠ k) :
    s.inboundOf k = some (n, b) := by
  have found : indexWhere (fun o : Option Inbound => o.any fun b => decide (b.offer.key = k)) s.pass.inbound = some n := by
    refine indexWhere_eq_some.mpr ⟨⟨some b, here, by simp [key]⟩, fun m low o there => ?_⟩
    cases o with
    | none => rfl
    | some x => simp [first m x low there]
  rw [State.inboundOf, found]
  simp [State.inbound, here]

theorem State.inboundOf_eq_none (none_ : ∀ b, some b ∈ s.pass.inbound → b.offer.key ≠ k) : s.inboundOf k = none := by
  refine Option.not_isSome_iff_eq_none.mp fun found => ?_
  obtain ⟨b, mem, key⟩ := (State.inboundOf_isSome k).mp found
  exact none_ b mem key

/-- The inbound entry `n` holding `b`. -/
def State.withInbound (n : Nat) (b : Inbound) (s : State) : State :=
  { s with pass := { s.pass with inbound := s.pass.inbound.set n (some b) } }

/-- A slip taken restarts the gap timer and confirms the TAKE (R86). -/
theorem State.slipTaken_eq (here : s.pass.inbound[n]? = some (some b)) (c : Bool) (f : Inbound → Inbound) :
    s.slipTaken n c f =
      { s.withInbound n (f { b with confirmed := true, timer := true }) with
          traffic :=
            { s.traffic with queue := if c then s.traffic.queue else (s.traffic.withdraw (.take n)).queue } } := by
  unfold State.slipTaken State.onInbound
  simp only [State.onPass, Told.modify_set _ _ _ _ here]
  cases c <;> rfl

section Entry

variable (entry : s.inboundOf k = some (n, b)) (sender : b.sender = source)

include entry sender

theorem State.slipWantsSlot_iff :
    s.slipWantsSlot k source i codes = true ↔
      b.complete = false ∧ i = b.expected ∧ codes.length = b.offer.rightCount i := by
  unfold State.slipWantsSlot
  rw [entry]
  simp [Option.filter, sender, and_assoc]

theorem State.acceptSlip_complete (complete : b.complete = true) :
    s.acceptSlip k source i codes free = if i < b.expected then (s, .repeated) else (s, .refuse) := by
  unfold State.acceptSlip
  rw [entry]
  simp [Option.filter, sender, complete]

theorem State.acceptSlip_lower (taken : b.complete = false) (lower : i < b.expected) :
    s.acceptSlip k source i codes free = (s.slipTaken n b.confirmed id, .repeated) := by
  unfold State.acceptSlip
  rw [entry]
  simp [Option.filter, sender, taken, lower, lower.ne]

theorem State.acceptSlip_higher (taken : b.complete = false) (higher : b.expected < i) :
    s.acceptSlip k source i codes free = (s, .refuse) := by
  unfold State.acceptSlip
  rw [entry]
  simp [Option.filter, sender, taken, higher.le, higher.ne']

section Expected

variable (taken : b.complete = false) (expected : i = b.expected)

include taken expected

theorem State.acceptSlip_miscounted (wrong : codes.length ≠ b.offer.rightCount i) :
    s.acceptSlip k source i codes free = (s.loseInbound n, .refuse) := by
  unfold State.acceptSlip
  rw [entry]
  simp [Option.filter, sender, taken, expected, expected ▸ wrong]

variable (right : codes.length = b.offer.rightCount i)

include right

theorem State.acceptSlip_full : s.acceptSlip k source i codes false = (s, .refuse) := by
  unfold State.acceptSlip
  rw [entry]
  simp [Option.filter, sender, taken, expected, expected ▸ right]

theorem State.acceptSlip_middle (more : i + 1 ≠ b.offer.slipTotal) :
    s.acceptSlip k source i codes true =
      (s.slipTaken n b.confirmed fun x => { x with expected := i + 1, running := crcCodes b.running codes },
        .store n b.pass) := by
  subst expected
  unfold State.acceptSlip
  rw [entry]
  simp [Option.filter, sender, taken, right, more]

variable (last : i + 1 = b.offer.slipTotal)

include last

theorem State.acceptSlip_final (check : crcCodes b.running codes = b.offer.storyCheck) :
    s.acceptSlip k source i codes true =
      (s.slipTaken n b.confirmed fun x =>
        { x with expected := x.offer.slipTotal, running := crcCodes b.running codes, complete := true, timer := false },
        .store n b.pass) := by
  subst expected
  unfold State.acceptSlip
  rw [entry]
  simp [Option.filter, sender, taken, right, last, check]

theorem State.acceptSlip_garbled (check : crcCodes b.running codes ≠ b.offer.storyCheck) :
    s.acceptSlip k source i codes true = (s.loseInbound n, .refuse) := by
  subst expected
  unfold State.acceptSlip
  rw [entry]
  simp [Option.filter, sender, taken, right, last, check]

end Expected

end Entry

/-- The final slip of a HELD story received from its sender comes again (R88). -/
def State.slipAgain (k : Key) (source i : Nat) (s : State) : Prop :=
  ∃ r x, s.story k = some r ∧ r.custody = .held ∧ r.receivedFrom = some x ∧ x.station = source ∧ i + 1 = x.slips

theorem State.acceptSlip_again (none_ : s.inboundOf k = none) (again : s.slipAgain k source i) :
    s.acceptSlip k source i codes free = (s, .repeated) := by
  obtain ⟨r, x, stands, held, received, station, slips⟩ := again
  unfold State.acceptSlip
  rw [none_]
  simp [stands, received, station, slips, Story.isHeld, held]

theorem State.acceptSlip_unknown (none_ : s.inboundOf k = none) (other : ¬s.slipAgain k source i) :
    s.acceptSlip k source i codes free = (s, .refuse) := by
  unfold State.acceptSlip
  rw [none_]
  refine if_neg fun again => other ?_
  obtain ⟨r, stands, held⟩ := (Option.any_eq_true _ _).mp again
  obtain ⟨isHeld, received⟩ := Bool.and_eq_true_iff.mp held
  obtain ⟨x, from_, slips⟩ := (Option.any_eq_true _ _).mp received
  simp only [Bool.and_eq_true, decide_eq_true_eq] at slips
  exact ⟨r, x, stands, by simpa [Story.isHeld] using isHeld, from_, slips⟩

theorem State.slipWantsSlot_none (none_ : s.inboundOf k = none) : s.slipWantsSlot k source i codes = false := by
  rw [State.slipWantsSlot, none_]
  rfl

end Accept

/-! ## A heard SLIP (R59) -/

section Slip

variable {s v : State} {f : Frame}

/-- The acceptance test of the SLIP `f`. -/
def State.slipTest (f : Frame) (s : State) : State × SlipAnswer :=
  s.acceptSlip (keyAt f.payload 0) f.source (twoAt f.payload 3) (f.payload.drop 5) s.traffic.slotFree

theorem State.receiveSlip_stores {n pass : Nat} (test : s.slipTest f = (v, .store n pass)) :
    s.receiveSlip f = (v.placeFrame .slip f (some { entry := n, pass := pass })).assert .taken := by
  unfold State.slipTest at test
  unfold State.receiveSlip
  simp only [test]

theorem State.receiveSlip_repeats (test : s.slipTest f = (v, .repeated)) : s.receiveSlip f = v.assert .taken := by
  unfold State.slipTest at test
  unfold State.receiveSlip
  simp only [test]

theorem State.receiveSlip_refuses (test : s.slipTest f = (v, .refuse))
    (counted : s.traffic.slots.length < 4 ∨
      s.slipWantsSlot (keyAt f.payload 0) f.source (twoAt f.payload 3) (f.payload.drop 5) = false) :
    s.receiveSlip f = v.assert .refused := by
  unfold State.slipTest at test
  unfold State.receiveSlip
  simp only [test]
  rw [if_neg (by rcases counted with room | no <;> simp [Traffic.slotFree, *])]

theorem State.receiveSlip_full (test : s.slipTest f = (v, .refuse)) (full : ¬s.traffic.slots.length < 4)
    (wants : s.slipWantsSlot (keyAt f.payload 0) f.source (twoAt f.payload 3) (f.payload.drop 5) = true) :
    s.receiveSlip f = v.countFull.assert .refused := by
  unfold State.slipTest at test
  unfold State.receiveSlip
  simp only [test]
  rw [if_pos (by simp [Traffic.slotFree, full, wants])]

end Slip

end Sys2Proof.Machine


namespace Sys2Proof.Machine

open Sys2Proof

/-! ## The end of a frame in reception (R30 to R36, R58, R62) -/

section Frames

variable {s : State} {f : Frame} {k : FrameKind} {body : List Bool} {cause : AbandonCause}

/-- A frame over, with the slot the station asserts, the receive slots and the counts given. -/
def State.frameOver (d : SlotDrive) (slots : List RxSlot) (counts : LineCounts) (s : State) : State :=
  { s with
      line := { s.line with receiving := false, slot := d, dominantRun := 0 },
      traffic := { s.traffic with slots := slots, counts := counts } }

def LineCounts.oneBad (c : LineCounts) : LineCounts := { c with checkFailures := min 65535 (c.checkFailures + 1) }

def LineCounts.oneGood (c : LineCounts) : LineCounts := { c with good := min 65535 (c.good + 1) }

def LineCounts.oneFull (c : LineCounts) : LineCounts := { c with refusedFull := min 65535 (c.refusedFull + 1) }

def LineCounts.oneUnknown (c : LineCounts) : LineCounts := { c with unknownKinds := min 65535 (c.unknownKinds + 1) }

section Idle

variable (idle : ¬(s.line.state.listens = true ∧ s.line.receiving = true))

include idle

theorem exec_frameEnd_idle : exec (.frameEnd body) s = .next s :=
  congrArg Host.Outcome.next (if_neg (by simpa using idle))

theorem exec_frameAbandoned_idle :
    exec (.frameAbandoned cause) s =
      .next (if cause = .missingLead then { s with line := { s.line with slot := .neither, dominantRun := 0 } } else s) :=
  congrArg Host.Outcome.next (if_neg (by simpa using idle))

end Idle

section Receives

variable (receives : s.line.state.listens = true ∧ s.line.receiving = true)

include receives

theorem exec_frameAbandoned :
    exec (.frameAbandoned cause) s =
      .next
        { s with
            line :=
              { (if cause = .missingLead then s.line.released else s.line) with receiving := false, slot := .neither },
            traffic := { s.traffic with counts := s.traffic.counts.oneBad } } := by
  refine congrArg Host.Outcome.next ((if_pos (by simpa using receives)).trans ?_)
  unfold LineCounts.oneBad
  rw [← bump16_eq]
  rfl

theorem exec_frameEnd_bad (reads : readBody body = some (f, false)) :
    exec (.frameEnd body) s = .next (s.frameOver .neither s.traffic.slots s.traffic.counts.oneBad) := by
  refine congrArg Host.Outcome.next ((if_pos (by simpa using receives)).trans ?_)
  rw [reads]
  unfold LineCounts.oneBad
  rw [← bump16_eq]
  rfl

theorem exec_frameEnd_good (reads : readBody body = some (f, true)) :
    exec (.frameEnd body) s =
      .next ((s.onLine fun l => { l.released with receiving := false, slot := .neither }).goodFrame f) := by
  refine congrArg Host.Outcome.next ((if_pos (by simpa using receives)).trans ?_)
  rw [reads]
  exact if_pos rfl

end Receives

/-- A frame is heard (R34). -/
theorem State.hears_iff :
    s.hears f = true ↔ (1 ≤ f.source ∧ f.source ≤ 30) ∧
      ((f.dest.form = .station ∧ f.dest.number = s.desk.station) ∨
        (f.dest.form = .role ∧ (f.dest.number = 15 ∨ f.dest.number ∈ s.listenRoles))) := by
  unfold State.hears
  cases f.dest.form <;> simp [within]

/-- The state in which a frame that passed its check is counted. -/
def State.passedCheck (s : State) : State := s.frameOver .neither s.traffic.slots s.traffic.counts.oneGood

/-- What a frame that passed its check does once it is counted. -/
theorem State.goodFrame_counted :
    (s.onLine fun l => { l.released with receiving := false, slot := .neither }).count
        (fun c => { c with good := bump16 c.good }) = s.passedCheck := by
  unfold State.passedCheck LineCounts.oneGood
  rw [← bump16_eq]
  rfl

section Good

variable (runs : exec (.frameEnd body) s =
  .next ((s.onLine fun l => { l.released with receiving := false, slot := .neither }).goodFrame f))

include runs

theorem exec_frameEnd_own (own : f.source = s.desk.station) :
    exec (.frameEnd body) s = .next (s.passedCheck.raise .sameNumber) := by
  rw [runs]
  unfold State.goodFrame
  dsimp only
  rw [State.goodFrame_counted]
  exact congrArg _ (if_pos own)

theorem exec_frameEnd_unheard (other : f.source ≠ s.desk.station) (unheard : s.hears f = false) :
    exec (.frameEnd body) s = .next s.passedCheck := by
  rw [runs]
  unfold State.goodFrame
  dsimp only
  rw [State.goodFrame_counted]
  exact congrArg _ ((if_neg other).trans (if_pos (by rw [show s.passedCheck.hears f = false from unheard]; rfl)))

variable (other : f.source ≠ s.desk.station) (heard : s.hears f = true)

include other heard

theorem exec_frameEnd_unknown (kind : f.receiving = none) :
    exec (.frameEnd body) s = .next (s.frameOver .neither s.traffic.slots s.traffic.counts.oneGood.oneUnknown) := by
  rw [runs]
  unfold State.goodFrame
  dsimp only
  rw [State.goodFrame_counted, kind]
  refine congrArg _ ((if_neg other).trans ((if_neg (by rw [show s.passedCheck.hears f = true from heard]; decide)).trans ?_))
  unfold LineCounts.oneUnknown
  rw [← bump16_eq]
  rfl

theorem exec_frameEnd_plain (kind : f.receiving = some k) (plain : k ≠ .slip) :
    exec (.frameEnd body) s = .next (s.passedCheck.receiveFrame k f) := by
  rw [runs]
  unfold State.goodFrame
  dsimp only
  rw [State.goodFrame_counted, kind]
  refine congrArg _ ((if_neg other).trans ((if_neg (by rw [show s.passedCheck.hears f = true from heard]; decide)).trans ?_))
  generalize s.passedCheck = u
  cases k
  case slip => exact absurd rfl plain
  all_goals rfl

theorem exec_frameEnd_slip (kind : f.receiving = some .slip) :
    exec (.frameEnd body) s = .next (s.passedCheck.receiveSlip f).settle := by
  rw [runs]
  unfold State.goodFrame
  dsimp only
  rw [State.goodFrame_counted, kind]
  exact congrArg _ ((if_neg other).trans (if_neg (by rw [show s.passedCheck.hears f = true from heard]; decide)))

end Good

/-- The slot of a received frame (R58). -/
def Frame.placed (k : FrameKind) (f : Frame) (r : Option InboundRef) : RxSlot :=
  { kind := k, source := f.source, dest := f.dest, payload := f.payload, inbound := r, handed := false }

theorem State.receiveFrame_free (free : s.traffic.slots.length < 4) :
    s.passedCheck.receiveFrame k f =
      s.frameOver .taken (s.traffic.slots ++ [f.placed k none]) s.traffic.counts.oneGood :=
  if_pos (decide_eq_true free)

theorem State.receiveFrame_full (full : ¬s.traffic.slots.length < 4) :
    s.passedCheck.receiveFrame k f = s.frameOver .refused s.traffic.slots s.traffic.counts.oneGood.oneFull := by
  refine (if_neg fun free => full (of_decide_eq_true free)).trans ?_
  unfold LineCounts.oneFull
  rw [← bump16_eq]
  rfl

/-- A frame from this station's own number (R35). -/
theorem State.sameNumber_raised :
    ∃ t, s.passedCheck.raise .sameNumber = t ∧
      t = { s.frameOver .neither s.traffic.slots s.traffic.counts.oneGood with desk := t.desk } ∧
      onlyNotices s t ∧ t.desk.latched .sameNumber = true ∧
      ∀ n : Notice, n ≠ .sameNumber → t.desk.latched n = s.desk.latched n := by
  refine ⟨_, rfl, ?_, (State.raise_rest .sameNumber s.passedCheck).2.2.2.2.2.2.2.2.2,
    State.raise_latched _ _, fun n other => State.raise_latched_of_ne other _⟩
  rw [State.raise_eq]
  rfl

end Frames

/-! ## A heard SLIP, case by case (R59, R88) -/

section Slips

variable {s : State} {f : Frame} {n : Nat} {b : Inbound}

/-- Entry `n`, which held `old`, holds `b`; its TAKE is withdrawn unless it was confirmed. -/
def State.entryChanged (n : Nat) (b old : Inbound) (s u : State) : State :=
  { u with
      pass := { s.pass with inbound := s.pass.inbound.set n (some b) },
      traffic :=
        { u.traffic with
            queue := if old.confirmed then s.traffic.queue else (s.traffic.withdraw (.take n)).queue } }

theorem State.slipTest_free (free : s.traffic.slots.length < 4) :
    s.passedCheck.slipTest f =
      s.passedCheck.acceptSlip (keyAt f.payload 0) f.source (twoAt f.payload 3) (f.payload.drop 5) true := by
  rw [State.slipTest, show s.passedCheck.traffic.slotFree = true from decide_eq_true free]

section Entry

variable (here : s.pass.inbound[n]? = some (some b)) (entry : s.inboundOf (keyAt f.payload 0) = some (n, b))
  (sender : b.sender = f.source)

include here entry sender

theorem State.receiveSlip_lower (lower : twoAt f.payload 3 < b.expected) :
    s.passedCheck.receiveSlip f =
      if b.complete then s.frameOver .taken s.traffic.slots s.traffic.counts.oneGood
      else s.entryChanged n { b with confirmed := true, timer := true } b
        (s.frameOver .taken s.traffic.slots s.traffic.counts.oneGood) := by
  by_cases complete : b.complete = true
  · rw [if_pos complete]
    refine (State.receiveSlip_repeats (v := s.passedCheck) ?_).trans rfl
    exact (State.acceptSlip_complete (s := s.passedCheck) entry sender complete).trans (if_pos lower)
  · rw [if_neg complete]
    have taken := Bool.not_eq_true _ ▸ complete
    rw [State.receiveSlip_repeats (State.acceptSlip_lower (s := s.passedCheck) entry sender taken lower),
      State.slipTaken_eq (s := s.passedCheck) here]
    rfl

omit here in
theorem State.receiveSlip_higher (reached : b.expected ≤ twoAt f.payload 3)
    (none_ : b.complete = true ∨ b.expected < twoAt f.payload 3) :
    s.passedCheck.receiveSlip f = s.frameOver .refused s.traffic.slots s.traffic.counts.oneGood := by
  have unwanted : s.passedCheck.slipWantsSlot (keyAt f.payload 0) f.source (twoAt f.payload 3) (f.payload.drop 5) = false := by
    refine Bool.eq_false_iff.mpr fun wants => ?_
    obtain ⟨taken, expected, _⟩ := (State.slipWantsSlot_iff (s := s.passedCheck) entry sender).mp wants
    rcases none_ with complete | higher
    · rw [taken] at complete
      cases complete
    · omega
  refine (State.receiveSlip_refuses (v := s.passedCheck) ?_ (.inr unwanted)).trans rfl
  cases complete : b.complete with
  | true => exact (State.acceptSlip_complete (s := s.passedCheck) entry sender complete).trans (if_neg (by omega))
  | false =>
    refine State.acceptSlip_higher (s := s.passedCheck) entry sender complete ?_
    rcases none_ with all | higher
    · rw [complete] at all
      cases all
    · exact higher

section Expected

variable (taken : b.complete = false) (expected : twoAt f.payload 3 = b.expected)

include taken expected

section Right

variable (right : (f.payload.drop 5).length = b.offer.rightCount (twoAt f.payload 3))

include right

omit here in
theorem State.receiveSlip_noRoom (full : ¬s.traffic.slots.length < 4) :
    s.passedCheck.receiveSlip f = s.frameOver .refused s.traffic.slots s.traffic.counts.oneGood.oneFull := by
  have noSlot : s.passedCheck.traffic.slotFree = false := decide_eq_false full
  have test : s.passedCheck.slipTest f = (s.passedCheck, .refuse) := by
    rw [State.slipTest, noSlot]
    exact State.acceptSlip_full (s := s.passedCheck) entry sender taken expected right
  rw [State.receiveSlip_full test full ((State.slipWantsSlot_iff (s := s.passedCheck) entry sender).mpr ⟨taken, expected, right⟩)]
  unfold LineCounts.oneFull
  rw [← bump16_eq]
  rfl

variable (free : s.traffic.slots.length < 4)

include free

theorem State.receiveSlip_middle (more : twoAt f.payload 3 + 1 ≠ b.offer.slipTotal) :
    s.passedCheck.receiveSlip f =
      s.entryChanged n
        { b with
            confirmed := true, timer := true, expected := twoAt f.payload 3 + 1,
            running := crcCodes b.running (f.payload.drop 5) } b
        (s.frameOver .taken (s.traffic.slots ++ [f.placed .slip (some { entry := n, pass := b.pass })])
          s.traffic.counts.oneGood) := by
  have test := (State.slipTest_free free).trans (State.acceptSlip_middle (s := s.passedCheck) entry sender taken expected right more)
  rw [State.receiveSlip_stores test, State.slipTaken_eq (s := s.passedCheck) here]
  rfl

theorem State.receiveSlip_final (last : twoAt f.payload 3 + 1 = b.offer.slipTotal)
    (check : crcCodes b.running (f.payload.drop 5) = b.offer.storyCheck) :
    s.passedCheck.receiveSlip f =
      s.entryChanged n
        { b with
            confirmed := true, timer := false, expected := twoAt f.payload 3 + 1,
            running := crcCodes b.running (f.payload.drop 5), complete := true } b
        (s.frameOver .taken (s.traffic.slots ++ [f.placed .slip (some { entry := n, pass := b.pass })])
          s.traffic.counts.oneGood) := by
  have test := (State.slipTest_free free).trans (State.acceptSlip_final (s := s.passedCheck) entry sender taken expected right last check)
  rw [State.receiveSlip_stores test, State.slipTaken_eq (s := s.passedCheck) here, last]
  rfl

end Right

omit here in
/-- A slip that is wrong loses its entry. -/
theorem State.receiveSlip_wrong
    (wrong : (f.payload.drop 5).length ≠ b.offer.rightCount (twoAt f.payload 3) ∨
      (s.traffic.slots.length < 4 ∧ twoAt f.payload 3 + 1 = b.offer.slipTotal ∧
        crcCodes b.running (f.payload.drop 5) ≠ b.offer.storyCheck)) :
    s.passedCheck.receiveSlip f = (s.passedCheck.loseInbound n).assert .refused := by
  by_cases right : (f.payload.drop 5).length = b.offer.rightCount (twoAt f.payload 3)
  · obtain ⟨free, last, check⟩ := wrong.resolve_left (not_not.mpr right)
    have test := (State.slipTest_free free).trans (State.acceptSlip_garbled (s := s.passedCheck) entry sender taken expected right last check)
    exact State.receiveSlip_refuses test (.inl free)
  · refine State.receiveSlip_refuses (State.acceptSlip_miscounted (s := s.passedCheck) entry sender taken expected right)
      (.inr (Bool.eq_false_iff.mpr fun wants => right ?_))
    exact ((State.slipWantsSlot_iff (s := s.passedCheck) entry sender).mp wants).2.2

end Expected

end Entry

/-- A SLIP of a key without an inbound entry. -/
theorem State.receiveSlip_noEntry (none_ : s.inboundOf (keyAt f.payload 0) = none) :
    (s.slipAgain (keyAt f.payload 0) f.source (twoAt f.payload 3) →
      s.passedCheck.receiveSlip f = s.frameOver .taken s.traffic.slots s.traffic.counts.oneGood) ∧
    (¬s.slipAgain (keyAt f.payload 0) f.source (twoAt f.payload 3) →
      s.passedCheck.receiveSlip f = s.frameOver .refused s.traffic.slots s.traffic.counts.oneGood) :=
  ⟨fun again => (State.receiveSlip_repeats (State.acceptSlip_again (s := s.passedCheck) none_ again)).trans rfl,
    fun other => (State.receiveSlip_refuses (State.acceptSlip_unknown (s := s.passedCheck) none_ other)
      (.inr (State.slipWantsSlot_none none_))).trans rfl⟩

/-- An entry lost by its slip: the line asserts, the entry is free, the notice is raised. -/
theorem State.slip_loses (here : s.pass.inbound[n]? = some (some b)) :
    ∃ t, ((s.passedCheck.loseInbound n).assert .refused).settle = t ∧
      t.line = { s.line with receiving := false, slot := .refused, dominantRun := 0 } ∧
      t.pass.inbound[n]? = some none ∧ t.desk.latched .inboundLost = true ∧
      t.traffic.counts = s.traffic.counts.oneGood := by
  obtain ⟨_, counts, free, latched⟩ := State.loseInbound_lost (s := s.passedCheck) here
  have line : (s.passedCheck.loseInbound n).line = s.passedCheck.line := by
    unfold State.loseInbound
    rw [State.raise_line, State.freeInbound_eq (s := s.passedCheck) here, State.dropSlipWrite_rest]
    rfl
  have follows := State.settle_follows ((s.passedCheck.loseInbound n).assert .refused)
  refine ⟨_, rfl, follows.line.trans ?_, ?_, follows.notices _ latched, follows.counts.trans counts⟩
  · exact congrArg (fun l : Line => { l with slot := .refused }) line
  · rw [follows.pass]
    exact free

end Slips

section Settled

variable {s : State} {f : Frame} {body : List Bool}

/-- Every case of a heard SLIP, with what follows at once. -/
theorem exec_frameEnd_slips (runs : exec (.frameEnd body) s = .next (s.passedCheck.receiveSlip f).settle) {u : State}
    (is : s.passedCheck.receiveSlip f = u) : ∃ t, exec (.frameEnd body) s = .next t ∧ SettleFollows u t := by
  refine ⟨_, runs, ?_⟩
  rw [is]
  exact State.settle_follows u

end Settled

/-- Settles O59. -/
theorem framesReceived : Obligations.FramesReceived := by
  unfold Obligations.FramesReceived
  intro s listens receives c line bad
  have hears : receives ↔ s.line.state.listens = true ∧ s.line.receiving = true :=
    and_congr_left' LineState.listens_iff.symm
  refine ⟨fun idle => ?_, fun receiving => ?_⟩
  · have idle := fun h => idle (hears.mpr h)
    exact ⟨fun body => exec_frameEnd_idle idle, fun cause other => (exec_frameAbandoned_idle idle).trans (by rw [if_neg other]),
      (exec_frameAbandoned_idle idle).trans (by rw [if_pos rfl])⟩
  have receiving := hears.mp receiving
  refine ⟨exec_frameAbandoned receiving, fun cause other => ?_, fun body f => ⟨exec_frameEnd_bad receiving, fun reads => ?_⟩⟩
  · rw [exec_frameAbandoned receiving, if_neg other]
    rfl
  have runs := exec_frameEnd_good receiving reads
  intro good full now heard placed free leads
  refine ⟨fun own => ?_, fun other unheard => ?_, fun hear => ?_⟩
  · obtain ⟨t, is, rest⟩ := State.sameNumber_raised (s := s)
    exact ⟨t, (exec_frameEnd_own runs own).trans (congrArg _ is), rest⟩
  · refine exec_frameEnd_unheard runs other (Bool.eq_false_iff.mpr fun hear => unheard ?_)
    obtain ⟨⟨low, high⟩, dest⟩ := State.hears_iff.mp hear
    exact ⟨other, low, high, dest⟩
  obtain ⟨other, low, high, dest⟩ := hear
  have hear := State.hears_iff.mpr ⟨⟨low, high⟩, dest⟩
  refine ⟨exec_frameEnd_unknown runs other hear, fun k kind plain => ⟨fun room => ?_, fun noRoom => ?_⟩, fun kind => ?_⟩
  · exact (exec_frameEnd_plain runs other hear kind plain).trans (congrArg _ (State.receiveFrame_free room))
  · exact (exec_frameEnd_plain runs other hear kind plain).trans (congrArg _ (State.receiveFrame_full noRoom))
  have runs := exec_frameEnd_slip runs other hear kind
  intro key i codes entry follows changed
  have led : ∀ {u}, s.passedCheck.receiveSlip f = u → follows u := exec_frameEnd_slips runs
  have found : ∀ {n b}, entry n b → s.inboundOf key = some (n, b) := fun ⟨here, same, _, first⟩ =>
    State.inboundOf_of here same first
  refine ⟨fun n b is taken expected => ?_, fun n b is lower => led ?_, fun n b is reached none_ => led ?_, fun none_ => ?_⟩
  · have found := found is
    obtain ⟨here, _, sender, _⟩ := is
    intro right running next stored
    refine ⟨fun right noRoom => led ?_, fun right room more => led ?_, fun right room last check => led ?_, fun wrong => ?_⟩
    · exact State.receiveSlip_noRoom found sender taken expected right noRoom
    · exact State.receiveSlip_middle here found sender taken expected right room more
    · exact State.receiveSlip_final here found sender taken expected right room last check
    · obtain ⟨t, is', rest⟩ := State.slip_loses (s := s) here
      refine ⟨t, ?_, rest⟩
      rw [← is', ← State.receiveSlip_wrong found sender taken expected wrong]
      exact runs
  · exact State.receiveSlip_lower is.1 (found is) is.2.2.1 lower
  · exact State.receiveSlip_higher (found is) is.2.2.1 reached none_
  · have absent := State.inboundOf_eq_none none_
    exact ⟨fun again => led ((State.receiveSlip_noEntry absent).1 again),
      fun other => led ((State.receiveSlip_noEntry absent).2 other)⟩

end Sys2Proof.Machine


namespace Sys2Proof.Machine

open Sys2Proof

/-! ## A line section state told (R42, R48) -/

section Told

variable {s t u : State} {l : Line} {counts : LineCounts} {st : LineState}

/-- The state with its line section and line counts given. -/
def State.lineAt (l : Line) (counts : LineCounts) (s : State) : State :=
  { s with line := l, traffic := { s.traffic with counts := counts } }

/-- From `s` the line section has come to `l`, and has told its state where `tells` says so; else windows and the
notices with what they drive may differ. -/
structure LineTold (tells : Bool) (l : Line) (counts : LineCounts) (s t : State) : Prop where
  only : OnlyScreen { s.lineAt l counts with screen := { s.screen with status := t.screen.status } } t
  windows : sameWindows s t
  flash : t.screen.flash = s.screen.flash
  status : t.screen.status = if tells then { s.screen.status with line := l.state } else s.screen.status
  inputs : t.desk.inputs = if tells then { s.desk.inputs with line := l.state } else s.desk.inputs
  desk : t.desk =
    { s.desk with
        notices := t.desk.notices, attention := t.desk.attention, lamp := t.desk.lamp, lit := t.desk.lit,
        inputs := t.desk.inputs }

/-- A line section that tells nothing. -/
theorem LineTold.quiet (l : Line) (counts : LineCounts) (s : State) : LineTold false l counts s (s.lineAt l counts) where
  only := OnlyScreen.refl _
  windows := rfl
  flash := rfl
  status := rfl
  inputs := rfl
  desk := rfl

theorem LineTold.raise {tells : Bool} (h : LineTold tells l counts s t) (n : Notice) :
    LineTold tells l counts s (t.raise n) := by
  obtain ⟨store, port, line, traffic, pass, fit, page, clock, screen, desk⟩ := State.raise_rest n t
  have only := OnlyScreen.onDesk (fun d => Desk.refresh { d with notices := d.notices ||| BitVec.ofNat 18 (2 ^ n.bit) }) t
  have kept := congrArg Desk.inputs desk
  exact {
    only := by
      rw [screen]
      exact h.only.trans only
    windows := (congrArg (fun c : Screen => c.windows.map Window.shown) screen).trans h.windows
    flash := (congrArg Screen.flash screen).trans h.flash
    status := (congrArg Screen.status screen).trans h.status
    inputs := kept.trans h.inputs
    desk := by
      unfold onlyNotices at desk
      rw [h.desk] at desk
      rw [kept]
      exact desk }

theorem LineTold.settleRows {tells : Bool} (h : LineTold tells l counts s t) : LineTold tells l counts s t.settleRows := by
  have rows := State.settleRows_follows t
  generalize t.settleRows = u at *
  exact {
    only := by
      rw [rows.status]
      exact h.only.trans rows.onlyScreen
    windows := Eq.trans rows.windows h.windows
    flash := rows.flash.trans h.flash
    status := rows.status.trans h.status
    inputs := rows.desk ▸ h.inputs
    desk := rows.desk ▸ h.desk }

theorem State.settleRows_notices (s : State) : s.settleRows.desk.notices = s.desk.notices :=
  congrArg Desk.notices (State.settleRows_follows s).desk

/-- A state entered and told (R48). -/
theorem State.tellLine_told (h : l.state = st) :
    LineTold true l counts s ((s.lineAt l counts).tellLine st) ∧
      ((s.lineAt l counts).tellLine st).desk.notices = s.desk.notices := by
  subst h
  have desk := State.tellLine_desk (s.lineAt l counts) l.state
  have status : ((s.lineAt l counts).tellLine l.state).screen.status = { s.screen.status with line := l.state } :=
    ((OnlyScreen.refl (s.lineAt l counts)).tellLine l.state).status
  refine ⟨?_, by rw [desk, Desk.refresh_notices]; rfl⟩
  exact {
    only := by
      rw [status]
      exact (OnlyScreen.refl (s.lineAt l counts)).tellLine l.state
    windows := State.tellStatus_sameWindows _ (s.lineAt l counts)
    flash := State.tellLine_flash _ _
    status := status
    inputs := by rw [desk, Desk.refresh_inputs]; rfl
    desk := by
      obtain ⟨attention, lamp, lit, outputs⟩ :=
        Desk.refresh_outputs { (s.lineAt l counts).desk with inputs := { (s.lineAt l counts).desk.inputs with line := l.state } }
      rw [desk, outputs]
      rfl }

/-- The line section enters a state (R48). -/
theorem State.enterLine_told (line : Line) (st : LineState) (counts : LineCounts) (s : State) :
    LineTold (decide (line.state ≠ st)) { line with state := st } counts s ((s.lineAt line counts).enterLine st) ∧
      ((s.lineAt line counts).enterLine st).desk.notices = s.desk.notices := by
  unfold State.enterLine
  by_cases same : line.state = st
  · have quiet : ((s.lineAt line counts).line.state = st) := same
    rw [decide_eq_false (not_not.mpr same)]
    dsimp only
    rw [if_pos quiet]
    exact ⟨LineTold.quiet { line with state := st } counts s, rfl⟩
  · have differs : ¬(s.lineAt line counts).line.state = st := same
    rw [decide_eq_true (p := line.state ≠ st) same]
    dsimp only
    rw [if_neg differs]
    exact State.tellLine_told (l := { line with state := st }) rfl

end Told

/-! ## Stuck lines, their release, joining and LINE RETRY (R41, R44, R46) -/

section Moves

variable {s : State} {dominant recessive : Nat} {st : LineState}

/-- What a stuck line leaves. -/
theorem exec_stuckLine_enters (listens : s.line.state.listens = true) (idle : s.traffic.sending = false) (long : 64 < dominant) :
    exec (.stuckLine dominant) s =
      .next (((s.lineAt { s.line with
          quiet := 0, join := 0, recessive := 0, dominantRun := 0, recorded := some s.line.state, receiving := false,
          slot := .neither }
        (if s.line.receiving = true then s.traffic.counts.oneBad else s.traffic.counts)).enterLine .stuck).raise
          .lineFault).settleRows := by
  have seen : ¬decide (dominantLevel dominant = .notSeen) = true := by
    rw [decide_eq_true_eq, dominantLevel_notSeen_iff]
    omega
  have notStuck : s.line.state ≠ .stuck := fun stuck => by
    rw [stuck] at listens
    cases listens
  refine congrArg Host.Outcome.next ?_
  refine (if_neg seen).trans ((if_neg notStuck).trans ((if_neg (by simp [listens])).trans ((if_pos ?_).trans
    ((if_neg (by simp [idle])).trans ?_))))
  · rw [decide_eq_true_eq, dominantLevel_stuck_iff]
    exact long
  · have counted : (if s.line.receiving then s.count fun c => { c with checkFailures := bump16 c.checkFailures } else s) =
        s.lineAt s.line (if s.line.receiving = true then s.traffic.counts.oneBad else s.traffic.counts) := by
      unfold LineCounts.oneBad
      rw [← bump16_eq]
      split <;> rfl
    rw [counted]
    rfl

theorem exec_stuckLine_ignored
    (ignored : dominant = 0 ∨ s.line.state = .dormant ∨ (s.line.state.listens = true ∧ s.traffic.sending = true ∧ 64 < dominant)) :
    exec (.stuckLine dominant) s = .next s := by
  refine congrArg Host.Outcome.next ?_
  by_cases unseen : dominantLevel dominant = .notSeen
  · exact if_pos (decide_eq_true unseen)
  have seen := mt (dominantLevel_notSeen_iff dominant).mpr unseen
  refine (if_neg (by simpa using unseen)).trans ?_
  rcases ignored.resolve_left seen with dormant | ⟨listens, sending, long⟩
  · refine (if_neg (by rw [dormant]; exact nofun)).trans (if_pos (by rw [dormant]; rfl))
  · have notStuck : s.line.state ≠ .stuck := fun stuck => by
      rw [stuck] at listens
      cases listens
    exact (if_neg notStuck).trans ((if_neg (by simp [listens])).trans
      ((if_pos (decide_eq_true ((dominantLevel_stuck_iff dominant).mpr long))).trans (if_pos sending)))

theorem exec_stuckLine_inStuck (stuck : s.line.state = .stuck) (seen : 1 ≤ dominant) :
    exec (.stuckLine dominant) s = .next { s with line := { s.line with quiet := 0, join := 0, recessive := 0 } } :=
  congrArg Host.Outcome.next ((if_neg (by rw [decide_eq_true_eq, dominantLevel_notSeen_iff]; omega)).trans (if_pos stuck))

theorem exec_stuckLine_short (listens : s.line.state.listens = true) (seen : 1 ≤ dominant) (short : dominant ≤ 64) :
    exec (.stuckLine dominant) s =
      .next { s with line := { s.line with quiet := 0, join := 0, recessive := 0, dominantRun := dominant } } := by
  have notStuck : s.line.state ≠ .stuck := fun stuck => by
    rw [stuck] at listens
    cases listens
  refine congrArg Host.Outcome.next ((if_neg ?_).trans ((if_neg notStuck).trans ((if_neg (by simp [listens])).trans (if_neg ?_))))
  · rw [decide_eq_true_eq, dominantLevel_notSeen_iff]
    omega
  · rw [decide_eq_true_eq, dominantLevel_stuck_iff]
    omega

theorem exec_stuckRelease_returns (stuck : s.line.state = .stuck) (reached : 16 ≤ max s.line.recessive recessive)
    (recorded : s.line.recorded = some st) :
    exec (.stuckRelease recessive) s =
      .next ((s.lineAt { s.line with
          dominantRun := 0, recorded := none, recessive := 0, join := 0, quiet := if st = .active then 16 else 0 }
        s.traffic.counts).enterLine st).settleRows := by
  refine congrArg Host.Outcome.next ((if_pos stuck).trans ((if_pos reached).trans ?_))
  rw [recorded]
  rfl

theorem exec_stuckRelease_kept (stuck : s.line.state = .stuck) (below : max s.line.recessive recessive < 16) :
    exec (.stuckRelease recessive) s =
      .next { s with line := { s.line with recessive := max s.line.recessive recessive, dominantRun := 0 } } :=
  congrArg Host.Outcome.next ((if_pos stuck).trans (if_neg (by omega)))

theorem exec_stuckRelease_other (other : s.line.state ≠ .stuck) : exec (.stuckRelease recessive) s = .next s :=
  congrArg Host.Outcome.next (if_neg other)

/-- The line of a part that waits to join, recessive for `recessive` bit periods. -/
def Line.joinFor (recessive : Nat) (l : Line) : Line :=
  { l with
      join := max l.join recessive, quiet := max l.quiet recessive, dominantRun := 0,
      slot := if 2 ≤ max l.quiet recessive then .neither else l.slot }

theorem exec_joinComplete_other (other : ¬(s.line.state = .joining ∧ s.line.receiving = false)) :
    exec (.joinComplete recessive) s = .next s :=
  congrArg Host.Outcome.next (if_neg (by simpa using other))

theorem exec_joinComplete_kept (counts : s.line.state = .joining ∧ s.line.receiving = false)
    (below : max s.line.join recessive < 24) :
    exec (.joinComplete recessive) s = .next { s with line := s.line.joinFor recessive } := by
  refine congrArg Host.Outcome.next ((if_pos (by simpa using counts)).trans (if_neg ?_))
  show ¬24 ≤ max s.line.join recessive
  omega

theorem exec_joinComplete_enters (counts : s.line.state = .joining ∧ s.line.receiving = false)
    (reached : 24 ≤ max s.line.join recessive) :
    exec (.joinComplete recessive) s =
      .next ((s.lineAt { s.line.joinFor recessive with join := 0, quiet := 24 } s.traffic.counts).enterLine
        .active).settleRows :=
  congrArg Host.Outcome.next ((if_pos (by simpa using counts)).trans (if_pos reached))

end Moves

end Sys2Proof.Machine


namespace Sys2Proof.Machine

open Sys2Proof

/-! ## What a failed frame's owner leaves alone (R54, R69, R75, R80, R132, R174) -/

/-- From `s` to `t` the owner of a failed frame may have changed its own records, the store's but for its text, the
page engine, the fits, the port, the queue and the notices; the receive slots stand where `slotsKept`. -/
structure OwnerActs (slotsKept : Prop) (s t : State) : Prop where
  line : t.line = s.line
  clock : t.clock = s.clock
  counts : t.traffic.counts = s.traffic.counts
  text : t.store.text = s.store.text
  slots : slotsKept → t.traffic.slots = s.traffic.slots
  desk : t.desk =
    { s.desk with
        notices := t.desk.notices, attention := t.desk.attention, lamp := t.desk.lamp, lit := t.desk.lit,
        inputs := t.desk.inputs }
  inputs : t.desk.inputs.line = s.desk.inputs.line
  notices : ∀ n, s.desk.latched n = true → t.desk.latched n = true
  windows : sameWindows s t
  lanes : t.screen.lanes = s.screen.lanes
  timer : t.screen.timer = s.screen.timer
  flash : t.screen.flash = s.screen.flash
  status : t.screen.status = s.screen.status

namespace OwnerActs

variable {P : Prop} {s t u : State}

theorem refl (s : State) : OwnerActs P s s where
  line := rfl
  clock := rfl
  counts := rfl
  text := rfl
  slots := fun _ => rfl
  desk := rfl
  inputs := rfl
  notices := fun _ h => h
  windows := rfl
  lanes := rfl
  timer := rfl
  flash := rfl
  status := rfl

theorem trans (h : OwnerActs P s t) (k : OwnerActs P t u) : OwnerActs P s u where
  line := k.line.trans h.line
  clock := k.clock.trans h.clock
  counts := k.counts.trans h.counts
  text := k.text.trans h.text
  slots := fun kept => (k.slots kept).trans (h.slots kept)
  desk := by
    have first := h.desk
    have second := k.desk
    rw [first] at second
    exact second
  inputs := k.inputs.trans h.inputs
  notices := fun n latched => k.notices n (h.notices n latched)
  windows := Eq.trans k.windows h.windows
  lanes := k.lanes.trans h.lanes
  timer := k.timer.trans h.timer
  flash := k.flash.trans h.flash
  status := k.status.trans h.status

theorem ofFollows (h : SettleFollows s t) : OwnerActs P s t where
  line := h.line
  clock := h.clock
  counts := h.counts
  text := by rw [h.storeRest]
  slots := fun _ => h.slots
  desk := by
    have rest := h.deskRest
    have inputs := congrArg Desk.inputs rest
    rw [inputs]
    exact rest
  inputs := by rw [h.deskRest]
  notices := h.notices
  windows := h.windows
  lanes := h.lanes
  timer := h.timer
  flash := h.flash
  status := h.status

theorem ite {c : Prop} [Decidable c] (h : OwnerActs P s t) (k : OwnerActs P s u) : OwnerActs P s (if c then t else u) := by
  split
  · exact h
  · exact k

theorem onPass (f : PassEngine → PassEngine) (s : State) : OwnerActs P s (s.onPass f) := { refl s with }

theorem onPage (f : PageEngine → PageEngine) (s : State) : OwnerActs P s (s.onPage f) := { refl s with }

theorem onFit (f : FitEngine → FitEngine) (s : State) : OwnerActs P s (s.onFit f) := { refl s with }

theorem onPort (f : Port → Port) (s : State) : OwnerActs P s (s.onPort f) := { refl s with }

theorem change (k : Key) (f : Story → Story) (s : State) : OwnerActs P s (s.onStore (Store.change k f)) := { refl s with }

theorem withdraw (o : Owner) (s : State) : OwnerActs P s (s.withdraw o) := { refl s with }

theorem raise (n : Notice) (s : State) : OwnerActs P s (s.raise n) := ofFollows (SettleFollows.raise n s)

theorem send (o : Owner) (f : OutFrame) (s : State) : OwnerActs P s (s.send o f) := by
  unfold State.send
  split
  · exact { refl s with }
  · exact refl s

theorem tellPlanned (f : LampInputs → LampInputs) (line : ∀ i, (f i).line = i.line) (s : State) :
    OwnerActs P s (s.tellDesk f) := by
  obtain ⟨attention, lamp, lit, told⟩ := State.tellDesk_told f s
  rw [told]
  exact { refl s with desk := rfl, inputs := line _ }

theorem endPass (n : Nat) (o : PassOutcome) (s : State) : OwnerActs P s (s.endPass n o) := by
  have rest : OwnerActs P s
      ((((s.onOutbound n fun p =>
        { p with phase := .ended, outcome := some o, endOrder := s.pass.nextEnd, timer := false, reading := none,
                 ready := none }).onPass fun e => { e with nextEnd := e.nextEnd + 1 }).onPort
        (Port.abandon (Purpose.ofOutbound n))).withdraw (.passEntry n)) :=
    (((onPass _ s).trans (onPass _ _)).trans (onPort _ _)).trans (withdraw _ _)
  unfold State.endPass
  dsimp only
  split
  · exact rest
  · exact rest.trans (raise _ _)

theorem stopTransfer (reason : DropReason) (p : Plan) (s : State) : OwnerActs P s (s.stopTransfer reason p) := by
  unfold State.stopTransfer
  dsimp only
  split
  · have first := ((onPort (P := P) (Port.abandon Purpose.isPage) s).trans (withdraw .page _)).trans (onPage
      (fun e => { e with transfer := { Transfer.clear with drop := some reason }, ready := none }) _)
    split
    · exact first.trans (send _ _ _)
    · exact first.trans (onPage _ _)
  · exact (onPort _ s).trans (onPage _ _)

theorem endTransfer (o : PlanState) (p : Plan) (s : State) : OwnerActs P s (s.endTransfer o p) := by
  unfold State.endTransfer
  split
  · exact stopTransfer _ p s
  · exact onPage _ s

theorem releaseLocks (l : List Placement) (s : State) : OwnerActs P s (l.foldl (fun s q => s.releaseLock q.key) s) :=
  ofFollows (SettleFollows.foldl (fun s q => SettleFollows.releaseLock q.key s) l s)

theorem endPlan (slot : Nat) (o : PlanState) (s : State) : OwnerActs P s (s.endPlan slot o) := by
  unfold State.endPlan
  split
  · exact refl s
  next p _ =>
  dsimp only
  have ended : OwnerActs P s (s.onPlan slot fun p => { p with state := o }) := onPage _ s
  have locks := ite (c := p.state.underWay = true) (ended.trans (releaseLocks p.placements _)) ended
  have fits := ite (c := p.state = .fitting) ((locks.trans (onFit FitEngine.withdrawPage _)).trans
    (onPage (fun e => { e with requests := [], outstanding := [] }) _)) locks
  have transfer := ite (c := p.state = .sending) (fits.trans (endTransfer o p _)) fits
  have order := transfer.trans (onPage (fun e => { e with sendOrder := e.sendOrder.filter (· ≠ slot) }) _)
  have planned := ite (c := p.state = .planned) (order.trans
    (tellPlanned (fun i => { i with planned := i.planned.modify (p.edition - 1) (· - 1) }) (fun _ => rfl) _)) order
  cases o.notice with
  | none => exact planned
  | some m => exact planned.trans (raise m _)

theorem passFrame (n : Nat) (f : OutFrame) (s : State) : OwnerActs P s (s.passFrame n f) := by
  unfold State.passFrame
  split
  · exact (send _ _ s).trans (onPass _ _)
  · exact onPass _ s

theorem sendReady (n : Nat) (s : State) : OwnerActs P s (s.sendReady n) := by
  unfold State.sendReady
  repeat' split
  · exact passFrame n _ s
  · exact refl s
  · exact refl s

theorem offerFailed (n : Nat) (p : Pass) (c : Cause) (s : State) : OwnerActs P s (s.offerTold n p (.failed c)) := by
  unfold State.offerTold
  cases c
  case partly => exact onPass _ s
  all_goals exact (endPass n _ s).trans (change _ _ _)

theorem slipFailed (n : Nat) (p : Pass) (c : Cause) (s : State) : OwnerActs P s (s.slipTold n p (.failed c)) := by
  unfold State.slipTold
  dsimp only
  split
  all_goals exact (endPass n _ s).trans (change _ _ _)

theorem passFailed (n : Nat) (kind : FrameKind) (c : Cause) (s : State) : OwnerActs P s (s.passTold n kind (.failed c)) := by
  unfold State.passTold
  dsimp only
  refine trans ?_ (sendReady n _)
  split
  · exact refl s
  · split
    · exact offerFailed n _ c s
    · split
      · exact slipFailed n _ c s
      · exact refl s

theorem sendHead (s : State) : OwnerActs P s s.sendHead := by
  unfold State.sendHead
  split
  · exact (ofFollows (State.sendPageFrame_follows _ s)).trans (onPage _ _)
  · exact refl s

theorem pageFailed (kind : FrameKind) (c : Cause) (s : State) : OwnerActs P s (s.pageTold kind (.failed c)) := by
  unfold State.pageTold
  dsimp only
  split
  · exact (onPage _ s).trans (sendHead _)
  · refine trans ?_ (ofFollows (State.settleFits_follows _))
    unfold State.planTold
    split
    · exact refl s
    split
    · exact refl s
    exact endPlan _ _ s

theorem freeInbound (n : Nat) (s : State) : OwnerActs False s (s.freeInbound n) := by
  unfold State.freeInbound
  split
  · exact refl s
  dsimp only
  rw [State.dropSlipWrite_rest]
  refine { refl (P := False) s with text := ?_, slots := nofun }
  show (s.store.release n).text = _
  unfold Store.release
  split <;> rfl

end OwnerActs

theorem State.tellOwner_failed (e : OutEntry) (c : Cause) (s : State) :
    OwnerActs (∀ n, e.owner ≠ .take n) s (s.tellOwner e (.failed c)) := by
  unfold State.tellOwner
  cases own : e.owner with
  | passEntry n => exact .passFailed n _ c s
  | page => exact .pageFailed _ c s
  | take n =>
    show OwnerActs _ s (if (s.inbound n).isSome then s.loseInbound n else s)
    split
    · have lost : OwnerActs False s (s.loseInbound n) := (OwnerActs.freeInbound n s).trans (.raise _ _)
      exact { lost with slots := fun other => absurd rfl (other n) }
    · exact .refl s
  | answer => exact .refl s
  | flash => exact { OwnerActs.refl s with }
  | clock => exact .refl s

end Sys2Proof.Machine


namespace Sys2Proof.Machine

open Sys2Proof

/-! ## A drive fault (R40) -/

section Fault

variable {s u : State} {i : Nat} {e : OutEntry}

/-- The line with everything released that a fault releases. -/
def Line.faulted (l : Line) : Line :=
  { l with quiet := 0, join := 0, recessive := 0, dominantRun := 0, slot := .neither }

/-- The part as a drive fault leaves it before an attempt ends. -/
def State.faultNoted (s : State) : State :=
  ((s.lineAt s.line.faulted s.traffic.counts).enterLine .listenOnly).raise .lineFault

theorem State.faultNoted_told (s : State) :
    LineTold (decide (s.line.state ≠ .listenOnly)) { s.line.faulted with state := .listenOnly } s.traffic.counts s s.faultNoted :=
  (State.enterLine_told s.line.faulted .listenOnly s.traffic.counts s).1.raise .lineFault

theorem State.faultNoted_latched (s : State) : s.faultNoted.desk.latched .lineFault = true := State.raise_latched ..

theorem exec_driveFault_other (other : ¬(s.line.state.listens = true ∧ (s.traffic.sending = true ∨ s.line.slot ≠ .neither))) :
    exec .driveFault s = .next s :=
  congrArg Host.Outcome.next (if_neg (by simpa using other))

theorem exec_driveFault_asserting (listens : s.line.state.listens = true) (idle : s.traffic.sending = false)
    (asserts : s.line.slot ≠ .neither) : exec .driveFault s = .next s.faultNoted.settleRows := by
  refine congrArg Host.Outcome.next ((if_pos (by simp [listens, asserts])).trans ?_)
  rw [idle]
  rfl

theorem State.faultNoted_retryLimit (s : State) : s.faultNoted.retryLimit = s.retryLimit := by
  unfold State.retryLimit
  rw [s.faultNoted_told.desk]

/-- In LISTEN-ONLY nothing is told. -/
theorem State.faultNoted_listening (already : s.line.state = .listenOnly) :
    s.faultNoted = (s.lineAt s.line.faulted s.traffic.counts).raise .lineFault := by
  unfold State.faultNoted State.enterLine
  dsimp only
  rw [if_pos (show (s.lineAt s.line.faulted s.traffic.counts).line.state = .listenOnly from already)]
  congr 1
  show { s with line := { s.line.faulted with state := .listenOnly }, .. } = { s with line := s.line.faulted, .. }
  rw [← already]
  rfl

section Sending

variable (listens : s.line.state.listens = true) (here : s.traffic.queue[i]? = some e) (onLine : e.onLine = true)
  (first : ∀ (j : Nat) (x : OutEntry), j < i → s.traffic.queue[j]? = some x → x.onLine = false)

include listens here onLine first

/-- With a frame on the line the attempt ends as by a bit error. -/
theorem exec_driveFault_sending :
    exec .driveFault s = .next (s.faultNoted.endAttemptOf i e (some .bitError)).settleRows := by
  have sending : s.traffic.sending = true := Traffic.sending_iff_exists.mpr ⟨e, List.mem_of_getElem? here, onLine⟩
  refine congrArg Host.Outcome.next ((if_pos (by simp [listens, sending])).trans ?_)
  rw [sending]
  show State.settleRows (s.faultNoted.endAttempt (some .bitError)) = _
  unfold State.endAttempt
  rw [State.onLineEntry_of (s := s.faultNoted) (i := i) (e := e)]
  · rw [s.faultNoted_told.only.traffic]
    exact here
  · exact onLine
  · rw [s.faultNoted_told.only.traffic]
    exact first

/-- With attempts left the entry waits again. -/
theorem exec_driveFault_again (stays : e.withdrawing = false) (left : e.attempts < s.retryLimit) :
    ∃ t, exec .driveFault s = .next t ∧
      SettleFollows
        (s.faultNoted.withQueue
          (s.traffic.queue.set i { e with onLine := false, attempts := e.attempts + 1, lastCause := some .bitError })
          s.traffic.counts) t := by
  have traffic := s.faultNoted_told.only.traffic
  have queue : s.faultNoted.traffic.queue = s.traffic.queue := congrArg Traffic.queue traffic
  have counts : s.faultNoted.traffic.counts = s.traffic.counts := congrArg Traffic.counts traffic
  refine ⟨_, exec_driveFault_sending listens here onLine first, ?_⟩
  rw [State.endAttemptOf_again (s := s.faultNoted) stays (by rw [State.faultNoted_retryLimit]; exact left)
    (by rw [queue]; exact here), queue, counts]
  have told := State.tellOwner_attempt (c := .bitError) (e := { e.attempted (some .bitError) with lastCause := some .bitError })
    (s := s.faultNoted.withQueue (s.traffic.queue.set i { e.attempted (some .bitError) with lastCause := some .bitError })
      s.traffic.counts) (.inl nofun)
  exact (told.trans (State.settle_follows _)).trans (State.settleRows_follows _).settles

/-- With none left the entry is gone, and its owner told. -/
theorem exec_driveFault_spent (stays : e.withdrawing = false) (spent : s.retryLimit ≤ e.attempts) :
    ∃ t, exec .driveFault s = .next t ∧
      OwnerActs (∀ n, e.owner ≠ .take n)
        (s.faultNoted.withQueue (s.traffic.queue.eraseIdx i) s.traffic.counts.oneFailed) t ∧
      (e.owner = .answer ∨ e.owner = .clock →
        SettleFollows (s.faultNoted.withQueue (s.traffic.queue.eraseIdx i) s.traffic.counts.oneFailed) t) := by
  have traffic := s.faultNoted_told.only.traffic
  have queue : s.faultNoted.traffic.queue = s.traffic.queue := congrArg Traffic.queue traffic
  have counts : s.faultNoted.traffic.counts = s.traffic.counts := congrArg Traffic.counts traffic
  have runs := exec_driveFault_sending listens here onLine first
  rw [State.endAttemptOf_failed (s := s.faultNoted) stays (by rw [State.faultNoted_retryLimit]; exact spent), queue,
    counts] at runs
  generalize s.faultNoted.withQueue (s.traffic.queue.eraseIdx i) s.traffic.counts.oneFailed = w at runs ⊢
  refine ⟨_, runs, ?_, fun own => ?_⟩
  · exact ((State.tellOwner_failed { e.attempted (some .bitError) with lastCause := some .bitError } .bitError w).trans
      (.ofFollows (State.settle_follows _))).trans (.ofFollows (State.settleRows_follows _).settles)
  · have told : w.tellOwner { e.attempted (some .bitError) with lastCause := some .bitError } (.failed .bitError) = w := by
      rcases own with answer | clock
      · exact State.tellOwner_answer answer
      · exact State.tellOwner_clock clock nofun
    rw [told]
    exact (State.settle_follows w).trans (State.settleRows_follows _).settles

omit listens in
/-- A bit error of its own in the state the fault leaves ends the attempt in the same way. -/
theorem exec_faultNoted_bitError {bit : Nat} (late : 8 ≤ bit)
    (one : (bodyBits (e.frame.onLine s.desk.station))[bit - 1]? = some true) :
    exec (.bitError bit) s.faultNoted = .next (s.faultNoted.endAttemptOf i e (some .bitError)) := by
  have told := s.faultNoted_told
  have queue : s.faultNoted.traffic.queue = s.traffic.queue := congrArg Traffic.queue told.only.traffic
  have station : s.faultNoted.desk.station = s.desk.station := by rw [told.desk]
  have line : ({ s.faultNoted.line with quiet := 0, join := 0, recessive := 0 } : Line) = s.faultNoted.line := by
    rw [told.only.line]
    rfl
  rw [exec_bitError (s := s.faultNoted) (queue ▸ here) onLine (queue ▸ first) late
    (by rw [State.ownBit, station]; exact one), line]

end Sending

end Fault

/-! ## LINE RETRY (R46) -/

section Retry

variable {s : State}

theorem exec_lineRetry_refused (hears : s.hearsHost) (other : s.line.state ≠ .listenOnly) :
    exec .lineRetry s = .next (s.replied .lineRetry .wrongState none .nothing) := by
  refine congrArg Host.Outcome.next ((State.command_of_hearsHost hears (by decide)).trans ?_)
  exact (if_neg other).trans (State.takeTransfer_refuse ..)

theorem exec_lineRetry_taken (hears : s.hearsHost) (waits : s.line.state = .listenOnly) :
    ∃ t, exec .lineRetry s = .next (t.done .nothing) ∧
      LineTold true { s.line with state := .joining, quiet := 0, join := 0, recessive := 0 } s.traffic.counts
        (s.takeTransfer (nameByte .lineRetry)) t ∧
      t.desk.notices = s.desk.notices := by
  obtain ⟨told, notices⟩ := State.enterLine_told { s.line with quiet := 0, join := 0, recessive := 0 } .joining
    s.traffic.counts (s.takeTransfer (nameByte .lineRetry))
  rw [decide_eq_true (by rw [waits]; exact nofun)] at told
  exact ⟨_, congrArg Host.Outcome.next ((State.command_of_hearsHost hears (by decide)).trans (if_pos waits)),
    told.settleRows, (State.settleRows_notices _).trans notices⟩

end Retry

/-! ## The rows that tell a new state of the line section (R48) -/

section Rows

variable {s : State} {dominant recessive : Nat} {st : LineState}

theorem exec_driveFault_told (listens : s.line.state.listens = true) (asserts : s.line.slot ≠ .neither)
    (idle : s.traffic.sending = false) (differs : s.line.state ≠ .listenOnly) :
    ∃ t, exec .driveFault s = .next t ∧
      LineTold true { s.line.faulted with state := .listenOnly } s.traffic.counts s t ∧ t.desk.latched .lineFault = true := by
  have noted := s.faultNoted_told
  rw [decide_eq_true differs] at noted
  exact ⟨_, exec_driveFault_asserting listens idle asserts, noted.settleRows,
    (State.settleRows_follows _).settles.notices _ s.faultNoted_latched⟩

theorem exec_stuckLine_told (listens : s.line.state.listens = true) (idle : s.traffic.sending = false) (long : 64 < dominant) :
    ∃ t, exec (.stuckLine dominant) s = .next t ∧
      LineTold true
        { state := .stuck, recorded := some s.line.state, quiet := 0, join := 0, recessive := 0, dominantRun := 0,
          receiving := false, slot := .neither }
        (if s.line.receiving = true then s.traffic.counts.oneBad else s.traffic.counts) s t ∧
      t.desk.latched .lineFault = true := by
  have differs : s.line.state ≠ .stuck := fun stuck => by
    rw [stuck] at listens
    cases listens
  obtain ⟨told, _⟩ := State.enterLine_told { s.line with
    quiet := 0, join := 0, recessive := 0, dominantRun := 0, recorded := some s.line.state, receiving := false,
    slot := .neither } .stuck (if s.line.receiving = true then s.traffic.counts.oneBad else s.traffic.counts) s
  rw [decide_eq_true differs] at told
  exact ⟨_, exec_stuckLine_enters listens idle long, (told.raise .lineFault).settleRows,
    (State.settleRows_follows _).settles.notices _ (State.raise_latched ..)⟩

theorem exec_stuckRelease_told (stuck : s.line.state = .stuck) (reached : 16 ≤ max s.line.recessive recessive)
    (recorded : s.line.recorded = some st) (differs : st ≠ .stuck) :
    ∃ t, exec (.stuckRelease recessive) s = .next t ∧
      LineTold true
        { s.line with
            state := st, recorded := none, recessive := 0, dominantRun := 0, join := 0,
            quiet := if st = .active then 16 else 0 }
        s.traffic.counts s t ∧
      t.desk.notices = s.desk.notices := by
  obtain ⟨told, notices⟩ := State.enterLine_told { s.line with
    dominantRun := 0, recorded := none, recessive := 0, join := 0, quiet := if st = .active then 16 else 0 } st
    s.traffic.counts s
  rw [decide_eq_true (by rw [stuck]; exact differs.symm)] at told
  exact ⟨_, exec_stuckRelease_returns stuck reached recorded, told.settleRows, (State.settleRows_notices _).trans notices⟩

theorem exec_joinComplete_told (counts : s.line.state = .joining ∧ s.line.receiving = false)
    (reached : 24 ≤ max s.line.join recessive) :
    ∃ t, exec (.joinComplete recessive) s = .next t ∧
      LineTold true { s.line.joinFor recessive with state := .active, join := 0, quiet := 24 } s.traffic.counts s t ∧
      t.desk.notices = s.desk.notices := by
  obtain ⟨told, notices⟩ := State.enterLine_told { s.line.joinFor recessive with join := 0, quiet := 24 } .active
    s.traffic.counts s
  have joining : ({ s.line.joinFor recessive with join := 0, quiet := 24 } : Line).state = .joining := counts.1
  rw [decide_eq_true (by rw [joining]; exact nofun)] at told
  exact ⟨_, exec_joinComplete_enters counts reached, told.settleRows, (State.settleRows_notices _).trans notices⟩

end Rows

section FaultSending

variable {s : State} {i : Nat} {e : OutEntry}

theorem exec_driveFault_noted (listens : s.line.state.listens = true) (here : s.traffic.queue[i]? = some e)
    (onLine : e.onLine = true) (first : ∀ (j : Nat) (x : OutEntry), j < i → s.traffic.queue[j]? = some x → x.onLine = false) :
    ∃ u t, exec .driveFault s = .next t ∧
      LineTold (decide (s.line.state ≠ .listenOnly)) { s.line.faulted with state := .listenOnly } s.traffic.counts s u ∧
      u.desk.latched .lineFault = true ∧
      ∀ bit, 8 ≤ bit → (bodyBits (e.frame.onLine s.desk.station))[bit - 1]? = some true →
        ∃ v, exec (.bitError bit) u = .next v ∧ RowsFollow v t :=
  ⟨s.faultNoted, _, exec_driveFault_sending listens here onLine first, s.faultNoted_told, s.faultNoted_latched,
    fun _ late one => ⟨_, exec_faultNoted_bitError here onLine first late one, State.settleRows_follows _⟩⟩

end FaultSending

/-! ## What stands once an attempt has ended by a drive fault -/

section FaultEnds

variable {P : Prop} {tells : Bool} {l : Line} {counts C : LineCounts} {Q : List OutEntry} {s t u : State}

theorem LineTold.withQueue (h : LineTold tells l counts s u) :
    OnlyScreen
      { s with
          line := l, traffic := { s.traffic with queue := Q, counts := C },
          screen := { s.screen with status := u.screen.status } }
      (u.withQueue Q C) :=
  { h.only with
    traffic := by
      show ({ u.traffic with queue := Q, counts := C } : Traffic) = _
      rw [h.only.traffic]
      rfl }

theorem LineTold.acts (h : LineTold tells l counts s u) (latched : u.desk.latched .lineFault = true)
    (a : OwnerActs P (u.withQueue Q C) t) :
    t.line = l ∧ t.desk.latched .lineFault = true ∧
      (tells = true → t.screen.status.line = l.state ∧ t.desk.inputs.line = l.state) ∧
      t.clock = s.clock ∧ t.store.text = s.store.text ∧ (P → t.traffic.slots = s.traffic.slots) ∧
      t.desk =
        { s.desk with
            notices := t.desk.notices, attention := t.desk.attention, lamp := t.desk.lamp, lit := t.desk.lit,
            inputs := t.desk.inputs } ∧
      sameWindows s t ∧ t.screen.lanes = s.screen.lanes ∧ t.screen.timer = s.screen.timer ∧
      t.screen.flash = s.screen.flash := by
  refine ⟨a.line.trans h.only.line, a.notices _ latched, fun telling => ⟨?_, ?_⟩, a.clock.trans h.only.clock,
    a.text.trans (congrArg Store.text h.only.store), fun kept => (a.slots kept).trans (by
      rw [show (u.withQueue Q C).traffic.slots = u.traffic.slots from rfl, h.only.traffic]
      rfl),
    ?_, Eq.trans a.windows h.windows, a.lanes.trans h.only.lanes, a.timer.trans h.only.timer, a.flash.trans h.flash⟩
  · rw [a.status, show (u.withQueue Q C).screen.status = _ from h.status, if_pos telling]
  · rw [a.inputs, show (u.withQueue Q C).desk.inputs = _ from h.inputs, if_pos telling]
  · have desk := a.desk
    rw [show (u.withQueue Q C).desk = _ from h.desk] at desk
    exact desk

end FaultEnds

section FaultSettled

variable {s : State} {i : Nat} {e : OutEntry}

/-- A drive fault while a frame that is not withdrawn is on the line. -/
theorem exec_driveFault_ends (listens : s.line.state.listens = true) (here : s.traffic.queue[i]? = some e)
    (onLine : e.onLine = true) (first : ∀ (j : Nat) (x : OutEntry), j < i → s.traffic.queue[j]? = some x → x.onLine = false)
    (stays : e.withdrawing = false) :
    ∃ t, exec .driveFault s = .next t ∧
      t.line = { s.line.faulted with state := .listenOnly } ∧
      t.desk.latched .lineFault = true ∧
      (s.line.state ≠ .listenOnly → t.screen.status.line = .listenOnly ∧ t.desk.inputs.line = .listenOnly) ∧
      t.clock = s.clock ∧ t.store.text = s.store.text ∧ ((∀ n, e.owner ≠ .take n) → t.traffic.slots = s.traffic.slots) ∧
      t.desk =
        { s.desk with
            notices := t.desk.notices, attention := t.desk.attention, lamp := t.desk.lamp, lit := t.desk.lit,
            inputs := t.desk.inputs } ∧
      sameWindows s t ∧ t.screen.lanes = s.screen.lanes ∧ t.screen.timer = s.screen.timer ∧
      t.screen.flash = s.screen.flash ∧
      (∀ queue counts,
        e.attempts < s.retryLimit ∧ counts = s.traffic.counts ∧
            queue = s.traffic.queue.set i
              { e with onLine := false, attempts := e.attempts + 1, lastCause := some .bitError } ∨
          s.retryLimit ≤ e.attempts ∧ (e.owner = .answer ∨ e.owner = .clock) ∧
            counts = { s.traffic.counts with failed := min 65535 (s.traffic.counts.failed + 1) } ∧
            queue = s.traffic.queue.eraseIdx i →
        ∃ u : State,
          OnlyScreen
            { s with
                line := t.line, traffic := { s.traffic with queue := queue, counts := counts },
                screen := { s.screen with status := u.screen.status } } u ∧
          (u.desk =
            { s.desk with
                notices := u.desk.notices, attention := u.desk.attention, lamp := u.desk.lamp, lit := u.desk.lit,
                inputs := u.desk.inputs }) ∧
          sameWindows s u ∧ u.screen.flash = s.screen.flash ∧
          (s.line.state = .listenOnly → u.screen.status = s.screen.status ∧ u.desk.inputs = s.desk.inputs) ∧
          (s.line.state ≠ .listenOnly →
            u.screen.status = { s.screen.status with line := .listenOnly } ∧
              u.desk.inputs = { s.desk.inputs with line := .listenOnly }) ∧ SettleFollows u t) ∧
      (e.attempts < s.retryLimit → t.traffic.counts = s.traffic.counts ∧
        t.traffic.queue[i]? =
          some { e with onLine := false, attempts := e.attempts + 1, lastCause := some .bitError }) ∧
      (s.retryLimit ≤ e.attempts →
        t.traffic.counts = { s.traffic.counts with failed := min 65535 (s.traffic.counts.failed + 1) }) := by
  have h := s.faultNoted_told
  have latched := s.faultNoted_latched
  have still : s.line.state = .listenOnly →
      s.faultNoted.screen.status = s.screen.status ∧ s.faultNoted.desk.inputs = s.desk.inputs := fun already => by
    have h := h
    rw [decide_eq_false (not_not.mpr already)] at h
    exact ⟨h.status, h.inputs⟩
  have tells : s.line.state ≠ .listenOnly →
      s.faultNoted.screen.status = { s.screen.status with line := .listenOnly } ∧
        s.faultNoted.desk.inputs = { s.desk.inputs with line := .listenOnly } := fun differs => by
    have h := h
    rw [decide_eq_true differs] at h
    exact ⟨h.status, h.inputs⟩
  obtain ⟨low, _⟩ := List.getElem?_eq_some_iff.mp here
  by_cases left : e.attempts < s.retryLimit
  · obtain ⟨t, runs, follows⟩ := exec_driveFault_again listens here onLine first stays left
    generalize s.faultNoted = u at *
    obtain ⟨line, notice, told, clock, text, slots, desk, windows, lanes, timer, flash⟩ :=
      h.acts latched (OwnerActs.ofFollows (P := ∀ n, e.owner ≠ .take n) follows)
    refine ⟨t, runs, line, notice, fun differs => told (decide_eq_true differs), clock, text, slots, desk, windows, lanes, timer,
      flash, fun queue counts which => ?_, fun _ => ⟨follows.counts, ?_⟩, fun spent => by omega⟩
    · obtain ⟨_, rfl, rfl⟩ | ⟨spent, _⟩ := which
      · have only := h.withQueue (C := s.traffic.counts) (Q := s.traffic.queue.set i
          { e with onLine := false, attempts := e.attempts + 1, lastCause := some .bitError })
        rw [← line] at only
        exact ⟨u.withQueue (s.traffic.queue.set i
          { e with onLine := false, attempts := e.attempts + 1, lastCause := some .bitError }) s.traffic.counts, only, h.desk,
          h.windows, h.flash, still, tells, follows⟩
      · omega
    · obtain ⟨l, queue, _⟩ := follows.queue
      rw [queue, List.getElem?_append_left (by simpa [State.withQueue] using low)]
      exact List.getElem?_set_self low
  · have spent := Nat.le_of_not_lt left
    obtain ⟨t, runs, acts, follows⟩ := exec_driveFault_spent listens here onLine first stays spent
    generalize s.faultNoted = u at *
    obtain ⟨line, notice, told, clock, text, slots, desk, windows, lanes, timer, flash⟩ := h.acts latched acts
    refine ⟨t, runs, line, notice, fun differs => told (decide_eq_true differs), clock, text, slots, desk, windows, lanes, timer,
      flash, fun queue counts which => ?_, fun again => absurd again left, fun _ => acts.counts⟩
    obtain ⟨again, _⟩ | ⟨_, own, rfl, rfl⟩ := which
    · omega
    · have only := h.withQueue (C := s.traffic.counts.oneFailed) (Q := s.traffic.queue.eraseIdx i)
      rw [← line] at only
      exact ⟨u.withQueue (s.traffic.queue.eraseIdx i) s.traffic.counts.oneFailed, only, h.desk, h.windows, h.flash, still,
        tells, follows own⟩

end FaultSettled

/-- Settles O60. -/
theorem lineFaults : Obligations.LineFaults := by
  unfold Obligations.LineFaults
  intro told deskKept moves released
  have moved : ∀ {row : Instr} {l : Line} {counts : LineCounts} {s t : State}, exec row s = .next t →
      LineTold true l counts s t → moves row l counts s t := fun runs h =>
    ⟨runs, h.only, h.windows, h.flash, h.status, h.inputs⟩
  refine ⟨fun s => ?_, fun s hears => ⟨exec_lineRetry_refused hears, fun waits => ?_⟩⟩
  · intro listens sending quiet
    have hears : listens ↔ s.line.state.listens = true := LineState.listens_iff.symm
    have sends : sending ↔ s.traffic.sending = true := Traffic.sending_iff_exists.symm
    have idle : ¬sending → s.traffic.sending = false := fun not => Bool.eq_false_iff.mpr fun h => not (sends.mpr h)
    have noted := s.faultNoted_told
    refine ⟨fun other => ?_, fun listening asserts still differs => ?_, fun already asserts still => ?_,
      fun i e listening here onLine first => ?_, fun i e listening here onLine first stays => ?_, fun dominant => ?_,
      fun recessive => ?_, fun recessive => ?_⟩
    · exact exec_driveFault_other (by rw [← hears, ← sends]; exact other)
    · obtain ⟨t, runs, h, latched⟩ := exec_driveFault_told (hears.mp listening) asserts (idle still) differs
      exact ⟨t, moved runs h, h.desk, latched⟩
    · have is := State.faultNoted_listening already
      have runs := exec_driveFault_asserting (hears.mp (.inr (.inr already))) (idle still) asserts
      rw [is] at runs
      refine ⟨_, _, runs, State.settleRows_follows _, ?_, (State.raise_rest .lineFault _).2.2.2.2.2.2.2.2.2,
        State.raise_latched .., fun n other => State.raise_latched_of_ne other _⟩
      rw [State.raise_eq]
      rfl
    · obtain ⟨u, t, runs, h, latched, errs⟩ := exec_driveFault_noted (hears.mp listening) here onLine first
      refine ⟨u, t, runs, h.only, h.desk, h.windows, h.flash, latched, fun already => ?_, fun differs => ?_, errs⟩
      · rw [decide_eq_false (not_not.mpr already)] at h
        exact ⟨h.status, h.inputs⟩
      · rw [decide_eq_true differs] at h
        exact ⟨h.status, h.inputs⟩
    · exact exec_driveFault_ends (hears.mp listening) here onLine first stays
    · refine ⟨fun ignored => exec_stuckLine_ignored ?_, exec_stuckLine_inStuck, fun listening =>
        exec_stuckLine_short (hears.mp listening), fun listening still long => ?_⟩
      · rwa [hears, sends] at ignored
      · obtain ⟨t, runs, h, latched⟩ := exec_stuckLine_told (hears.mp listening) (idle still) long
        exact ⟨t, moved runs h, h.desk, latched⟩
    · refine ⟨exec_stuckRelease_other, exec_stuckRelease_kept, fun st stuck reached recorded differs => ?_⟩
      obtain ⟨t, runs, h, notices⟩ := exec_stuckRelease_told stuck reached recorded differs
      exact ⟨t, moved runs h, h.desk, notices⟩
    · refine ⟨exec_joinComplete_other, exec_joinComplete_kept, fun counts reached => ?_⟩
      obtain ⟨t, runs, h, notices⟩ := exec_joinComplete_told counts reached
      exact ⟨t, moved runs h, h.desk, notices⟩
  · obtain ⟨t, runs, h, notices⟩ := exec_lineRetry_taken hears waits
    have desk := h.desk
    have ready : t.desk.ready = false := by rw [desk]; rfl
    have command : t.desk.command = some (nameByte .lineRetry) := by rw [desk]; rfl
    refine ⟨_, ⟨runs, ?_, h.windows, h.flash, h.status, h.inputs⟩, answeredDone_done _ ready command, notices, ?_, ?_, ?_, ?_⟩
    · exact h.only.withDesk s.desk (t.done .nothing).desk
    all_goals
      show _ = _
      simp only [State.done, State.respond, State.onDesk]
      rw [desk]
      rfl

end Sys2Proof.Machine


namespace Sys2Proof.Machine

open Sys2Proof

/-! ## One window changed by a command (R163 to R167) -/

section Changed

variable {s : State} {n : Nat} {rows : Nat → Bool} {f g : Window → Window}

/-- Rows of window `n` made DIRTY, then the window changed. -/
def State.windowTo (n : Nat) (rows : Nat → Bool) (f : Window → Window) (s : State) : State := (s.dirty n rows).onWindow n f

theorem State.windowTo_get (s : State) :
    (s.windowTo n rows f).screen.windows[n]? = (s.screen.windows[n]?).map fun w => f (w.dirtyRows rows) := by
  rw [State.windowTo, State.onWindow_get, if_pos rfl, State.dirty_get, if_pos rfl, Option.map_map]
  rfl

/-- A command that changes one window, carried out and answered. -/
structure WindowChanged (c : CommandName) (g : Window → Window) (n : Nat) (s t : State) : Prop where
  only : OnlyScreen s t
  flash : t.screen.flash = s.screen.flash
  desk : t.desk = (s.replied c .done none .nothing).desk
  shown : t.screen.windows.map Window.shown = (s.screen.windows.modify n g).map Window.shown

theorem map_modify_congr {α β : Type} {h : α → β} {f g : α → α} (same : ∀ a, h (f a) = h (g a)) (l : List α) (n : Nat) :
    (l.modify n f).map h = (l.modify n g).map h := by
  refine List.ext_getElem? fun j => ?_
  simp only [List.getElem?_map, List.getElem?_modify]
  by_cases here : n = j
  · simp only [if_pos here]
    cases l[j]? <;> simp [same]
  · simp only [if_neg here]

theorem State.windowTo_changed (c : CommandName) (same : ∀ w, (f (w.dirtyRows rows)).shown = (g w).shown) (s : State) :
    WindowChanged c g n s ((((s.takeTransfer (nameByte c)).windowTo n rows f).settleRows).done .nothing) := by
  have start := State.dirty_onlyScreen n rows (s.takeTransfer (nameByte c))
  have windows := State.dirty_only n rows (s.takeTransfer (nameByte c))
  have follows := State.settleRows_follows ((s.takeTransfer (nameByte c)).windowTo n rows f)
  have sameWindows : ((s.takeTransfer (nameByte c)).windowTo n rows f).screen.windows.map Window.shown =
      (s.screen.windows.modify n g).map Window.shown := by
    have both : ((s.takeTransfer (nameByte c)).windowTo n rows f).screen.windows =
        s.screen.windows.modify n (fun w => f (w.dirtyRows rows)) := by
      refine List.ext_getElem? fun j => ?_
      rw [State.windowTo, State.onWindow_get, State.dirty_get, List.getElem?_modify]
      by_cases here : n = j
      · simp [here, Function.comp_def]
      · simp [here]
    rw [both]
    exact map_modify_congr same s.screen.windows n
  have only := (start.trans (OnlyScreen.onWindow n f _)).trans follows.onlyScreen
  have desk : ((s.takeTransfer (nameByte c)).windowTo n rows f).settleRows.desk = (s.takeTransfer (nameByte c)).desk :=
    follows.desk.trans windows.desk
  have flash := follows.flash.trans windows.flash
  have shown := Eq.trans follows.windows sameWindows
  generalize ((s.takeTransfer (nameByte c)).windowTo n rows f).settleRows = t at *
  exact {
    only := only.withDesk s.desk (t.done .nothing).desk
    flash := flash
    desk := by
      simp only [State.done, State.respond, State.onDesk]
      rw [desk]
      rfl
    shown := shown }

theorem WindowChanged.done {c : CommandName} {t : State} (h : WindowChanged c g n s t) : answeredDone c .nothing t := by
  refine ⟨?_, ?_, ?_⟩
  all_goals
    rw [h.desk]
    rfl

end Changed

/-! ## A window whose line map is present, while rows are staged (R167, R169) -/

section Mapped

variable {s : State} {n : Nat} {v x : Window}

/-- What a staging or the choice of the row builder makes of a window whose line map is present. -/
def Window.mapStep (v x : Window) : Prop :=
  x = v ∨ v.staging = .empty ∧ ∃ r, v.nextRow = some r ∧
    (x = { v with staging := .building r } ∨
      ∃ row : Row, (row.number = 0 ∨ row = blankRow r v.mode ∧ 1 ≤ r) ∧ x = v.stage row)

theorem State.stageAtOnce_mapStep (m : Nat) (here : s.screen.windows[n]? = some v) :
    ∃ x, (s.stageAtOnce m).screen.windows[n]? = some x ∧ v.mapStep x := by
  by_cases same : m = n
  · subst same
    by_cases ready : v.staging = .empty
    · cases next : v.nextRow with
      | none =>
        refine ⟨v, ?_, .inl rfl⟩
        unfold State.stageAtOnce
        rw [here]
        dsimp only
        rw [if_pos ready, next]
        exact here
      | some r =>
        cases none_ : v.needsNoAccess r with
        | true =>
          refine ⟨_, State.stageAtOnce_stages here ready next none_, .inr ⟨ready, r, next, .inr ⟨_, ?_, rfl⟩⟩⟩
          by_cases first : r = 0
          · exact .inl (by rw [if_pos first]; rfl)
          · exact .inr ⟨if_neg first, by omega⟩
        | false =>
          refine ⟨v, ?_, .inl rfl⟩
          unfold State.stageAtOnce
          rw [here]
          dsimp only
          rw [if_pos ready, next]
          dsimp only
          rw [if_neg (by rw [none_]; exact Bool.false_ne_true)]
          exact here
    · exact ⟨v, by rw [State.stageAtOnce_staged here ready]; exact here, .inl rfl⟩
  · exact ⟨v, by rw [State.stageAtOnce_other s same]; exact here, .inl rfl⟩

theorem State.renderOrBlank_other {m r : Nat} {q : Story} (other : m ≠ n) :
    (s.renderOrBlank m r q).screen.windows[n]? = s.screen.windows[n]? := by
  unfold State.renderOrBlank
  repeat' split
  · rfl
  · rfl
  · rw [State.onWindow_get, if_neg other]
    rfl
  · rw [State.onWindow_get, if_neg other]
    rfl

/-- The row builder takes another lane. -/
theorem State.takeLane_other {m r : Nat} {w : Window} (other : m ≠ n) :
    (s.takeLane m r w).screen.windows[n]? = s.screen.windows[n]? := by
  have first : ((s.onScreen fun c => { c with lastServed := m }).onWindow m fun w => { w with staging := .building r }).screen.windows[n]? =
      s.screen.windows[n]? := by
    rw [State.onWindow_get, if_neg other]
    rfl
  unfold State.takeLane
  dsimp only
  repeat' split
  · rw [State.onWindow_get, if_neg other, first]
  · rw [State.renderOrBlank_other other, first]
  · rw [State.renderOrBlank_other other, State.onWindow_get, if_neg other, first]
  · exact first

/-- The row builder takes a lane whose line map is present. -/
theorem State.takeLane_mapStep {r : Nat} (here : s.screen.windows[n]? = some v) (map : v.lineMap ≠ none)
    (ready : v.staging = .empty) (next : v.nextRow = some r) (text : 1 ≤ r) :
    ∃ x, (s.takeLane n r v).screen.windows[n]? = some x ∧ v.mapStep x := by
  have first : ((s.onScreen fun c => { c with lastServed := n }).onWindow n fun w => { w with staging := .building r }).screen.windows[n]? =
      some { v with staging := .building r } := by
    rw [State.onWindow_get, if_pos rfl]
    show (s.screen.windows[n]?).map _ = _
    rw [here]
    rfl
  have built : v.mapStep { v with staging := .building r } := .inr ⟨ready, r, next, .inl rfl⟩
  have blank : v.mapStep (({ v with staging := .building r } : Window).stage (blankRow r v.mode)) :=
    .inr ⟨ready, r, next, .inr ⟨_, .inr ⟨rfl, text⟩, rfl⟩⟩
  obtain ⟨starts, map⟩ := Option.ne_none_iff_exists'.mp map
  unfold State.takeLane
  dsimp only
  generalize ((s.onScreen fun c => { c with lastServed := n }).onWindow n fun w => { w with staging := .building r }) = u at first ⊢
  split
  · exact ⟨_, by rw [State.onWindow_get, if_pos rfl, first]; rfl, blank⟩
  rw [map]
  dsimp only
  unfold State.renderOrBlank
  rw [first]
  dsimp only
  repeat' split
  · exact ⟨_, first, built⟩
  all_goals
    refine ⟨_, ?_, blank⟩
    rw [State.onWindow_get, if_pos rfl]
    show (u.screen.windows[n]?).map _ = _
    rw [first]
    rfl

theorem State.chooseLane_mapStep (here : s.screen.windows[n]? = some v) (map : v.lineMap ≠ none) :
    ∃ x, s.chooseLane.screen.windows[n]? = some x ∧ v.mapStep x := by
  unfold State.chooseLane
  split
  · exact ⟨v, here, .inl rfl⟩
  split
  · exact ⟨v, here, .inl rfl⟩
  next m chosen =>
  obtain ⟨w, there, waits⟩ := State.nextLane_spec chosen
  rw [there]
  dsimp only
  simp only [Window.waitsForBuilder, Bool.and_eq_true, decide_eq_true_eq] at waits
  obtain ⟨ready, waits⟩ := waits
  cases next : w.nextRow with
  | none => exact ⟨v, here, .inl rfl⟩
  | some r =>
    dsimp only
    by_cases same : m = n
    · subst same
      rw [here] at there
      cases there
      rw [next] at waits
      have text : 1 ≤ r := by
        by_contra first
        have first : r = 0 := by omega
        subst first
        simp [Window.needsNoAccess] at waits
      exact State.takeLane_mapStep here map ready next text
    · exact ⟨v, (State.takeLane_other same).trans here, .inl rfl⟩

/-- Every text row is DIRTY or staged blank, and no other text row is staged. -/
def Window.textBlank (mode : Mode) (v : Window) : Prop :=
  (∀ r, 1 ≤ r → r ≤ 20 → v.dirty[r]? = some true ∨ v.staging = .ready (blankRow r mode)) ∧
    ∀ q, v.staging = .ready q → 1 ≤ q.number → q.codes = List.replicate 64 0x20#8

theorem Window.mapStep_textBlank {mode : Mode} (h : v.mapStep x) (isMode : v.mode = mode) (blank : v.textBlank mode) :
    x.textBlank mode := by
  obtain rfl | ⟨ready, r, next, built⟩ := h
  · exact blank
  have dirty : ∀ k, 1 ≤ k → k ≤ 20 → v.dirty[k]? = some true := fun k low high => by
    rcases blank.1 k low high with dirty | staged
    · exact dirty
    · rw [ready] at staged
      cases staged
  obtain rfl | ⟨row, kind, rfl⟩ := built
  · exact ⟨fun k low high => .inl (dirty k low high), nofun⟩
  · refine ⟨fun k low high => ?_, fun q is text => ?_⟩
    · rcases kind with first | ⟨rfl, _⟩
      · left
        rw [Window.stage, first]
        exact (List.getElem?_set_ne (by omega)).trans (dirty k low high)
      · by_cases same : r = k
        · subst same
          exact .inr (by rw [Window.stage, isMode])
        · left
          rw [Window.stage]
          exact (List.getElem?_set_ne same).trans (dirty k low high)
    · cases is
      rcases kind with first | ⟨rfl, _⟩
      · omega
      · rfl

theorem Window.mapStep_kept (h : v.mapStep x) : x.lineMap = v.lineMap ∧ x.top = v.top ∧ x.mode = v.mode := by
  obtain rfl | ⟨_, r, _, rfl | ⟨row, _, rfl⟩⟩ := h
  all_goals exact ⟨rfl, rfl, rfl⟩

/-- A line map that is present stands while rows are staged, and every text row stays DIRTY or is staged blank. -/
theorem State.settleRows_mapped (here : s.screen.windows[n]? = some v) (map : v.lineMap ≠ none) :
    ∃ x, s.settleRows.screen.windows[n]? = some x ∧ x.lineMap = v.lineMap ∧ x.top = v.top ∧
      (v.textBlank v.mode → x.textBlank v.mode) := by
  let P (t : State) : Prop := ∃ x, t.screen.windows[n]? = some x ∧ x.lineMap = v.lineMap ∧ x.top = v.top ∧ x.mode = v.mode ∧
    (v.textBlank v.mode → x.textBlank v.mode)
  have step : ∀ {t u : State}, P t → (∀ x, t.screen.windows[n]? = some x → x.lineMap ≠ none →
      ∃ y, u.screen.windows[n]? = some y ∧ x.mapStep y) → P u := by
    rintro t u ⟨x, there, same, top, mode, blank⟩ moves
    obtain ⟨y, next, moved⟩ := moves x there (same ▸ map)
    obtain ⟨map', top', mode'⟩ := Window.mapStep_kept moved
    exact ⟨y, next, map'.trans same, top'.trans top, mode'.trans mode,
      fun start => Window.mapStep_textBlank moved mode (blank start)⟩
  have start : P s := ⟨v, here, rfl, rfl, rfl, id⟩
  obtain ⟨x, there, same, top, _, blank⟩ := State.settleRows_induct (P := P)
    (fun m _ h => step h fun _ there _ => State.stageAtOnce_mapStep m there)
    (fun _ h => step h fun _ there map => State.chooseLane_mapStep there map) start
  exact ⟨x, there, same, top, blank⟩

end Mapped

end Sys2Proof.Machine


namespace Sys2Proof.Machine

open Sys2Proof

/-! ## The checks of VIEW, SCROLL and CURSOR in their order (R163 to R165) -/

section Checks

variable {s : State} {screen top : Nat} {k : Option Key} {edit : Bool} {offset : Option Nat}

theorem State.goodView_iff : s.goodView screen top = true ↔ ¬(s.screenCount ≤ screen ∨ 4095 < top) := by
  simp only [State.goodView, Bool.and_eq_true, decide_eq_true_eq, within_zero_iff]
  omega

theorem State.noStory_iff : (k.any fun k => (s.story k).isNone) = true ↔ ¬∀ key, k = some key → s.story key ≠ none := by
  simp [Option.any_eq_true]

theorem State.editable_iff :
    k.any s.editable = true ↔ ∃ key r, k = some key ∧ s.story key = some r ∧ r.custody = .held ∧ r.lock = none := by
  constructor
  · intro found
    obtain ⟨key, rfl, editable⟩ := (Option.any_eq_true _ _).mp found
    obtain ⟨r, stands, held⟩ := (Option.any_eq_true _ _).mp editable
    obtain ⟨isHeld, unlocked⟩ := Bool.and_eq_true_iff.mp held
    exact ⟨key, r, rfl, stands, by simpa [Story.isHeld] using isHeld, Option.isNone_iff_eq_none.mp unlocked⟩
  · rintro ⟨key, r, rfl, stands, held, unlocked⟩
    simp [State.editable, stands, Story.isHeld, held, unlocked]

theorem State.viewRefusal_badField (bad : s.screenCount ≤ screen ∨ 4095 < top) :
    s.viewRefusal screen k edit top = some .badField :=
  if_pos (test_fails State.goodView_iff (not_not.mpr bad))

section Good

variable (good : ¬(s.screenCount ≤ screen ∨ 4095 < top))

include good

theorem State.viewRefusal_noStory (unknown : ¬∀ key, k = some key → s.story key ≠ none) :
    s.viewRefusal screen k edit top = some .noStory :=
  (if_neg (not_test State.goodView_iff good)).trans (if_pos (State.noStory_iff.mpr unknown))

theorem State.viewRefusal_edit (known : ∀ key, k = some key → s.story key ≠ none) :
    s.viewRefusal screen k edit top = if edit && !k.any s.editable then some .wrongState else none :=
  (if_neg (not_test State.goodView_iff good)).trans (if_neg fun unknown => State.noStory_iff.mp unknown known)

theorem State.scrollRefusal_good :
    s.scrollRefusal screen top = if (s.window screen).any fun w => w.key.isSome then none else some .wrongState :=
  if_neg (not_test State.goodView_iff good)

end Good

theorem State.scrollRefusal_badField (bad : s.screenCount ≤ screen ∨ 4095 < top) :
    s.scrollRefusal screen top = some .badField :=
  if_pos (test_fails State.goodView_iff (not_not.mpr bad))

/-- The window shows no story. -/
theorem State.blank_iff :
    ((s.window screen).any fun w => w.key.isSome) = true ↔ ¬∀ w, s.screen.windows[screen]? = some w → w.key = none := by
  simp [State.window, Option.any_eq_true, Option.isSome_iff_ne_none]

theorem State.cursorRefusal_badField (bad : s.screenCount ≤ screen) : s.cursorRefusal screen offset = some .badField :=
  if_pos bad

theorem State.cursorRefusal_blank (good : screen < s.screenCount)
    (blank : ∀ w, s.screen.windows[screen]? = some w → w.key = none) : s.cursorRefusal screen offset = some .wrongState := by
  have none_ : (s.window screen).bind (·.key) = none := Option.bind_eq_none_iff.mpr blank
  refine (if_neg (by omega)).trans ?_
  rw [none_]

theorem State.cursorRefusal_story {w : Window} {k : Key} {r : Story} (good : screen < s.screenCount)
    (here : s.screen.windows[screen]? = some w) (key : w.key = some k) (stands : s.story k = some r) :
    s.cursorRefusal screen offset = if offset.any fun o => decide (r.length < o) then some .badField else none := by
  have some_ : (s.window screen).bind (·.key) = some k := by rw [State.window, here]; exact key
  refine (if_neg (by omega)).trans ?_
  rw [some_]
  dsimp only
  rw [stands]
  rfl

end Checks

/-! ## The window a command leaves -/

section Left

variable {s : State} {screen top : Nat} {w : Window} {k : Option Key} {edit : Bool}

/-- A window command's answer, with the screen unit as its rows have settled. -/
theorem State.windowTo_answered {c : CommandName} {n : Nat} {rows : Nat → Bool} {f g : Window → Window}
    (same : ∀ w, (f (w.dirtyRows rows)).shown = (g w).shown) (s : State) :
    ∃ t, (((s.takeTransfer (nameByte c)).windowTo n rows f).settleRows).done .nothing = t ∧ WindowChanged c g n s t ∧
      t.screen = ((s.takeTransfer (nameByte c)).windowTo n rows f).settleRows.screen :=
  ⟨_, rfl, State.windowTo_changed c same s, State.done_screen _ _⟩

/-- The mode VIEW gives. -/
def viewMode (k : Option Key) (edit : Bool) : Mode := if k ≠ none ∧ edit = true then .edit else .read

theorem Window.viewing_shown (w : Window) :
    (Window.viewing k edit top (w.dirtyRows anyRow)).shown =
      ({ w with key := k, mode := viewMode k edit, cursor := none, waiting := false } : Window).shown := by
  cases k <;> simp [Window.viewing, Window.blanked, Window.shown, viewMode]

/-- A window viewed anew has row 0 staged and its text rows DIRTY. -/
theorem State.view_window (c : CommandName) (enabled : screen < s.screenCount) (here : s.screen.windows[screen]? = some w)
    (whole : w.dirty.length = 21) :
    ((s.takeTransfer (nameByte c)).windowTo screen anyRow (Window.viewing k edit top)).settleRows.screen.windows[screen]? =
      some
        { key := k, mode := viewMode k edit, top := if k = none then 0 else top, cursor := none,
          dirty := false :: List.replicate 20 true, staging := .ready (s.statusRow (viewMode k edit)),
          lineMap := none, waiting := false } := by
  obtain ⟨dirty, empty⟩ := Window.dirtyRows_any w whole
  have viewed : Window.viewing k edit top (w.dirtyRows anyRow) =
      { key := k, mode := viewMode k edit, top := if k = none then 0 else top, cursor := none,
        dirty := List.replicate 21 true, staging := .empty, lineMap := none, waiting := false } := by
    rw [← dirty, ← empty]
    cases k <;> simp [Window.viewing, Window.blanked, viewMode]
  have only := State.dirty_only screen anyRow (s.takeTransfer (nameByte c))
  have row : ((s.takeTransfer (nameByte c)).windowTo screen anyRow (Window.viewing k edit top)).statusRow (viewMode k edit) =
      s.statusRow (viewMode k edit) :=
    statusRow_congr (congrArg Desk.station only.desk) only.clock only.status only.flash _
  have at_n : ((s.takeTransfer (nameByte c)).windowTo screen anyRow (Window.viewing k edit top)).screen.windows[screen]? =
      some
        { key := k, mode := viewMode k edit, top := if k = none then 0 else top, cursor := none,
          dirty := List.replicate 21 true, staging := .empty, lineMap := none, waiting := false } := by
    rw [State.windowTo_get, show (s.takeTransfer (nameByte c)).screen.windows[screen]? = some w from here, Option.map_some, viewed]
  have count : ((s.takeTransfer (nameByte c)).windowTo screen anyRow (Window.viewing k edit top)).screenCount = s.screenCount := by
    unfold State.screenCount
    rw [show ((s.takeTransfer (nameByte c)).windowTo screen anyRow (Window.viewing k edit top)).desk = _ from only.desk]
    rfl
  generalize (s.takeTransfer (nameByte c)).windowTo screen anyRow (Window.viewing k edit top) = u at *
  rw [State.settleRows_stages (count ▸ enabled) at_n rfl (Window.nextRow_of_head rfl) rfl, if_pos rfl, row]
  rfl

/-- A window whose line map has gone keeps its top line and its text rows DIRTY, while its story has text. -/
theorem State.windowTo_stale {c : CommandName} {f : Window → Window} {key : Key} {r : Story}
    (here : s.screen.windows[screen]? = some w) (whole : w.dirty.length = 21) (noMap : (f (w.dirtyRows textRow)).lineMap = none)
    (dirty : (f (w.dirtyRows textRow)).dirty = (w.dirtyRows textRow).dirty)
    (staging : (f (w.dirtyRows textRow)).staging = (w.dirtyRows textRow).staging)
    (keys : (f (w.dirtyRows textRow)).key = some key) (stands : s.story key = some r) (text : 0 < r.length) :
    ∃ x, ((s.takeTransfer (nameByte c)).windowTo screen textRow f).settleRows.screen.windows[screen]? = some x ∧
      x.top = (f (w.dirtyRows textRow)).top ∧ x.lineMap = none ∧ ∀ r, 1 ≤ r → r ≤ 20 → x.dirty[r]? = some true := by
  have only := State.dirty_only screen textRow (s.takeTransfer (nameByte c))
  obtain ⟨rows, noText⟩ := Window.dirtyRows_text w whole
  have at_n : ((s.takeTransfer (nameByte c)).windowTo screen textRow f).screen.windows[screen]? = some (f (w.dirtyRows textRow)) := by
    rw [State.windowTo_get, show (s.takeTransfer (nameByte c)).screen.windows[screen]? = some w from here, Option.map_some]
  have story : ((s.takeTransfer (nameByte c)).windowTo screen textRow f).story key = some r := by
    rw [← stands]
    exact congrArg (fun st => Store.story st key) only.store
  have stale : StaleAt screen (f (w.dirtyRows textRow)).top ((s.takeTransfer (nameByte c)).windowTo screen textRow f) :=
    ⟨_, at_n, noMap, rfl, by rw [dirty]; exact rows, by rw [staging]; exact noText, .inr ⟨key, r, keys, story, text⟩⟩
  obtain ⟨x, there, map, top', dirtyText, _⟩ := stale.settleRows
  exact ⟨x, there, top', map, dirtyText⟩

/-- A window whose text rows are made DIRTY with its line map present. -/
theorem State.windowTo_mapped {c : CommandName} {f : Window → Window}
    (here : s.screen.windows[screen]? = some w) (map : (f (w.dirtyRows textRow)).lineMap ≠ none)
    (dirty : (f (w.dirtyRows textRow)).dirty = (w.dirtyRows textRow).dirty)
    (staging : (f (w.dirtyRows textRow)).staging = (w.dirtyRows textRow).staging) :
    ∃ x, ((s.takeTransfer (nameByte c)).windowTo screen textRow f).settleRows.screen.windows[screen]? = some x ∧
      x.lineMap = (f (w.dirtyRows textRow)).lineMap ∧ x.top = (f (w.dirtyRows textRow)).top ∧
      (w.dirty.length = 21 → x.textBlank (f (w.dirtyRows textRow)).mode) := by
  have at_n : ((s.takeTransfer (nameByte c)).windowTo screen textRow f).screen.windows[screen]? = some (f (w.dirtyRows textRow)) := by
    rw [State.windowTo_get, show (s.takeTransfer (nameByte c)).screen.windows[screen]? = some w from here, Option.map_some]
  obtain ⟨x, there, same, top, blank⟩ := State.settleRows_mapped at_n map
  refine ⟨x, there, same, top, fun whole => blank ?_⟩
  obtain ⟨rows, noText⟩ := Window.dirtyRows_text w whole
  refine ⟨fun r low high => .inl (by rw [dirty]; exact rows r low high), fun q staged text => ?_⟩
  rw [staging] at staged
  have first := noText q staged
  omega

end Left

/-- Settles O50. -/
theorem windowsCommanded : Obligations.WindowsCommanded := by
  intro screen s hears blank dirtyText changed
  refine ⟨fun k edit top => ?_, fun top => ?_, fun offset => ⟨fun bad => ?_, fun good isBlank => ?_, fun w k r good here key stands =>
    ⟨fun far => ?_, fun near => ?_⟩⟩⟩
  · intro no bad known editable mode
    refine ⟨fun isBad => ?_, fun good unknown => ?_, fun good isKnown edits barred => ?_, fun good isKnown may => ?_⟩
    · exact State.command_unless_refused hears (by decide) (State.viewRefusal_badField (s := s.takeTransfer _) isBad)
    · exact State.command_unless_refused hears (by decide) (State.viewRefusal_noStory (s := s.takeTransfer _) good unknown)
    · refine State.command_unless_refused hears (by decide)
        ((State.viewRefusal_edit (s := s.takeTransfer _) good isKnown).trans (if_pos ?_))
      rw [edits, Bool.true_and, Bool.not_eq_true']
      exact Bool.eq_false_iff.mpr fun holds => barred (State.editable_iff.mp holds)
    · have passed : (s.takeTransfer (nameByte .view)).viewRefusal screen k edit top = none := by
        refine (State.viewRefusal_edit (s := s.takeTransfer _) good isKnown).trans (if_neg ?_)
        cases edit with
        | false => exact Bool.false_ne_true
        | true =>
          have holds : k.any (s.takeTransfer (nameByte .view)).editable = true := State.editable_iff.mpr (may rfl)
          simp [holds]
      have runs : exec (.view screen k edit top) s = .next ((((s.takeTransfer (nameByte .view)).windowTo screen anyRow
          (Window.viewing k edit top)).settleRows).done .nothing) := State.command_unless_goes hears (by decide) passed
      obtain ⟨t, is, h, shows⟩ := State.windowTo_answered (c := .view) (n := screen)
        (fun w => Window.viewing_shown (k := k) (edit := edit) (top := top) w) s
      rw [is] at runs
      refine ⟨t, runs, h.done, ⟨h.only, h.flash, h.desk, h.shown⟩, fun w here whole => ?_⟩
      rw [shows]
      exact State.view_window .view (by omega) here whole
  · intro no bad
    refine ⟨fun isBad => ?_, fun good isBlank => ?_, fun good notBlank => ?_⟩
    · exact State.command_unless_refused hears (by decide) (State.scrollRefusal_badField (s := s.takeTransfer _) isBad)
    · refine State.command_unless_refused hears (by decide)
        ((State.scrollRefusal_good (s := s.takeTransfer _) good).trans (if_neg fun shows => State.blank_iff.mp shows isBlank))
    · have runs : exec (.scroll screen top) s = .next ((((s.takeTransfer (nameByte .scroll)).windowTo screen textRow
          (fun w => { w with top := top, lineMap := none })).settleRows).done .nothing) :=
        State.command_unless_goes hears (by decide)
          ((State.scrollRefusal_good (s := s.takeTransfer _) good).trans (if_pos (State.blank_iff.mpr notBlank)))
      obtain ⟨t, is, h, shows⟩ := State.windowTo_answered (c := .scroll) (n := screen) (rows := textRow)
        (f := fun w => { w with top := top, lineMap := none }) (g := id) (fun _ => rfl) s
      rw [is] at runs
      refine ⟨t, runs, h.done, ⟨h.only, h.flash, h.desk, h.shown⟩, fun w k r here whole key stands text => ?_⟩
      rw [shows]
      exact State.windowTo_stale here whole rfl rfl rfl key stands text
  · exact State.command_unless_refused hears (by decide) (State.cursorRefusal_badField (s := s.takeTransfer _) bad)
  · exact State.command_unless_refused hears (by decide) (State.cursorRefusal_blank (s := s.takeTransfer _) good isBlank)
  · obtain ⟨o, rfl, far⟩ := far
    exact State.command_unless_refused hears (by decide)
      ((State.cursorRefusal_story (s := s.takeTransfer _) good here key stands).trans (if_pos (by simpa using far)))
  · have runs : exec (.cursor screen offset) s = .next ((((s.takeTransfer (nameByte .cursor)).windowTo screen textRow
        (fun w => { w with cursor := offset })).settleRows).done .nothing) := by
      refine State.command_unless_goes hears (by decide)
        ((State.cursorRefusal_story (s := s.takeTransfer _) good here key stands).trans (if_neg fun far => ?_))
      obtain ⟨o, is, far⟩ := (Option.any_eq_true _ _).mp far
      have := near o is
      have := of_decide_eq_true far
      omega
    obtain ⟨t, is, h, shows⟩ := State.windowTo_answered (c := .cursor) (n := screen) (rows := textRow)
      (f := fun w => { w with cursor := offset }) (g := fun w => { w with cursor := offset }) (fun _ => rfl) s
    rw [is] at runs
    obtain ⟨x, there⟩ : ∃ x, t.screen.windows[screen]? = some x := by
      have length := congrArg List.length h.shown
      simp only [List.length_map, List.length_modify] at length
      obtain ⟨low, _⟩ := List.getElem?_eq_some_iff.mp here
      exact ⟨_, List.getElem?_eq_getElem (length ▸ low)⟩
    have at_n := there
    rw [shows] at at_n
    refine ⟨t, x, runs, h.done, ⟨h.only, h.flash, h.desk, h.shown⟩, there, fun map => ?_, fun map whole => ?_,
      fun map text whole => ?_⟩
    · obtain ⟨y, staged, same, top, _⟩ := State.windowTo_mapped (c := .cursor) (f := fun w => { w with cursor := offset })
        here map rfl rfl
      rw [at_n] at staged
      cases staged
      exact ⟨same, top⟩
    · obtain ⟨y, staged, _, _, blank⟩ := State.windowTo_mapped (c := .cursor) (f := fun w => { w with cursor := offset })
        here map rfl rfl
      rw [at_n] at staged
      cases staged
      exact blank whole
    · obtain ⟨y, staged, top, _, dirty⟩ := State.windowTo_stale (c := .cursor) (f := fun w => { w with cursor := offset })
        here whole map rfl rfl key stands text
      rw [at_n] at staged
      cases staged
      exact ⟨top, dirty⟩

end Sys2Proof.Machine


namespace Sys2Proof.Machine

open Sys2Proof

/-! ## A flash applied to the notice (R173) -/

section Applied

variable {text : List Byte} {source : Nat} {s t u : State}

/-- The notice shows this text from this source. -/
def State.flashRepeats (text : List Byte) (source : Nat) (s : State) : Prop :=
  ∃ f, s.screen.flash = some f ∧ f.text = text ∧ f.source = source

theorem State.flashRepeats_iff : s.screen.repeats text source = true ↔ s.flashRepeats text source := by
  simp [Screen.repeats, State.flashRepeats, Option.any_eq_true]

/-- What a flash leaves of the notice, the notices of the desk unit and the windows. -/
structure FlashApplied (text : List Byte) (source : Nat) (s t : State) : Prop where
  only : OnlyScreen s t
  desk : onlyNotices s t
  windows : sameWindows s t
  repeats : s.flashRepeats text source → t.screen.flash = s.screen.flash ∧ t.desk.notices = s.desk.notices
  replaces : ¬s.flashRepeats text source →
    t.screen.flash =
      some { text := text, source := source, arrival := if s.clock.isSet = true then some s.clock.time else none } ∧
    t.desk.latched .flashIn = true ∧ ∀ n : Notice, s.desk.latched n = true → t.desk.latched n = true
  fresh : t.screen.flash ≠ s.screen.flash → ∀ n, n < s.screenCount → t.statusFresh n

theorem State.applyFlash_applied (text : List Byte) (source : Nat) (s : State) :
    FlashApplied text source s (s.applyFlash text source) := by
  unfold State.applyFlash
  by_cases again : s.flashRepeats text source
  · rw [if_pos (State.flashRepeats_iff.mpr again)]
    exact ⟨OnlyScreen.refl s, rfl, rfl, fun _ => ⟨rfl, rfl⟩, fun other => absurd again other, fun changed => absurd rfl changed⟩
  · rw [if_neg fun repeats => again (State.flashRepeats_iff.mp repeats)]
    dsimp only
    have raises := State.raise_rest .flashIn (s.onScreen fun c => { c with
      flash := some { text := text, source := source, arrival := if s.clock.isSet = true then some s.clock.time else none } })
    have latched := State.raise_latched .flashIn (s.onScreen fun c => { c with
      flash := some { text := text, source := source, arrival := if s.clock.isSet = true then some s.clock.time else none } })
    have keeps := (SettleFollows.raise .flashIn (s.onScreen fun c => { c with
      flash := some { text := text, source := source, arrival := if s.clock.isSet = true then some s.clock.time else none } })).notices
    have raised : OnlyScreen s ((s.onScreen fun c => { c with
        flash := some { text := text, source := source,
                        arrival := if s.clock.isSet = true then some s.clock.time else none } }).raise .flashIn) :=
      { OnlyScreen.refl s with }
    generalize (s.onScreen fun c => { c with
      flash := some { text := text, source := source,
                      arrival := if s.clock.isSet = true then some s.clock.time else none } }).raise .flashIn = v at *
    obtain ⟨_, _, _, _, _, _, _, _, screen, desk⟩ := raises
    have rows := State.dirtyStatus_only v
    refine ⟨raised.trans (State.dirtyStatus_onlyScreen v), ?_, ?_, fun repeats => absurd repeats again, fun _ => ⟨?_, ?_, ?_⟩,
      fun _ n low => State.dirtyStatus_fresh v ?_⟩
    · unfold onlyNotices
      rw [rows.desk]
      exact desk
    · refine Eq.trans (State.dirtyStatus_sameWindows v) ?_
      rw [screen]
      rfl
    · rw [rows.flash, screen]
      rfl
    · rw [rows.desk]
      exact latched
    · intro n was
      rw [rows.desk]
      exact keeps n was
    · unfold State.screenCount
      rw [show v.desk = _ from desk]
      exact low

theorem State.settleSlips_screen (s : State) : s.settleSlips.screen = s.screen := by
  have once : ∀ u : State, u.slipWriterRequest.screen = u.screen := fun u => by
    unfold State.slipWriterRequest
    repeat' split
    all_goals rfl
  exact (once _).trans (once s)

theorem State.statusFresh_settle {n : Nat} (fresh : s.statusFresh n) : s.settle.statusFresh n := by
  unfold State.settle
  refine State.settleRows_fresh (statusFresh_congr fresh ?_ ?_ ?_)
  · exact (State.settleSlips_screen _).trans (State.settleFits_screen s)
  · exact (State.settleSlips_follows s.settleFits).clock.trans (State.settleFits_follows s).clock
  · rw [(State.settleSlips_follows s.settleFits).deskRest, (State.settleFits_follows s).deskRest]

end Applied

/-! ## SEND FLASH (R174) -/

section Send

variable {text : List Byte} {dest : Address} {s : State}

theorem goodFlash_iff :
    (within 1 32 text.length && goodDestination s.desk.station dest) = true ↔
      1 ≤ text.length ∧ text.length ≤ 32 ∧
        (dest.form = .station → 1 ≤ dest.number ∧ dest.number ≤ 30 ∧ dest.number ≠ s.desk.station) ∧
        (dest.form = .role → 1 ≤ dest.number ∧ dest.number ≤ 15) := by
  rw [Bool.and_eq_true, within_iff, goodDestination_iff, and_assoc]

theorem cleanText_iff : text.all printable = true ↔ ∀ c ∈ text, 0x20 ≤ c.toNat ∧ c.toNat ≤ 0x7E := by
  simp [List.all_eq_true, printable, within_iff]

theorem Traffic.holdsKind_iff {k : FrameKind} {t : Traffic} : t.holdsKind k = true ↔ ∃ e ∈ t.queue, e.frame.kind = k := by
  simp [Traffic.holdsKind]

/-- SEND FLASH carried out in the state that took it. -/
theorem State.sendFlash_answered (room : s.traffic.heldShared < 3) :
    ∃ t, (s.takeTransfer (nameByte .sendFlash)).sendFlash text dest = t ∧ answeredDone .sendFlash .nothing t ∧
      OnlyScreen
        { s with
            traffic :=
              { s.traffic with
                  queue := s.traffic.queue ++
                    [newEntry .flash { kind := .flash, dest := dest, payload := text }] } } t ∧
      sameWindows s t ∧
      ((s.flashRepeats text s.desk.station → t.screen.flash = s.screen.flash ∧ t.desk.notices = s.desk.notices) ∧
        (¬s.flashRepeats text s.desk.station →
          t.screen.flash =
            some
              { text := text, source := s.desk.station,
                arrival := if s.clock.isSet = true then some s.clock.time else none } ∧
          t.desk.latched .flashIn = true ∧ ∀ n : Notice, s.desk.latched n = true → t.desk.latched n = true)) ∧
      (t.screen.flash ≠ s.screen.flash → ∀ n, n < s.screenCount → t.statusFresh n) ∧
      onlyNotices (s.replied .sendFlash .done none .nothing) t := by
  have sends : (s.takeTransfer (nameByte .sendFlash)).send .flash (flashFrame dest text) =
      { s.takeTransfer (nameByte .sendFlash) with traffic :=
        { s.traffic with queue := s.traffic.queue ++ [newEntry .flash { kind := .flash, dest := dest, payload := text }] } } := by
    rw [State.send_shared rfl, Traffic.shared,
      if_pos (show (s.takeTransfer (nameByte .sendFlash)).traffic.heldShared < 3 from room)]
    rfl
  refine ⟨_, rfl, ?_⟩
  unfold State.sendFlash
  rw [sends]
  have h := State.applyFlash_applied text s.desk.station { s.takeTransfer (nameByte .sendFlash) with traffic :=
      { s.traffic with queue := s.traffic.queue ++ [newEntry .flash { kind := .flash, dest := dest, payload := text }] } }
  rw [show ({ s.takeTransfer (nameByte .sendFlash) with traffic :=
      { s.traffic with queue := s.traffic.queue ++ [newEntry .flash { kind := .flash, dest := dest, payload := text }] } } :
    State).desk.station = s.desk.station from rfl]
  generalize State.applyFlash text s.desk.station _ = u at h ⊢
  have rows := State.settleRows_follows u
  have freshRows : ∀ n, u.statusFresh n → u.settleRows.statusFresh n := fun _ => State.settleRows_fresh
  generalize u.settleRows = v at rows freshRows ⊢
  have desk : v.desk = u.desk := rows.desk
  have flash : (v.done .nothing).screen.flash = u.screen.flash := rows.flash
  have latched : ∀ n, (v.done .nothing).desk.latched n = u.desk.latched n := fun n => by
    rw [← desk]
    rfl
  have taken := h.desk
  refine ⟨answeredDone_done _ ?_ ?_, ?_, Eq.trans rows.windows h.windows, ⟨fun repeats => ?_, fun other => ?_⟩,
    fun changed n low => ?_, ?_⟩
  · rw [desk, taken]
    rfl
  · rw [desk, taken]
    rfl
  · exact (h.only.trans rows.onlyScreen).withDesk s.desk (v.done .nothing).desk
  · obtain ⟨same, notices⟩ := h.repeats repeats
    exact ⟨flash.trans same, (congrArg Desk.notices desk).trans notices⟩
  · obtain ⟨same, notice, keeps⟩ := h.replaces other
    exact ⟨flash.trans same, (latched _).trans notice, fun n was => (latched n).trans (keeps n was)⟩
  · refine statusFresh_congr (freshRows n (h.fresh (fun same => changed (flash.trans same)) n low)) rfl rfl rfl
  · unfold onlyNotices at taken ⊢
    simp only [State.done, State.respond, State.onDesk]
    rw [desk, taken]
    rfl

theorem State.flashRefusal_eq :
    (s.takeTransfer (nameByte .sendFlash)).flashRefusal text dest =
      if !(within 1 32 text.length && goodDestination s.desk.station dest) then some .badField
      else if !text.all printable then some .badText
      else if s.traffic.holdsKind .flash then some .busy
      else if !s.traffic.hasRoom .flash then some .full
      else none := rfl

end Send

/-- A received FLASH (R173). -/
theorem exec_flashDispatch {x : RxSlot} {rest : List RxSlot} {s : State} (slots : s.traffic.slots = x :: rest)
    (kind : x.kind = .flash) :
    let text := x.payload.map fun c => if 0x20 ≤ c.toNat ∧ c.toNat ≤ 0x7E then c else 0x3F#8
    ∃ u t : State, exec .flashDispatch s = .next t ∧
      OnlyScreen { s with traffic := { s.traffic with slots := rest } } u ∧ onlyNotices s u ∧ sameWindows s u ∧
      ((s.flashRepeats text x.source → u.screen.flash = s.screen.flash ∧ u.desk.notices = s.desk.notices) ∧
        (¬s.flashRepeats text x.source →
          u.screen.flash =
            some { text := text, source := x.source, arrival := if s.clock.isSet = true then some s.clock.time else none } ∧
          u.desk.latched .flashIn = true ∧ ∀ n : Notice, s.desk.latched n = true → u.desk.latched n = true)) ∧
      SettleFollows u t ∧ (t.screen.flash ≠ s.screen.flash → ∀ n, n < s.screenCount → t.statusFresh n) := by
  intro text
  have runs : exec .flashDispatch s = .next ((flashOwner x s).freeOldest).settle :=
    congrArg Host.Outcome.next (exec_dispatch slots kind)
  have is : flashOwner x s = s.applyFlash text x.source := by
    have same : (substitute printable x.payload).1 = text := by
      rw [substitute_fst]
      refine List.map_congr_left fun c _ => ?_
      simp [printable, within_iff]
    rw [flashOwner, same]
  have h := State.applyFlash_applied text x.source s
  rw [is] at runs
  generalize s.applyFlash text x.source = u at runs h
  have kept : u.traffic.slots = x :: rest := (congrArg Traffic.slots h.only.traffic).trans slots
  rw [State.freeOldest_eq kept] at runs
  have only : OnlyScreen { s with traffic := { s.traffic with slots := rest } } { u with traffic := { u.traffic with slots := rest } } :=
    { h.only with
      traffic := by
        show ({ u.traffic with slots := rest } : Traffic) = _
        rw [h.only.traffic] }
  have fresh : u.screen.flash ≠ s.screen.flash → ∀ n, n < s.screenCount →
      ({ u with traffic := { u.traffic with slots := rest } } : State).settle.statusFresh n :=
    fun changed n low => State.statusFresh_settle (statusFresh_congr (h.fresh changed n low) rfl rfl rfl)
  have follows := State.settle_follows { u with traffic := { u.traffic with slots := rest } }
  generalize ({ u with traffic := { u.traffic with slots := rest } } : State).settle = t at *
  refine ⟨_, t, runs, only, h.desk, h.windows, ⟨h.repeats, h.replaces⟩, follows, fun changed => fresh fun same => changed ?_⟩
  exact follows.flash.trans same

/-- The hold timer's expiry clears the notice (R175). -/
theorem exec_holdTimerExpiry {s : State} (some_ : s.screen.flash ≠ none) :
    ∃ t : State, exec .holdTimerExpiry s = .next t ∧ OnlyScreen s t ∧ t.desk = s.desk ∧ sameWindows s t ∧
      t.screen.flash = none ∧ ∀ n, n < s.screenCount → t.statusFresh n := by
  have runs : exec .holdTimerExpiry s = .next ((s.onScreen fun c => { c with flash := none }).dirtyStatus).settleRows :=
    congrArg Host.Outcome.next (if_pos (Option.isSome_iff_ne_none.mpr some_))
  have only := State.dirtyStatus_only (s.onScreen fun c => { c with flash := none })
  have windows := State.dirtyStatus_sameWindows (s.onScreen fun c => { c with flash := none })
  have cleared : OnlyScreen s (s.onScreen fun c => { c with flash := none }) := { OnlyScreen.refl s with }
  have dirtied := cleared.trans (State.dirtyStatus_onlyScreen (s.onScreen fun c => { c with flash := none }))
  have fresh : ∀ n, n < s.screenCount → (s.onScreen fun c => { c with flash := none }).dirtyStatus.statusFresh n :=
    fun n low => State.dirtyStatus_fresh _ low
  have flash := only.flash
  have desk := only.desk
  generalize (s.onScreen fun c => { c with flash := none }).dirtyStatus = w at *
  have rows := State.settleRows_follows w
  have freshRows : ∀ n, n < s.screenCount → w.settleRows.statusFresh n := fun n low => State.settleRows_fresh (fresh n low)
  generalize w.settleRows = t at *
  exact ⟨t, runs, dirtied.trans rows.onlyScreen, rows.desk.trans desk, Eq.trans rows.windows windows, rows.flash.trans flash,
    freshRows⟩

/-- Settles O51. -/
theorem flashShown : Obligations.FlashShown := by
  unfold Obligations.FlashShown
  intro applied fresh
  refine ⟨fun text dest s hears => ?_, fun x rest s slots kind => ?_, fun s none_ => ?_, fun s some_ => ?_⟩
  · intro no good clean waits
    have room : (!s.traffic.hasRoom .flash) = true ↔ 3 ≤ s.traffic.heldShared := by
      rw [Traffic.hasRoom_shared rfl]
      simp
    refine ⟨fun bad => ?_, fun isGood dirty => ?_, fun isGood isClean held => ?_, fun isGood isClean free full => ?_,
      fun isGood isClean free space => ?_⟩
    · exact State.command_unless_refused hears (by decide) (State.flashRefusal_eq.trans (if_pos (test_fails goodFlash_iff bad)))
    · exact State.command_unless_refused hears (by decide) (State.flashRefusal_eq.trans
        ((if_neg (not_test goodFlash_iff isGood)).trans (if_pos (test_fails cleanText_iff dirty))))
    · exact State.command_unless_refused hears (by decide) (State.flashRefusal_eq.trans
        ((if_neg (not_test goodFlash_iff isGood)).trans ((if_neg (not_test cleanText_iff isClean)).trans
          (if_pos (Traffic.holdsKind_iff.mpr held)))))
    · exact State.command_unless_refused hears (by decide) (State.flashRefusal_eq.trans
        ((if_neg (not_test goodFlash_iff isGood)).trans ((if_neg (not_test cleanText_iff isClean)).trans
          ((if_neg fun held => free (Traffic.holdsKind_iff.mp held)).trans (if_pos (room.mpr full))))))
    · obtain ⟨t, is, answered⟩ := State.sendFlash_answered (text := text) (dest := dest) space
      refine ⟨t, ?_, answered⟩
      rw [← is]
      exact State.command_unless_goes hears (by decide) (State.flashRefusal_eq.trans
        ((if_neg (not_test goodFlash_iff isGood)).trans ((if_neg (not_test cleanText_iff isClean)).trans
          ((if_neg fun held => free (Traffic.holdsKind_iff.mp held)).trans (if_neg fun full => by
            have := room.mp full
            omega)))))
  · intro text
    exact exec_flashDispatch slots kind
  · exact congrArg Host.Outcome.next (if_neg (by rw [none_]; exact Bool.false_ne_true))
  · exact exec_holdTimerExpiry some_

end Sys2Proof.Machine


namespace Sys2Proof.Machine

open Sys2Proof

/-! ## What a move of the time leaves alone (R141, R147, R148) -/

/-- A move of the clock, apart from the plans that close: editions and locks of stories may change, and what R147
lets happen at the fits, the page engine, the port, the rows and the notices. -/
structure Shifted (s t : State) : Prop where
  stories : t.store.stories.map Story.undated = s.store.stories.map Story.undated
  storeRest : t.store = { s.store with stories := t.store.stories }
  line : t.line = s.line
  pass : t.pass = s.pass
  counts : t.traffic.counts = s.traffic.counts
  slots : t.traffic.slots = s.traffic.slots
  queue : (t.traffic.queue.filter fun e => decide (e.owner ≠ .page)) =
    s.traffic.queue.filter fun e => decide (e.owner ≠ .page)
  faces : t.fit.faces = s.fit.faces
  editKey : t.fit.editKey = s.fit.editKey
  busy : ∀ a, s.port.busy = some a → ∃ x, t.port.busy = some { a with aside := x }
  desk : t.desk =
    { s.desk with
        notices := t.desk.notices, attention := t.desk.attention, lamp := t.desk.lamp, lit := t.desk.lit,
        inputs := t.desk.inputs }
  notices : ∀ n, s.desk.latched n = true → t.desk.latched n = true
  clock : t.clock = { s.clock with time := t.clock.time, isSet := t.clock.isSet, editions := t.clock.editions }
  flash : t.screen.flash = s.screen.flash
  lanes : t.screen.lanes = s.screen.lanes
  windows : sameWindows s t
  ended : ∀ slot p, s.plan slot = some p → p.state = .dropped → t.plan slot = some p

namespace Shifted

variable {s t u : State}

theorem refl (s : State) : Shifted s s where
  stories := rfl
  storeRest := rfl
  line := rfl
  pass := rfl
  counts := rfl
  slots := rfl
  queue := rfl
  faces := rfl
  editKey := rfl
  busy := fun a h => ⟨a.aside, h⟩
  desk := rfl
  notices := fun _ h => h
  clock := rfl
  flash := rfl
  lanes := rfl
  windows := rfl
  ended := fun _ _ h _ => h

theorem trans (h : Shifted s t) (k : Shifted t u) : Shifted s u where
  stories := k.stories.trans h.stories
  storeRest := by
    have second := k.storeRest
    rw [h.storeRest] at second
    exact second
  line := k.line.trans h.line
  pass := k.pass.trans h.pass
  counts := k.counts.trans h.counts
  slots := k.slots.trans h.slots
  queue := k.queue.trans h.queue
  faces := k.faces.trans h.faces
  editKey := k.editKey.trans h.editKey
  busy := fun a there => by
    obtain ⟨_, once⟩ := h.busy a there
    obtain ⟨x, twice⟩ := k.busy _ once
    exact ⟨x, twice⟩
  desk := by
    have second := k.desk
    rw [h.desk] at second
    exact second
  notices := fun n latched => k.notices n (h.notices n latched)
  clock := by
    have second := k.clock
    rw [h.clock] at second
    exact second
  flash := k.flash.trans h.flash
  lanes := k.lanes.trans h.lanes
  windows := Eq.trans k.windows h.windows
  ended := fun slot p plan dropped => k.ended slot p (h.ended slot p plan dropped) dropped

end Shifted

/-- Such a change that tells the screen unit and the desk unit nothing of the clock. -/
structure Quiet (s t : State) : Prop extends Shifted s t where
  sameClock : t.clock = s.clock
  current : t.screen.status.current = s.screen.status.current
  told : t.desk.inputs.current = s.desk.inputs.current

namespace Quiet

variable {s t u : State}

theorem refl (s : State) : Quiet s s := { Shifted.refl s with sameClock := rfl, current := rfl, told := rfl }

theorem trans (h : Quiet s t) (k : Quiet t u) : Quiet s u :=
  { h.toShifted.trans k.toShifted with
    sameClock := k.sameClock.trans h.sameClock
    current := k.current.trans h.current
    told := k.told.trans h.told }

theorem ite {c : Prop} [Decidable c] (h : Quiet s t) (k : Quiet s u) : Quiet s (if c then t else u) := by
  split
  · exact h
  · exact k

/-- What follows at once, where the plans that have ended stand. -/
theorem ofFollows (h : SettleFollows s t) (ended : ∀ slot p, s.plan slot = some p → p.state = .dropped → t.plan slot = some p) :
    Quiet s t where
  stories := by
    have same := congrArg (List.map Story.undated) h.stories
    simp only [List.map_map] at same
    exact same
  storeRest := h.storeRest
  line := h.line
  pass := h.pass
  counts := h.counts
  slots := h.slots
  queue := by
    obtain ⟨l, queue, page⟩ := h.queue
    have none_ : (l.filter fun e => decide (e.owner ≠ .page)) = [] :=
      List.filter_eq_nil_iff.mpr fun e mem => by simp [page e mem]
    rw [queue, List.filter_append, none_, List.append_nil]
  faces := h.faces
  editKey := h.editKey
  busy := h.busy
  desk := by
    have rest := h.deskRest
    rw [congrArg Desk.inputs rest]
    exact rest
  notices := h.notices
  clock := by rw [h.clock]
  flash := h.flash
  lanes := h.lanes
  windows := h.windows
  ended := ended
  sameClock := h.clock
  current := by rw [h.status]
  told := by rw [h.deskRest]

theorem raise (n : Notice) (s : State) : Quiet s (s.raise n) := ofFollows (SettleFollows.raise n s) fun _ _ h _ => h

theorem settleFits (s : State) : Quiet s s.settleFits :=
  ofFollows (State.settleFits_follows s) fun slot p plan dropped =>
    (planRests_kept slot (q := p) ⟨by rw [dropped]; nofun, by rw [dropped]; nofun⟩).settleFits plan

theorem settle (s : State) : Quiet s s.settle := by
  refine (settleFits s).trans (ofFollows ?_ fun slot p plan _ => ?_)
  · exact (State.settleSlips_follows _).trans (State.settleRows_follows _).settles
  · have rest : PageStands s.settleFits s.settle := PageStands.ofSlips s.settleFits
    unfold State.plan at plan ⊢
    rw [rest.page]
    exact plan

/-- What changes windows and the row builder alone. -/
theorem ofScreen (h : OnlyScreen s t) (desk : t.desk = s.desk) (flash : t.screen.flash = s.screen.flash)
    (windows : sameWindows s t) : Quiet s t where
  stories := by rw [h.store]
  storeRest := by rw [h.store]
  line := h.line
  pass := h.pass
  counts := by rw [h.traffic]
  slots := by rw [h.traffic]
  queue := by rw [h.traffic]
  faces := by rw [h.fit]
  editKey := by rw [h.fit]
  busy := h.busy
  desk := by rw [desk]
  notices := fun n latched => by rw [desk]; exact latched
  clock := by rw [h.clock]
  flash := flash
  lanes := h.lanes
  windows := windows
  ended := fun slot p plan _ => by
    unfold State.plan
    rw [h.page]
    exact plan
  sameClock := h.clock
  current := by rw [h.status]
  told := by rw [desk]

theorem statusChanged (s : State) : Quiet s s.statusChanged :=
  ofScreen (State.dirtyStatus_onlyScreen s) (State.dirtyStatus_only s).desk (State.dirtyStatus_only s).flash
    (State.dirtyStatus_sameWindows s)

/-- A change of the page engine that leaves its plans. -/
theorem onPage {f : PageEngine → PageEngine} (s : State) (plans : (f s.page).plans = s.page.plans) : Quiet s (s.onPage f) :=
  ofFollows (SettleFollows.onPage f s) fun slot p plan _ => by
    unfold State.plan
    rw [show (s.onPage f).page.plans = s.page.plans from plans]
    exact plan

theorem withdrawFits (s : State) : Quiet s (s.onFit FitEngine.withdrawPage) :=
  ofFollows (SettleFollows.onFit s (FitEngine.withdrawPage_faces _) (FitEngine.withdrawPage_editKey _)) fun _ _ h _ => h

theorem abandon (mine : Purpose → Bool) (s : State) : Quiet s (s.onPort (Port.abandon mine)) :=
  ofFollows (SettleFollows.abandon mine s) fun _ _ h _ => h

theorem sendPage (f : OutFrame) (s : State) : Quiet s (s.send .page f) :=
  ofFollows (SettleFollows.sendPage f s) fun _ _ h _ => by
    unfold State.send
    split <;> exact h

end Quiet

/-- A withdrawal leaves the entries of the other owners. -/
theorem Traffic.withdraw_filter {o : Owner} {q : Owner → Bool} (out : q o = false) (t : Traffic) :
    ((t.withdraw o).queue.filter fun e => q e.owner) = t.queue.filter fun e => q e.owner := by
  have free : ∀ e ∈ t.queue.filter fun e => q e.owner, e.heldBy o = false := fun e mem => by
    have holds := (List.mem_filter.mp mem).2
    have other : e.owner ≠ o := fun mine => by
      rw [mine, out] at holds
      cases holds
    simp [OutEntry.heldBy, other]
  have same : ((fun e : OutEntry => q e.owner) ∘ fun e : OutEntry => if e.heldBy o then { e with withdrawing := true } else e) =
      fun e => q e.owner := by
    funext e
    show q (if e.heldBy o then { e with withdrawing := true } else e).owner = _
    split <;> rfl
  unfold Traffic.withdraw
  dsimp only
  rw [List.filter_map, same, List.filter_comm,
    List.filter_eq_self.mpr fun e mem => by simp [free e mem]]
  exact (List.map_congr_left fun e mem => if_neg (by simp [free e mem])).trans (List.map_id _)

namespace Quiet

variable {s : State}

theorem withdrawPage (s : State) : Quiet s (s.withdraw .page) :=
  { Quiet.refl s with
    queue := Traffic.withdraw_filter (q := fun o => decide (o ≠ .page)) (by simp) s.traffic }

theorem stopTransfer (reason : DropReason) (p : Plan) (s : State) : Quiet s (s.stopTransfer reason p) := by
  unfold State.stopTransfer
  dsimp only
  split
  · have first := ((abandon Purpose.isPage s).trans (withdrawPage _)).trans (onPage
      (f := fun e => { e with transfer := { Transfer.clear with drop := some reason }, ready := none }) _ rfl)
    split
    · exact first.trans (sendPage _ _)
    · exact first.trans (onPage _ rfl)
  · exact (abandon _ s).trans (onPage _ rfl)

theorem endTransfer (o : PlanState) (p : Plan) (s : State) : Quiet s (s.endTransfer o p) := by
  unfold State.endTransfer
  split
  · exact stopTransfer _ p s
  · exact onPage s rfl

theorem planLeaves (edition : Nat) (s : State) : Quiet s (s.planLeaves edition) := by
  obtain ⟨attention, lamp, lit, told⟩ :=
    State.tellDesk_told (fun i => { i with planned := i.planned.modify (edition - 1) (· - 1) }) s
  rw [State.planLeaves, told]
  exact { Quiet.refl s with desk := rfl, told := rfl }

theorem releaseLocks (l : List Placement) (s : State) : Quiet s (l.foldl (fun s q => s.releaseLock q.key) s) := by
  refine ofFollows (SettleFollows.foldl (fun s q => SettleFollows.releaseLock q.key s) l s) fun slot p plan _ => ?_
  rw [releaseLocks_eq]
  exact plan

/-- A plan that has not ended by its edition's close ends. -/
theorem endPlan {slot : Nat} {p : Plan} (o : PlanState) (plan : s.plan slot = some p) (moves : p.state ≠ .dropped) :
    Quiet s (s.endPlan slot o) := by
  unfold State.endPlan
  rw [plan]
  dsimp only
  have ended : Quiet s (s.onPlan slot fun p => { p with state := o }) := by
    refine ofFollows (SettleFollows.onPlan slot _ s) fun m q there dropped => ?_
    have other : slot ≠ m := by
      rintro rfl
      rw [plan] at there
      cases there
      exact moves dropped
    exact (State.onPlan_other other).trans there
  have locks := ite (c := p.state.underWay = true) (ended.trans (releaseLocks p.placements _)) ended
  have fits := ite (c := p.state = .fitting) ((locks.trans (withdrawFits _)).trans
    (onPage (f := fun e => { e with requests := [], outstanding := [] }) _ rfl)) locks
  have transfer := ite (c := p.state = .sending) (fits.trans (endTransfer o p _)) fits
  have order := transfer.trans (onPage (f := fun e => { e with sendOrder := e.sendOrder.filter (· ≠ slot) }) _ rfl)
  have planned := ite (c := p.state = .planned) (order.trans (planLeaves p.edition _)) order
  cases o.notice with
  | none => exact planned
  | some m => exact planned.trans (raise m _)

end Quiet

end Sys2Proof.Machine


namespace Sys2Proof.Machine

open Sys2Proof

/-! ## A plan that its edition's close ends (R125, R137) -/

section Drops

variable {s t : State} {slot : Nat} {p : Plan}

/-- The store, the plans and the send order stand. -/
def pagesStand (s t : State) : Prop :=
  t.store = s.store ∧ t.page.plans = s.page.plans ∧ t.page.sendOrder = s.page.sendOrder

theorem State.endTransfer_pages (o : PlanState) (p : Plan) (s : State) : pagesStand s (s.endTransfer o p) := by
  unfold State.endTransfer
  split
  · obtain ⟨store, _, _, _, _, _, _, _, plans, order⟩ := State.stopTransfer_rest _ p s
    exact ⟨store, plans, order⟩
  · exact ⟨rfl, rfl, rfl⟩

/-- What the end of a plan at its edition's close does to the plans, the send order and the locks. -/
theorem State.endPlan_dropped (plan : s.plan slot = some p) :
    (s.endPlan slot .dropped).store =
        { s.store with
            stories := unlockAll (if p.state.underWay then p.placements.map (·.key) else []) s.store.stories } ∧
      (s.endPlan slot .dropped).page.plans = (s.onPlan slot fun p => { p with state := .dropped }).page.plans ∧
      (s.endPlan slot .dropped).page.sendOrder = s.page.sendOrder.filter (· ≠ slot) ∧
      (s.endPlan slot .dropped).desk.latched .pageDropped = true := by
  unfold State.endPlan
  rw [plan]
  dsimp only
  have changed : (s.onPlan slot fun p => { p with state := .dropped }).store = s.store ∧
    (s.onPlan slot fun p => { p with state := .dropped }).page.sendOrder = s.page.sendOrder := ⟨rfl, rfl⟩
  generalize (s.onPlan slot fun p => { p with state := .dropped }) = a at changed ⊢
  obtain ⟨store, order⟩ := changed
  have locks : (if p.state.underWay then p.placements.foldl (fun s q => s.releaseLock q.key) a else a).store =
        { s.store with
            stories := unlockAll (if p.state.underWay then p.placements.map (·.key) else []) s.store.stories } ∧
      (if p.state.underWay then p.placements.foldl (fun s q => s.releaseLock q.key) a else a).page = a.page := by
    split
    · rw [releaseLocks_eq, State.onStore_store, store]
      exact ⟨rfl, rfl⟩
    · refine ⟨?_, rfl⟩
      rw [store]
      simp [unlockAll]
  generalize (if p.state.underWay then p.placements.foldl (fun s q => s.releaseLock q.key) a else a) = b at locks ⊢
  obtain ⟨store, page⟩ := locks
  have fits : pagesStand b (if p.state = .fitting then
      (b.onFit FitEngine.withdrawPage).onPage fun e => { e with requests := [], outstanding := [] } else b) := by
    split <;> exact ⟨rfl, rfl, rfl⟩
  generalize (if p.state = .fitting then
    (b.onFit FitEngine.withdrawPage).onPage fun e => { e with requests := [], outstanding := [] } else b) = c at fits ⊢
  obtain ⟨store', plans', order'⟩ := fits
  have transfer : pagesStand c (if p.state = .sending then c.endTransfer .dropped p else c) := by
    split
    · exact State.endTransfer_pages _ p c
    · exact ⟨rfl, rfl, rfl⟩
  generalize (if p.state = .sending then c.endTransfer .dropped p else c) = d at transfer ⊢
  obtain ⟨store'', plans'', order''⟩ := transfer
  have planned : pagesStand (d.onPage fun e => { e with sendOrder := e.sendOrder.filter (· ≠ slot) })
      (if p.state = .planned then (d.onPage fun e => { e with sendOrder := e.sendOrder.filter (· ≠ slot) }).planLeaves p.edition
        else d.onPage fun e => { e with sendOrder := e.sendOrder.filter (· ≠ slot) }) := by
    split <;> exact ⟨rfl, rfl, rfl⟩
  generalize (if p.state = .planned then (d.onPage fun e => { e with sendOrder := e.sendOrder.filter (· ≠ slot) }).planLeaves p.edition
    else d.onPage fun e => { e with sendOrder := e.sendOrder.filter (· ≠ slot) }) = f at planned ⊢
  obtain ⟨store''', plans''', order'''⟩ := planned
  refine ⟨store'''.trans (store''.trans (store'.trans store)), plans'''.trans (plans''.trans (plans'.trans (congrArg _ page))),
    order'''.trans ?_, State.raise_latched ..⟩
  show d.page.sendOrder.filter _ = _
  rw [order'', order', page, order]

end Drops

/-! ## The plans that a close ends (R137) -/

section Closed

variable {s t u : State} {A B : Nat → Nat → Prop}

/-- A plan that the close of its edition ends. -/
def Plan.open_ (p : Plan) : Prop := p.state = .planned ∨ p.state.underWay = true

/-- From `s` to `t` the plans have ended that are PLANNED or under way in a slot and of an edition as `A` says; their
placements' locks are released, and nothing else of the plans and the stories has changed. -/
structure PlansClosed (A : Nat → Nat → Prop) (s t : State) : Prop where
  quiet : Quiet s t
  free : ∀ m, s.plan m = none → t.plan m = none
  stands : ∀ m p, s.plan m = some p → ¬(A m p.edition ∧ p.open_) → t.plan m = some p
  drops : ∀ m p, s.plan m = some p → A m p.edition → p.open_ →
    t.plan m = some { p with state := .dropped } ∧ m ∉ t.page.sendOrder ∧ t.desk.latched .pageDropped = true
  order : ∀ m ∈ t.page.sendOrder, m ∈ s.page.sendOrder
  locks : ∃ keys, t.store = { s.store with stories := unlockAll keys s.store.stories } ∧
    ∀ k, k ∈ keys ↔ ∃ m p, s.plan m = some p ∧ A m p.edition ∧ p.state.underWay = true ∧ k ∈ p.placements.map (·.key)

theorem unlockAll_append (k l : List Key) (stories : List Story) : unlockAll l (unlockAll k stories) = unlockAll (k ++ l) stories := by
  unfold unlockAll
  rw [List.map_map]
  refine List.map_congr_left fun r _ => ?_
  simp only [Function.comp, List.mem_append]
  by_cases first : r.key ∈ k <;> by_cases second : r.key ∈ l <;> simp [first, second]

namespace PlansClosed

theorem refl (none_ : ∀ m e, ¬A m e) (s : State) : PlansClosed A s s where
  quiet := Quiet.refl s
  free := fun _ h => h
  stands := fun _ _ h _ => h
  drops := fun m _ _ closes _ => absurd closes (none_ m _)
  order := fun _ h => h
  locks := ⟨[], by simp [unlockAll], fun k => by simp [none_]⟩

theorem congr (h : PlansClosed A s t) (same : ∀ m e, A m e ↔ B m e) : PlansClosed B s t where
  quiet := h.quiet
  free := h.free
  stands := fun m p plan notClosed => h.stands m p plan fun closed => notClosed ⟨(same m _).mp closed.1, closed.2⟩
  drops := fun m p plan closes => h.drops m p plan ((same m _).mpr closes)
  order := h.order
  locks := by
    obtain ⟨keys, store, mem⟩ := h.locks
    exact ⟨keys, store, fun k => (mem k).trans (by simp only [same])⟩

theorem trans (h : PlansClosed A s t) (k : PlansClosed B t u) : PlansClosed (fun m e => A m e ∨ B m e) s u where
  quiet := h.quiet.trans k.quiet
  free := fun m plan => k.free m (h.free m plan)
  stands := fun m p plan stays =>
    k.stands m p (h.stands m p plan fun closed => stays ⟨.inl closed.1, closed.2⟩) fun closed => stays ⟨.inr closed.1, closed.2⟩
  drops := fun m p plan closes isOpen => by
    by_cases first : A m p.edition
    · obtain ⟨dropped, out, notice⟩ := h.drops m p plan first isOpen
      refine ⟨k.stands m _ dropped fun closed => ?_, fun mem => out (k.order m mem), k.quiet.notices _ notice⟩
      rcases closed.2 with planned | underWay
      · cases planned
      · cases underWay
    · exact k.drops m p (h.stands m p plan fun closed => first closed.1) (closes.resolve_left first) isOpen
  order := fun m mem => h.order m (k.order m mem)
  locks := by
    obtain ⟨first, store, memFirst⟩ := h.locks
    obtain ⟨second, store', memSecond⟩ := k.locks
    refine ⟨first ++ second, ?_, fun key => ?_⟩
    · rw [store', store]
      show ({ s.store with stories := unlockAll second (unlockAll first s.store.stories) } : Store) = _
      rw [unlockAll_append]
    · rw [List.mem_append, memFirst, memSecond]
      constructor
      · rintro (⟨m, p, plan, closes, underWay, mem⟩ | ⟨m, q, plan, closes, underWay, mem⟩)
        · exact ⟨m, p, plan, .inl closes, underWay, mem⟩
        · cases before : s.plan m with
          | none =>
            rw [h.free m before] at plan
            cases plan
          | some p =>
            by_cases ended : A m p.edition ∧ p.open_
            · rw [(h.drops m p before ended.1 ended.2).1] at plan
              cases plan
              cases underWay
            · rw [h.stands m p before ended] at plan
              cases plan
              exact ⟨m, _, before, .inr closes, underWay, mem⟩
      · rintro ⟨m, p, plan, closes, underWay, mem⟩
        by_cases ended : A m p.edition
        · exact .inl ⟨m, p, plan, ended, underWay, mem⟩
        · exact .inr ⟨m, p, h.stands m p plan fun closed => ended closed.1, closes.resolve_left ended, underWay, mem⟩

/-- The close at one slot. -/
theorem atSlot (edition slot : Nat) (s : State) :
    PlansClosed (fun m e => m = slot ∧ e = edition) s
      (if (s.plan slot).any fun p =>
          decide (p.edition = edition) && (decide (p.state = .planned) || p.state.underWay) then
        s.endPlan slot .dropped
      else s) := by
  split
  · next closes =>
    obtain ⟨p, plan, isOpen⟩ := (Option.any_eq_true _ _).mp closes
    simp only [Bool.and_eq_true, decide_eq_true_eq, Bool.or_eq_true] at isOpen
    obtain ⟨isEdition, isOpen⟩ := isOpen
    have moves : p.state ≠ .dropped := by
      rintro dropped
      rw [dropped] at isOpen
      rcases isOpen with planned | underWay
      · cases planned
      · cases underWay
    obtain ⟨store, plans, order, notice⟩ := State.endPlan_dropped plan
    have others : ∀ m, m ≠ slot → (s.endPlan slot .dropped).plan m = s.plan m := fun m other => by
      rw [← State.onPlan_other (s := s) (f := fun p => { p with state := .dropped }) (Ne.symm other)]
      unfold State.plan
      rw [plans]
    have here : (s.endPlan slot .dropped).plan slot = some { p with state := .dropped } := by
      have changed : (s.onPlan slot fun p => { p with state := .dropped }).plan slot = some { p with state := .dropped } := by
        rw [State.onPlan_plan, plan, Option.map_some]
      rw [← changed]
      unfold State.plan
      rw [plans]
    exact {
      quiet := Quiet.endPlan _ plan moves
      free := fun m none_ => by
        have other : m ≠ slot := by
          rintro rfl
          rw [plan] at none_
          cases none_
        rw [others m other, none_]
      stands := fun m q there stays => by
        have other : m ≠ slot := by
          rintro rfl
          rw [plan] at there
          cases there
          exact stays ⟨⟨rfl, isEdition⟩, isOpen⟩
        rw [others m other, there]
      drops := fun m q there is _ => by
        obtain ⟨same, _⟩ := is
        subst same
        have is : q = p := Option.some.inj (there.symm.trans plan)
        subst is
        exact ⟨here, by rw [order]; simp, notice⟩
      order := fun m mem => by
        rw [order] at mem
        exact List.mem_of_mem_filter mem
      locks := ⟨_, store, fun k => by
        constructor
        · intro mem
          by_cases underWay : p.state.underWay = true
          · rw [if_pos underWay] at mem
            exact ⟨slot, p, plan, ⟨rfl, isEdition⟩, underWay, mem⟩
          · rw [if_neg underWay] at mem
            cases mem
        · rintro ⟨m, q, there, ⟨rfl, _⟩, underWay, mem⟩
          rw [plan] at there
          cases there
          rw [if_pos underWay]
          exact mem⟩ }
  · next none_ =>
    have stays : ∀ m p, s.plan m = some p → ¬((m = slot ∧ p.edition = edition) ∧ p.open_) := by
      rintro m p plan ⟨⟨rfl, isEdition⟩, isOpen⟩
      refine none_ ((Option.any_eq_true _ _).mpr ⟨p, plan, ?_⟩)
      simpa [isEdition, Plan.open_] using isOpen
    exact {
      quiet := Quiet.refl s
      free := fun _ h => h
      stands := fun _ _ h _ => h
      drops := fun m p plan closes isOpen => absurd ⟨closes, isOpen⟩ (stays m p plan)
      order := fun _ h => h
      locks := ⟨[], by simp [unlockAll], fun k => by
        simp only [List.not_mem_nil, false_iff, not_exists, not_and]
        exact fun m p plan closes underWay => absurd ⟨closes, .inr underWay⟩ (stays m p plan)⟩ }

end PlansClosed

/-- The plans of an edition that closes (R137). -/
theorem State.closePlans_closed (edition : Nat) (s : State) :
    PlansClosed (fun m e => m < 4 ∧ e = edition) s (s.closePlans edition) := by
  have all : ∀ (l : List Nat) (s : State), PlansClosed (fun m e => m ∈ l ∧ e = edition) s
      (l.foldl (fun s slot =>
        if (s.plan slot).any fun p =>
            decide (p.edition = edition) && (decide (p.state = .planned) || p.state.underWay) then
          s.endPlan slot .dropped
        else s) s) := by
    intro l
    induction l with
    | nil => exact fun s => PlansClosed.refl (by simp) s
    | cons slot rest ih =>
      intro s
      rw [List.foldl_cons]
      exact ((PlansClosed.atSlot edition slot s).trans (ih _)).congr fun m e => by simp [or_and_right]
  exact (all (List.range 4) s).congr fun m e => by simp

/-- The plans of every edition that is CLOSED in the list (R153). -/
theorem State.closeAll_closed (l : List EditionState) (s : State) :
    PlansClosed (fun m e => m < 4 ∧ 1 ≤ e ∧ l[e - 1]? = some .closed) s
      (l.zipIdx.foldl (fun s e => if e.1 = .closed then s.closePlans (e.2 + 1) else s) s) := by
  have all : ∀ (l : List EditionState) (i : Nat) (s : State),
      PlansClosed (fun m e => m < 4 ∧ i + 1 ≤ e ∧ l[e - 1 - i]? = some .closed) s
        ((l.zipIdx i).foldl (fun s e => if e.1 = .closed then s.closePlans (e.2 + 1) else s) s) := by
    intro l
    induction l with
    | nil => exact fun i s => PlansClosed.refl (by simp) s
    | cons st rest ih =>
      intro i s
      rw [List.zipIdx_cons, List.foldl_cons]
      have first : PlansClosed (fun m e => m < 4 ∧ e = i + 1 ∧ st = .closed) s
          (if st = .closed then s.closePlans (i + 1) else s) := by
        split
        · next closed => exact (State.closePlans_closed (i + 1) s).congr fun m e => by simp [closed]
        · next notClosed => exact PlansClosed.refl (by simp [notClosed]) s
      refine (first.trans (ih (i + 1) _)).congr fun m e => ?_
      by_cases here : e = i + 1
      · subst here
        simp
      · constructor
        · rintro (⟨_, same, _⟩ | ⟨low, above, closed⟩)
          · exact absurd same here
          · refine ⟨low, by omega, ?_⟩
            rw [show e - 1 - i = (e - 1 - (i + 1)) + 1 by omega]
            exact closed
        · rintro ⟨low, above, closed⟩
          refine .inr ⟨low, by omega, ?_⟩
          rw [show e - 1 - i = (e - 1 - (i + 1)) + 1 by omega] at closed
          exact closed
  exact (all l 0 s).congr fun m e => by simp

end Closed

end Sys2Proof.Machine


namespace Sys2Proof.Machine

open Sys2Proof

/-! ## Edition states (R143 to R148) -/

section Editions

variable {l m : List EditionState} {e c i : Nat} {st : EditionState}

theorem currentOf_eq_some :
    currentOf l = some (c, st) ↔ ∃ i, c = i + 1 ∧ l[i]? = some st ∧ st ≠ .closed ∧ ∀ j, j < i → l[j]? = some .closed := by
  unfold currentOf
  rw [Option.map_eq_some_iff]
  constructor
  · rintro ⟨i, found, same⟩
    obtain ⟨⟨x, here, open_⟩, lower⟩ := indexWhere_eq_some.mp found
    simp only [Prod.mk.injEq] at same
    obtain ⟨rfl, rfl⟩ := same
    rw [List.getD_eq_getElem?_getD, here]
    refine ⟨i, rfl, here, by simpa using open_, fun j low => ?_⟩
    obtain ⟨high, _⟩ := List.getElem?_eq_some_iff.mp here
    have there : l[j]? = some l[j] := List.getElem?_eq_getElem (by omega)
    have closed := lower j low _ there
    rw [there]
    simpa using closed
  · rintro ⟨i, rfl, here, open_, lower⟩
    refine ⟨i, indexWhere_eq_some.mpr ⟨⟨st, here, by simp [open_]⟩, fun j low x there => ?_⟩, ?_⟩
    · rw [lower j low] at there
      cases there
      rfl
    · rw [List.getD_eq_getElem?_getD, here]
      rfl

theorem currentOf_eq_none : currentOf l = none ↔ ∀ x ∈ l, x = .closed := by
  unfold currentOf
  rw [Option.map_eq_none_iff, indexWhere_eq_none]
  simp

/-- What the roll-forward makes of an edition where the states stand as `l` (R148). -/
def rolledTo (l : List EditionState) (e : Nat) : Nat :=
  if 1 ≤ e ∧ l[e - 1]? = some .closed then ((currentOf l).map (·.1)).getD e else e

/-- Every edition CLOSED in `l` is CLOSED in `m`. -/
def Grown (l m : List EditionState) : Prop := l.length = m.length ∧ ∀ i : Nat, l[i]? = some EditionState.closed → m[i]? = some EditionState.closed

theorem Grown.refl (l : List EditionState) : Grown l l := ⟨rfl, fun _ h => h⟩

theorem Grown.trans {n : List EditionState} (h : Grown l m) (k : Grown m n) : Grown l n :=
  ⟨h.1.trans k.1, fun i closed => k.2 i (h.2 i closed)⟩

/-- The current edition while no more editions are CLOSED. -/
theorem Grown.current (h : Grown l m) (k : Grown m l) : (currentOf l).map (·.1) = (currentOf m).map (·.1) := by
  have moves : ∀ {l m : List EditionState} {x : Nat × EditionState}, Grown l m → Grown m l → currentOf l = some x →
      (currentOf m).map (·.1) = some x.1 := by
    rintro l m ⟨c, st⟩ h k is
    obtain ⟨i, rfl, here, open_, lower⟩ := currentOf_eq_some.mp is
    obtain ⟨low, _⟩ := List.getElem?_eq_some_iff.mp here
    have there : m[i]? = some (m[i]'(h.1 ▸ low)) := List.getElem?_eq_getElem (h.1 ▸ low)
    have still : m[i]'(h.1 ▸ low) ≠ .closed := fun closed => by
      rw [closed] at there
      rw [k.2 i there] at here
      cases here
      exact open_ rfl
    rw [currentOf_eq_some.mpr ⟨i, rfl, there, still, fun j low => h.2 j (lower j low)⟩]
    rfl
  cases first : currentOf l with
  | some x => rw [moves h k first]; rfl
  | none =>
    cases second : currentOf m with
    | none => rfl
    | some y =>
      have back := moves k h second
      rw [first] at back
      cases back

theorem rolledTo_congr (h : Grown l m) (k : Grown m l) : rolledTo l e = rolledTo m e := by
  unfold rolledTo
  rw [h.current k]
  refine if_congr (and_congr_right' ⟨h.2 _, k.2 _⟩) rfl rfl

/-- A roll-forward after an earlier one of the same instant. -/
theorem rolledTo_rolledTo (h : Grown l m) (some_ : (currentOf m).isSome = true) : rolledTo m (rolledTo l e) = rolledTo m e := by
  obtain ⟨⟨c', st'⟩, now⟩ := Option.isSome_iff_exists.mp some_
  obtain ⟨i, rfl, here, open_, lower⟩ := currentOf_eq_some.mp now
  by_cases closed : 1 ≤ e ∧ l[e - 1]? = some .closed
  · have still : 1 ≤ e ∧ m[e - 1]? = some .closed := ⟨closed.1, h.2 _ closed.2⟩
    have here' : rolledTo m e = i + 1 := by rw [rolledTo, if_pos still, now]; rfl
    have once : rolledTo l e = ((currentOf l).map (·.1)).getD e := if_pos closed
    rw [here', once]
    cases before : currentOf l with
    | none =>
      have every := currentOf_eq_none.mp before
      obtain ⟨low, is⟩ := List.getElem?_eq_some_iff.mp here
      have there : l[i]? = some (l[i]'(h.1 ▸ low)) := List.getElem?_eq_getElem _
      have closedThere := every _ (List.mem_of_getElem? there)
      rw [closedThere] at there
      rw [h.2 i there] at here
      cases here
      exact absurd rfl open_
    | some x =>
      obtain ⟨c, st⟩ := x
      obtain ⟨j, rfl, there, openThen, lowerThen⟩ := currentOf_eq_some.mp before
      show rolledTo m (j + 1) = i + 1
      unfold rolledTo
      rw [now]
      split
      · rfl
      · next notClosed =>
        rcases Nat.lt_trichotomy i j with low | same | high
        · rw [h.2 i (lowerThen i low)] at here
          cases here
          exact absurd rfl open_
        · rw [same]
        · exact absurd ⟨by omega, lower j high⟩ notClosed
  · rw [show rolledTo l e = e from if_neg closed]

end Editions

/-! ## The transitions of an instant, on the states alone (R144, R146) -/

section Steps

variable {x : List EditionState × Nat} {mv : Nat × EditionState}

/-- One transition, with the count of those applied: only from a state before its own. -/
def stepEditions (x : List EditionState × Nat) (mv : Nat × EditionState) : List EditionState × Nat :=
  if mv.1 ≠ 0 ∧ (x.1[mv.1 - 1]?).any fun old => decide (old.rank < mv.2.rank) then (x.1.set (mv.1 - 1) mv.2, x.2 + 1) else x

/-- The transitions of edition `edition` that fall at publishing-day time `p`. -/
def editionMoves (p edition : Nat) (e : EditionSpec) : List (Nat × EditionState) :=
  (if p = 60 * dueMinute e then [(edition, EditionState.due)] else []) ++
    ((if p = 60 * lateMinute e then [(edition, .late)] else []) ++
      if p = 60 * closeMinute e then [(edition, .closed)] else [])

/-- The transitions that fall at publishing-day time `p`, in order. -/
def instantMoves (p : Nat) (table : List EditionSpec) : List (Nat × EditionState) :=
  table.zipIdx.flatMap fun e => editionMoves p (e.2 + 1) e.1

/-- The edition in the middle of a list meets one of its transitions. -/
theorem stepEditions_at (p minute n k : Nat) (st target : EditionState) (before after : List EditionState) :
    (if p = 60 * minute then [(before.length + 1, target)] else []).foldl stepEditions (before ++ st :: after, n + k) =
      (before ++ (if p = 60 * minute ∧ st.rank < target.rank then (target, k + 1) else (st, k)).1 :: after,
        n + (if p = 60 * minute ∧ st.rank < target.rank then (target, k + 1) else (st, k)).2) := by
  by_cases falls : p = 60 * minute
  · by_cases earlier : st.rank < target.rank
    · simp [falls, earlier, stepEditions, Nat.add_assoc]
    · simp [falls, earlier, stepEditions]
  · simp [falls]

/-- The transitions of the table's editions from the `before.length`-th on. -/
theorem instantMoves_editions (p : Nat) (table : List EditionSpec) (before states : List EditionState) (n : Nat)
    (lengths : states.length = table.length) :
    ((table.zipIdx before.length).flatMap fun e => editionMoves p (e.2 + 1) e.1).foldl stepEditions (before ++ states, n) =
      (before ++ (List.zipWith (fun e st =>
          [(EditionState.due, e.deadline - e.lead), (EditionState.late, e.deadline),
            (EditionState.closed, min (e.deadline + e.margin) 1439)].foldl
            (fun y m => if p = 60 * m.2 ∧ y.1.rank < m.1.rank then (m.1, y.2 + 1) else y) (st, 0)) table states).map (·.1),
        n + ((List.zipWith (fun e st =>
          [(EditionState.due, e.deadline - e.lead), (EditionState.late, e.deadline),
            (EditionState.closed, min (e.deadline + e.margin) 1439)].foldl
            (fun y m => if p = 60 * m.2 ∧ y.1.rank < m.1.rank then (m.1, y.2 + 1) else y) (st, 0)) table states).map (·.2)).sum) := by
  induction table generalizing before states n with
  | nil =>
    obtain rfl := List.length_eq_zero_iff.mp lengths
    simp
  | cons e rest ih =>
    obtain ⟨st, others, rfl⟩ := List.exists_cons_of_length_eq_add_one lengths
    have one : (editionMoves p (before.length + 1) e).foldl stepEditions (before ++ st :: others, n) =
        (before ++ ([(EditionState.due, e.deadline - e.lead), (EditionState.late, e.deadline),
            (EditionState.closed, min (e.deadline + e.margin) 1439)].foldl
            (fun y m => if p = 60 * m.2 ∧ y.1.rank < m.1.rank then (m.1, y.2 + 1) else y) (st, 0)).1 :: others,
          n + ([(EditionState.due, e.deadline - e.lead), (EditionState.late, e.deadline),
            (EditionState.closed, min (e.deadline + e.margin) 1439)].foldl
            (fun y m => if p = 60 * m.2 ∧ y.1.rank < m.1.rank then (m.1, y.2 + 1) else y) (st, 0)).2) := by
      unfold editionMoves
      rw [List.foldl_append, List.foldl_append, ← Nat.add_zero n, stepEditions_at, stepEditions_at, stepEditions_at]
      rfl
    rw [List.zipIdx_cons, List.flatMap_cons, List.foldl_append, one]
    have later := ih (before ++ [([(EditionState.due, e.deadline - e.lead), (EditionState.late, e.deadline),
      (EditionState.closed, min (e.deadline + e.margin) 1439)].foldl
      (fun y m => if p = 60 * m.2 ∧ y.1.rank < m.1.rank then (m.1, y.2 + 1) else y) (st, 0)).1]) others
      (n + ([(EditionState.due, e.deadline - e.lead), (EditionState.late, e.deadline),
        (EditionState.closed, min (e.deadline + e.margin) 1439)].foldl
        (fun y m => if p = 60 * m.2 ∧ y.1.rank < m.1.rank then (m.1, y.2 + 1) else y) (st, 0)).2)
      (by simpa using lengths)
    simp only [List.length_append, List.length_cons, List.length_nil, List.append_assoc, List.cons_append, List.nil_append] at later
    rw [later, List.zipWith_cons_cons, List.map_cons, List.map_cons, List.sum_cons, Nat.add_assoc]

/-- The rollover of an instant on the states alone. -/
def rolledOver (p : Nat) (x : List EditionState × Nat) : List EditionState × Nat :=
  if p = 0 then (x.1.map fun _ => .opened, x.2 + 1) else x

theorem editionsAt_eq (table : List EditionSpec) (dayStart t : Nat) (x : List EditionState × Nat)
    (lengths : x.1.length = table.length) :
    editionsAt table dayStart t x =
      (instantMoves (dayTime dayStart t) table).foldl stepEditions (rolledOver (dayTime dayStart t) x) := by
  have whole : (rolledOver (dayTime dayStart t) x).1.length = table.length := by
    unfold rolledOver
    split
    · rw [List.length_map, lengths]
    · exact lengths
  have all := instantMoves_editions (dayTime dayStart t) table [] (rolledOver (dayTime dayStart t) x).1
    (rolledOver (dayTime dayStart t) x).2 whole
  simp only [List.length_nil, List.nil_append] at all
  exact all.symm

end Steps

end Sys2Proof.Machine


namespace Sys2Proof.Machine

open Sys2Proof

/-! ## The stories at a close (R137, R148) -/

section Rolled

variable {s t : State} {k : Key} {r : Story} {keys : List Key}

/-- A record as the roll-forward leaves it where the edition states stand as `l` (R148). -/
def Story.rolled (l : List EditionState) (r : Story) : Story :=
  if r.lock = none then { r with edition := rolledTo l r.edition } else r

theorem Story.rolled_key (l : List EditionState) (r : Story) : (r.rolled l).key = r.key := by
  unfold Story.rolled
  split <;> rfl

/-- A change of every record that keeps the keys, seen at one key. -/
theorem find_map_key {f : Story → Story} (key : ∀ r, (f r).key = r.key) (l : List Story) (k : Key) :
    ((l.map f).find? fun r => decide (r.key = k)) = (l.find? fun r => decide (r.key = k)).map f := by
  rw [List.find?_map]
  refine congrArg (Option.map f) (congrArg (fun q => l.find? q) ?_)
  funext r
  exact congrArg (fun x => decide (x = k)) (key r)

theorem State.story_mapped {f : Story → Story} (key : ∀ r, (f r).key = r.key) (stories : t.store.stories = s.store.stories.map f)
    (k : Key) : t.story k = (s.story k).map f := by
  unfold State.story Store.story
  rw [stories]
  exact find_map_key key _ k

/-- A record without a page lock is as it was once locks are released. -/
theorem unlocked_eq (free : r.lock = none) : { r with lock := none } = r := by
  rw [← free]

theorem State.story_unlockAll (store : t.store = { s.store with stories := unlockAll keys s.store.stories }) (there : s.story k = some r) :
    t.story k = some (if k ∈ keys then { r with lock := none } else r) := by
  have key : ∀ r : Story, (if r.key ∈ keys then { r with lock := none } else r).key = r.key := fun r => by split <;> rfl
  have mapped : t.store.stories = s.store.stories.map fun r => if r.key ∈ keys then { r with lock := none } else r := by
    rw [store]
    rfl
  rw [State.story_mapped key mapped k, there, Option.map_some, State.story_key there]

theorem State.rollForward_store (s : State) :
    s.rollForward = s.onStore fun st => { st with stories := st.stories.map (Story.rolled s.clock.editions) } := by
  have rolls (e : Nat) : s.editionClosed e = true ↔ 1 ≤ e ∧ s.clock.editions[e - 1]? = some .closed := by
    by_cases zero : e = 0
    · simp [State.editionClosed, State.editionState, zero]
    · rw [State.editionClosed_iff (Nat.pos_of_ne_zero zero)]
      exact (and_iff_right (Nat.pos_of_ne_zero zero)).symm
  have each {f : Story → Story} (same : ∀ r, f r = Story.rolled s.clock.editions r) :
      (s.onStore fun st => { st with stories := st.stories.map f }) =
        s.onStore fun st => { st with stories := st.stories.map (Story.rolled s.clock.editions) } := by
    rw [funext same]
  unfold State.rollForward
  cases now : s.current with
  | none =>
    have now : currentOf s.clock.editions = none := now
    have same : ∀ r : Story, id r = Story.rolled s.clock.editions r := fun r => by
      unfold Story.rolled rolledTo
      rw [now]
      split <;> (try split) <;> rfl
    rw [← each same]
    simp [State.onStore]
  | some x =>
    obtain ⟨n, st⟩ := x
    have now : currentOf s.clock.editions = some (n, st) := now
    refine each fun r => ?_
    unfold Story.rolled rolledTo
    rw [now]
    by_cases free : r.lock = none
    · by_cases closed : 1 ≤ r.edition ∧ s.clock.editions[r.edition - 1]? = some .closed
      · rw [if_pos free, if_pos closed, if_pos (by rw [free, (rolls _).mpr closed]; rfl)]
        rfl
      · rw [if_pos free, if_neg closed, if_neg fun both => closed ((rolls _).mp (Bool.and_eq_true .. |>.mp both).2)]
    · rw [if_neg free, if_neg fun both => free (Option.isNone_iff_eq_none.mp (Bool.and_eq_true .. |>.mp both).1)]

theorem Quiet.rollForward (s : State) : Quiet s s.rollForward := by
  rw [State.rollForward_store]
  refine { Quiet.refl s with stories := ?_, storeRest := rfl }
  show (s.store.stories.map _).map _ = _
  rw [List.map_map]
  refine List.map_congr_left fun r _ => ?_
  show (Story.rolled _ r).undated = _
  unfold Story.rolled
  split <;> rfl

theorem Quiet.closeEnds (s : State) : Quiet s s.closeEnds := (Quiet.rollForward s).trans (Quiet.settleFits _)

/-- A story without a page lock stands through what follows at the fit queue and the page engine. -/
theorem storyRests_kept (free : r.lock = none) : KeptByHead fun s => s.story k = some r where
  congr := fun h _ _ _ store _ _ => by
    unfold State.story
    rw [store]
    exact h
  requests := fun h _ => h
  changes := fun _ h _ _ => h
  ends := fun {s n p} o h head fitting => by
    have store : (s.endPlan n o).store = { s.store with stories := unlockAll (p.placements.map (·.key)) s.store.stories } := by
      rw [State.endPlan_fitting (State.headPlan_iff.mp head).2 fitting]
      obtain ⟨store, _⟩ := State.notified_rest o
        { s with
            store := { s.store with stories := unlockAll (p.placements.map (·.key)) s.store.stories },
            fit := s.fit.withdrawPage, page := { s.page.ended n o with requests := [], outstanding := [] } }
      exact store
    rw [State.story_unlockAll store h]
    split
    · rw [unlocked_eq free]
    · rfl

theorem State.settle_store (s : State) : s.settle.store = s.settleFits.store :=
  (show PageStands s.settleFits s.settle from PageStands.ofSlips s.settleFits).store

theorem State.story_settle (free : r.lock = none) (there : s.story k = some r) : s.settle.story k = some r := by
  have settled := (storyRests_kept free).settleFits there
  unfold State.story at settled ⊢
  rw [State.settle_store]
  exact settled

/-- A story without a page lock at the end of a close. -/
theorem State.story_closeEnds (free : r.lock = none) (there : s.story k = some r) :
    s.closeEnds.story k = some { r with edition := rolledTo s.clock.editions r.edition } := by
  refine (storyRests_kept (r := { r with edition := rolledTo s.clock.editions r.edition }) free).settleFits ?_
  have rolled : s.rollForward.store.stories = s.store.stories.map (Story.rolled s.clock.editions) := by
    rw [State.rollForward_store]
    rfl
  rw [State.story_mapped (Story.rolled_key _) rolled k, there, Option.map_some, Story.rolled, if_pos free]

theorem State.story_relocked (stories : t.store.stories.map Story.unlocked = s.store.stories.map Story.unlocked)
    (there : s.story k = some r) : ∃ l, t.story k = some { r with lock := l } := by
  obtain ⟨q, after, same⟩ := (story_same stories k).2 r there
  refine ⟨q.lock, after.trans (congrArg some ?_)⟩
  cases q
  cases r
  simp only [Story.unlocked, Story.mk.injEq] at same ⊢
  simp_all

/-- A story with a page lock keeps its edition at a close. -/
theorem State.locked_closeEnds (locked : r.lock ≠ none) (there : s.story k = some r) :
    ∃ l, s.closeEnds.story k = some { r with lock := l } := by
  have rolled : s.rollForward.store.stories = s.store.stories.map (Story.rolled s.clock.editions) := by
    rw [State.rollForward_store]
    rfl
  have before : s.rollForward.story k = some r := by
    rw [State.story_mapped (Story.rolled_key _) rolled k, there, Option.map_some, Story.rolled, if_neg locked]
  exact State.story_relocked (State.settleFits_follows s.rollForward).stories before

/-- A plan that has left the send order stands through a close's end. -/
theorem State.plan_closeEnds {slot : Nat} {p : Plan} (plan : s.plan slot = some p) (out : slot ∉ s.page.sendOrder) :
    s.closeEnds.plan slot = some p ∧ slot ∉ s.closeEnds.page.sendOrder := by
  refine (OutOfOrder.kept slot (some p)).settleFits (s := s.rollForward) ?_
  rw [State.rollForward_store]
  exact ⟨plan, out⟩

theorem State.planned_settleFits {slot : Nat} {p : Plan} (plan : s.plan slot = some p) (planned : p.state = .planned) :
    s.settleFits.plan slot = some p :=
  (planRests_kept slot (q := p) ⟨by rw [planned]; nofun, by rw [planned]; nofun⟩).settleFits plan

end Rolled

end Sys2Proof.Machine


namespace Sys2Proof.Machine

open Sys2Proof

/-! ## A change of the edition states, told (R145) -/

section Turned

variable {s t u : State}

/-- A move of the clock that leaves the stories and the plans, and after which the screen unit and the desk unit hold
the current edition if they did. -/
structure Turned (s t : State) : Prop where
  shifted : Shifted s t
  told : s.toldCurrent → t.toldCurrent
  store : t.store = s.store
  page : t.page = s.page

namespace Turned

theorem refl (s : State) : Turned s s := ⟨Shifted.refl s, id, rfl, rfl⟩

theorem trans (h : Turned s t) (k : Turned t u) : Turned s u :=
  ⟨h.shifted.trans k.shifted, fun was => k.told (h.told was), k.store.trans h.store, k.page.trans h.page⟩

end Turned

/-- What says nothing of the clock leaves the units told. -/
theorem Quiet.told_current (h : Quiet s t) (was : s.toldCurrent) : t.toldCurrent := by
  obtain ⟨screen, desk⟩ := was
  exact ⟨h.current.trans (screen.trans (by rw [h.sameClock])), h.told.trans (desk.trans (by rw [h.sameClock]))⟩

theorem Turned.ofQuiet (h : Quiet s t) (store : t.store = s.store) (page : t.page = s.page) : Turned s t :=
  ⟨h.toShifted, h.told_current, store, page⟩

theorem Turned.raise (n : Notice) (s : State) : Turned s (s.raise n) := .ofQuiet (Quiet.raise n s) rfl rfl

theorem Turned.statusChanged (s : State) : Turned s s.statusChanged :=
  .ofQuiet (Quiet.statusChanged s) (State.dirtyStatus_onlyScreen s).store (State.dirtyStatus_onlyScreen s).page

/-- A move of the clock alone. -/
theorem Shifted.onClock {f : Clock → Clock} (s : State)
    (clock : f s.clock = { s.clock with time := (f s.clock).time, isSet := (f s.clock).isSet, editions := (f s.clock).editions }) :
    Shifted s (s.onClock f) :=
  { Shifted.refl s with clock := clock }

theorem State.tellCurrent_turned (s : State) :
    Shifted s (s.tellCurrent s.current) ∧ (s.tellCurrent s.current).toldCurrent ∧
      (s.tellCurrent s.current).store = s.store ∧ (s.tellCurrent s.current).page = s.page ∧
      (s.tellCurrent s.current).clock = s.clock := by
  have told := OnlyScreen.tellCurrent s.current (OnlyScreen.refl s)
  have desk := State.tellCurrent_desk (s := s) s.current
  have flash := State.tellCurrent_flash (s := s) s.current
  obtain ⟨attention, lamp, lit, outputs⟩ := Desk.refresh_outputs { s.desk with inputs := { s.desk.inputs with current := some s.current } }
  rw [outputs] at desk
  have windows : sameWindows s (s.tellCurrent s.current) := State.tellStatus_sameWindows _ s
  refine ⟨?_, ⟨?_, ?_⟩, told.store, told.page, told.clock⟩
  · exact {
      stories := by rw [told.store]
      storeRest := by rw [told.store]
      line := told.line
      pass := told.pass
      counts := by rw [told.traffic]
      slots := by rw [told.traffic]
      queue := by rw [told.traffic]
      faces := by rw [told.fit]
      editKey := by rw [told.fit]
      busy := told.busy
      desk := by rw [desk]
      notices := fun n latched => by
        unfold Desk.latched at latched ⊢
        rw [desk]
        exact latched
      clock := by rw [told.clock]
      flash := flash
      lanes := told.lanes
      windows := windows
      ended := fun slot p plan _ => by
        unfold State.plan
        rw [told.page]
        exact plan }
  · rw [told.status, told.clock]
    rfl
  · rw [desk, told.clock]
    rfl

/-- The edition states change, and the units are told of another current edition. -/
theorem State.changeEditions_turned (f : List EditionState → List EditionState) (s : State) :
    Turned s (s.changeEditions f) ∧ (s.changeEditions f).clock = { s.clock with editions := f s.clock.editions } := by
  unfold State.changeEditions
  dsimp only
  have moved : Shifted s (s.onClock fun c => { c with editions := f c.editions }) := Shifted.onClock s rfl
  have clock : (s.onClock fun c => { c with editions := f c.editions }).clock = { s.clock with editions := f s.clock.editions } := rfl
  have rest : (s.onClock fun c => { c with editions := f c.editions }).store = s.store ∧
      (s.onClock fun c => { c with editions := f c.editions }).page = s.page := ⟨rfl, rfl⟩
  have units : (s.onClock fun c => { c with editions := f c.editions }).screen = s.screen ∧
      (s.onClock fun c => { c with editions := f c.editions }).desk = s.desk := ⟨rfl, rfl⟩
  generalize (s.onClock fun c => { c with editions := f c.editions }) = t at *
  split
  · next same =>
    have same : currentOf t.clock.editions = currentOf s.clock.editions := same
    refine ⟨⟨moved, fun was => ?_, rest.1, rest.2⟩, clock⟩
    unfold State.toldCurrent at was ⊢
    rw [units.1, units.2, same]
    exact was
  · obtain ⟨shifted, told, store, page, same⟩ := State.tellCurrent_turned t
    exact ⟨⟨moved.trans shifted, fun _ => told, store.trans rest.1, page.trans rest.2⟩, same.trans clock⟩

/-- A change of the edition states that is latched and told as a change of the status. -/
theorem State.editionsChange (f : List EditionState → List EditionState) (s : State) :
    Turned s (((s.changeEditions f).raise .editionStep).statusChanged) ∧
      (((s.changeEditions f).raise .editionStep).statusChanged).clock = { s.clock with editions := f s.clock.editions } ∧
      (((s.changeEditions f).raise .editionStep).statusChanged).desk.latched .editionStep = true := by
  obtain ⟨turned, clock⟩ := State.changeEditions_turned f s
  generalize s.changeEditions f = t at *
  have raised := Turned.raise .editionStep t
  have latched : (t.raise .editionStep).desk.latched .editionStep = true := State.raise_latched ..
  have sameClock : (t.raise .editionStep).clock = t.clock := rfl
  generalize t.raise .editionStep = u at *
  exact ⟨(turned.trans raised).trans (Turned.statusChanged u), (Quiet.statusChanged u).sameClock.trans (sameClock.trans clock),
    (Quiet.statusChanged u).notices _ latched⟩

end Turned

/-! ## Plans that an edition's close ends, over a row of moves (R125, R137) -/

section Advanced

variable {s t u : State}

/-- A PLANNED plan stands, unless its edition has closed, and is DROPPED else. -/
def planFollows (slot : Nat) (p : Plan) (s t : State) : Prop :=
  (t.plan slot = some p ∧ ¬closesBetween s t p.edition) ∨
    (t.plan slot = some { p with state := .dropped } ∧ t.desk.latched .pageDropped = true)

/-- A move of the clock with all its effects. -/
structure Advanced (s t : State) : Prop where
  shifted : Shifted s t
  told : s.toldCurrent → t.toldCurrent
  planned : ∀ (slot : Nat) (p : Plan), slot < 4 → s.plan slot = some p → p.state = .planned → planFollows slot p s t

namespace Advanced

/-- No edition has closed and no plan ended. -/
theorem ofTurned (h : Turned s t) (same : ∀ e, ¬closesBetween s t e) : Advanced s t where
  shifted := h.shifted
  told := h.told
  planned := fun slot p _ plan _ => .inl ⟨by
    unfold State.plan
    rw [h.page]
    exact plan, same _⟩

theorem refl (s : State) : Advanced s s := ofTurned (Turned.refl s) fun _ closes => closes.2.1 closes.2.2

theorem trans (h : Advanced s t) (k : Advanced t u) : Advanced s u where
  shifted := h.shifted.trans k.shifted
  told := fun was => k.told (h.told was)
  planned := fun slot p low plan planned => by
    rcases h.planned slot p low plan planned with ⟨stands, stays⟩ | ⟨dropped, notice⟩
    · rcases k.planned slot p low stands planned with ⟨stands', stays'⟩ | gone
      · refine .inl ⟨stands', fun closes => ?_⟩
        by_cases between : t.clock.editions[p.edition - 1]? = some .closed
        · exact stays ⟨closes.1, closes.2.1, between⟩
        · exact stays' ⟨closes.1, between, closes.2.2⟩
      · exact .inr gone
    · exact .inr ⟨k.shifted.ended slot _ dropped rfl, k.shifted.notices _ notice⟩

end Advanced

end Advanced

end Sys2Proof.Machine


namespace Sys2Proof.Machine

open Sys2Proof

/-! ## The plans and the stories at a close (R137, R147, R148) -/

section Closes

variable {s t u : State} {closing : Nat → Prop} {A : Nat → Nat → Prop} {after : List EditionState}

theorem underWay_iff {st : PlanState} : st.underWay = true ↔ st = .queued ∨ st = .fitting ∨ st = .sending := by
  cases st <;> simp [PlanState.underWay]

/-- `LocksAtClose` with the edition of the roll-forward by its own name. -/
structure LocksRolled (closing : Nat → Prop) (after : List EditionState) (s t : State) : Prop where
  dropped : ∀ (slot : Nat) (p : Plan), PlanUnderWay slot p s → closing p.edition →
    t.plan slot = some { p with state := .dropped } ∧ slot ∉ t.page.sendOrder ∧ t.desk.latched .pageDropped = true ∧
    ∀ (k : Key) (r : Story), k ∈ p.placements.map (·.key) → s.story k = some r →
      t.story k = some { r with lock := none, edition := rolledTo after r.edition }
  kept : ∀ (slot : Nat) (p : Plan) (k : Key) (r : Story), PlanUnderWay slot p s → ¬closing p.edition →
    k ∈ p.placements.map (·.key) → s.story k = some r → r.lock = some slot →
    (∀ m q, PlanUnderWay m q s → k ∈ q.placements.map (·.key) → m = slot) →
    ∃ l, t.story k = some { r with lock := l }

theorem LocksRolled.locksAtClose (h : LocksRolled closing after s t) : LocksAtClose closing after s t where
  dropped := fun slot p underWay closes => by
    obtain ⟨plan, order, notice, stories⟩ := h.dropped slot p underWay closes
    refine ⟨plan, order, notice, fun k r mem there => (stories k r mem there).trans ?_⟩
    unfold rolledTo
    cases currentOf after with
    | none => simp
    | some x => rfl
  kept := h.kept

/-- What the plans and the stories are once the plans of closing editions have ended and the close has ended. -/
theorem State.closes (h : Turned s t) (k : PlansClosed A t u) (those : ∀ m e, A m e ↔ m < 4 ∧ closing e) :
    Quiet t u.closeEnds ∧ LocksRolled closing t.clock.editions s u.closeEnds ∧
      (∀ (k : Key) (r : Story), s.story k = some r → r.lock = none →
        u.closeEnds.story k = some { r with edition := rolledTo t.clock.editions r.edition }) ∧
      ∀ (slot : Nat) (p : Plan), slot < 4 → s.plan slot = some p → p.state = .planned →
        (closing p.edition → u.closeEnds.plan slot = some { p with state := .dropped } ∧
          u.closeEnds.desk.latched .pageDropped = true) ∧
        (¬closing p.edition → u.closeEnds.plan slot = some p) := by
  obtain ⟨keys, store, mem⟩ := k.locks
  have ends := Quiet.closeEnds u
  have plans (slot : Nat) : t.plan slot = s.plan slot := by
    unfold State.plan
    rw [h.page]
  have stories {k : Key} {r : Story} (there : s.story k = some r) :
      u.story k = some (if k ∈ keys then { r with lock := none } else r) := by
    refine State.story_unlockAll store ?_
    unfold State.story at there ⊢
    rw [h.store, there]
  have rolled {key : Key} {r : Story} (free : r.lock = none) (there : u.story key = some r) :
      u.closeEnds.story key = some { r with edition := rolledTo t.clock.editions r.edition } := by
    rw [← k.quiet.sameClock]
    exact State.story_closeEnds free there
  refine ⟨k.quiet.trans ends, ⟨fun slot p underWay closes => ?_, fun slot p key r underWay other placed there locked alone => ?_⟩,
    fun key r there free => ?_, fun slot p low plan planned => ⟨fun closes => ?_, fun stays => ?_⟩⟩
  · obtain ⟨low, plan, state⟩ := underWay
    have state := underWay_iff.mpr state
    have ended := k.drops slot p ((plans slot).trans plan) ((those _ _).mpr ⟨low, closes⟩) (.inr state)
    obtain ⟨plan', out⟩ := State.plan_closeEnds ended.1 ended.2.1
    refine ⟨plan', out, ends.notices _ ended.2.2, fun key r placed there => ?_⟩
    have released := stories there
    rw [if_pos ((mem key).mpr ⟨slot, p, (plans slot).trans plan, (those _ _).mpr ⟨low, closes⟩, state, placed⟩)] at released
    exact rolled rfl released
  · have out : key ∉ keys := fun inside => by
      obtain ⟨m, q, plan, closes, state, placed'⟩ := (mem key).mp inside
      obtain ⟨low, closes⟩ := (those _ _).mp closes
      have plan := (plans m).symm.trans plan
      obtain rfl := alone m q ⟨low, plan, underWay_iff.mp state⟩ placed'
      obtain rfl := Option.some.inj (underWay.2.1.symm.trans plan)
      exact other closes
    have stands := stories there
    rw [if_neg out] at stands
    exact State.locked_closeEnds (by rw [locked]; nofun) stands
  · refine rolled free ((stories there).trans ?_)
    split
    · rw [unlocked_eq free]
    · rfl
  · obtain ⟨plan', out, notice⟩ := k.drops slot p ((plans slot).trans plan) ((those _ _).mpr ⟨low, closes⟩) (.inl planned)
    exact ⟨(State.plan_closeEnds plan' out).1, ends.notices _ notice⟩
  · have stands := k.stands slot p ((plans slot).trans plan) fun both => stays ((those _ _).mp both.1).2
    refine State.planned_settleFits ?_ planned
    rw [State.rollForward_store]
    exact stands

end Closes

end Sys2Proof.Machine


namespace Sys2Proof.Machine

open Sys2Proof

/-! ## Transitions (R144, R147) -/

section Moves

variable {s t u : State}

/-- The edition of index `i` is CLOSED in `t` and not in `s`. -/
def newlyClosed (s t : State) (i : Nat) : Prop :=
  t.clock.editions[i]? = some .closed ∧ s.clock.editions[i]? ≠ some .closed

/-- From `s` to `t` transitions have been applied, with their effects, and no rollover. -/
structure Moved (s t : State) : Prop where
  advanced : Advanced s t
  clock : t.clock = { s.clock with editions := t.clock.editions }
  grown : Grown s.clock.editions t.clock.editions
  still : Grown t.clock.editions s.clock.editions → t.store = s.store ∧ t.page = s.page
  unlocked : ∀ (k : Key) (r : Story), s.story k = some r → r.lock = none →
    ∃ e, t.story k = some { r with edition := e } ∧ (Grown t.clock.editions s.clock.editions → e = r.edition) ∧
      (¬Grown t.clock.editions s.clock.editions → (currentOf t.clock.editions).isSome = true →
        e = rolledTo t.clock.editions r.edition)
  locks : (∀ i j, newlyClosed s t i → newlyClosed s t j → i = j) →
    LocksRolled (fun e => 1 ≤ e ∧ newlyClosed s t (e - 1)) t.clock.editions s t

theorem newlyClosed_of_not_grown {l m : List EditionState} (h : Grown l m) (k : ¬Grown m l) :
    ∃ i : Nat, m[i]? = some .closed ∧ l[i]? ≠ some .closed := by
  by_contra none_
  push Not at none_
  exact k ⟨h.1.symm, none_⟩

theorem Grown.isSome {l m : List EditionState} (h : Grown l m) (later : (currentOf m).isSome = true) :
    (currentOf l).isSome = true := by
  cases now : currentOf l with
  | some x => rfl
  | none =>
    have every := currentOf_eq_none.mp now
    obtain ⟨⟨c, st⟩, is⟩ := Option.isSome_iff_exists.mp later
    obtain ⟨i, _, here, open_, _⟩ := currentOf_eq_some.mp is
    obtain ⟨low, _⟩ := List.getElem?_eq_some_iff.mp here
    have there : l[i]? = some (l[i]'(h.1 ▸ low)) := List.getElem?_eq_getElem _
    have closed := every _ (List.mem_of_getElem? there)
    rw [closed] at there
    rw [h.2 i there] at here
    cases here
    exact absurd rfl open_

/-- Locks where the stories, the plans and the send order before are the same. -/
theorem LocksRolled.before {closing closing' : Nat → Prop} {after after' : List EditionState} (h : LocksRolled closing after t u)
    (store : t.store = s.store) (page : t.page = s.page) (same : ∀ e, closing' e ↔ closing e)
    (rolled : ∀ e, rolledTo after' e = rolledTo after e) : LocksRolled closing' after' s u := by
  have stories (k : Key) : t.story k = s.story k := by rw [State.story, State.story, store]
  have under (m : Nat) (p : Plan) : PlanUnderWay m p s ↔ PlanUnderWay m p t := by
    unfold PlanUnderWay State.plan
    rw [page]
  constructor
  · intro slot p underWay closes
    obtain ⟨plan, order, notice, each⟩ := h.dropped slot p ((under _ _).mp underWay) ((same _).mp closes)
    refine ⟨plan, order, notice, fun k r mem there => ?_⟩
    rw [rolled]
    exact each k r mem ((stories k).trans there)
  · intro slot p k r underWay other mem there locked alone
    exact h.kept slot p k r ((under _ _).mp underWay) (fun closes => other ((same _).mpr closes)) mem ((stories k).trans there) locked
      fun m q underWay' => alone m q ((under _ _).mpr underWay')

/-- Locks where the stories, the plans and the send order after are the same. -/
theorem LocksRolled.later {closing closing' : Nat → Prop} {after after' : List EditionState} (h : LocksRolled closing after s t)
    (store : u.store = t.store) (page : u.page = t.page) (notices : ∀ n, t.desk.latched n = true → u.desk.latched n = true)
    (same : ∀ e, closing' e ↔ closing e) (rolled : ∀ e, rolledTo after' e = rolledTo after e) : LocksRolled closing' after' s u := by
  have stories (k : Key) : u.story k = t.story k := by rw [State.story, State.story, store]
  have plans (m : Nat) : u.plan m = t.plan m := by rw [State.plan, State.plan, page]
  constructor
  · intro slot p underWay closes
    obtain ⟨plan, order, notice, each⟩ := h.dropped slot p underWay ((same _).mp closes)
    refine ⟨(plans _).trans plan, by rw [page]; exact order, notices _ notice, fun k r mem there => ?_⟩
    rw [rolled, stories]
    exact each k r mem there
  · intro slot p k r underWay other mem there locked alone
    obtain ⟨l, is⟩ := h.kept slot p k r underWay (fun closes => other ((same _).mpr closes)) mem there locked alone
    exact ⟨l, (stories k).trans is⟩

/-- Nothing closes and nothing of the stories and plans changes. -/
theorem LocksRolled.still {closing : Nat → Prop} {after : List EditionState} (store : t.store = s.store)
    (none_ : ∀ e, ¬closing e) : LocksRolled closing after s t where
  dropped := fun _ p _ closes => absurd closes (none_ p.edition)
  kept := fun _ _ k r _ _ _ there _ _ => ⟨r.lock, by rw [State.story, store]; exact there⟩

namespace Moved

/-- States that are not before CLOSED have changed, and the stories and the plans stand. -/
theorem ofTurned (h : Turned s t) (clock : t.clock = { s.clock with editions := t.clock.editions })
    (grown : Grown s.clock.editions t.clock.editions) (back : Grown t.clock.editions s.clock.editions) : Moved s t where
  advanced := Advanced.ofTurned h fun e closes => closes.2.1 (back.2 _ closes.2.2)
  clock := clock
  grown := grown
  still := fun _ => ⟨h.store, h.page⟩
  unlocked := fun k r there _ => ⟨r.edition, by rw [State.story, h.store]; exact there, fun _ => rfl, fun no => absurd back no⟩
  locks := fun _ => LocksRolled.still h.store fun e closes => closes.2.2 (back.2 _ closes.2.1)

theorem refl (s : State) : Moved s s := ofTurned (Turned.refl s) rfl (Grown.refl _) (Grown.refl _)

theorem trans (h : Moved s t) (k : Moved t u) : Moved s u where
  advanced := h.advanced.trans k.advanced
  clock := by
    have second := k.clock
    rw [h.clock] at second
    exact second
  grown := h.grown.trans k.grown
  still := fun back => by
    obtain ⟨store, page⟩ := h.still (k.grown.trans back)
    obtain ⟨store', page'⟩ := k.still (back.trans h.grown)
    exact ⟨store'.trans store, page'.trans page⟩
  unlocked := fun key r there free => by
    obtain ⟨e, first, same, rolled⟩ := h.unlocked key r there free
    obtain ⟨e', second, same', rolled'⟩ := k.unlocked key _ first free
    refine ⟨e', second, fun back => ?_, fun no now => ?_⟩
    · rw [same' (back.trans h.grown), ← same (k.grown.trans back)]
    · have before := k.grown.isSome now
      by_cases back : Grown u.clock.editions t.clock.editions
      · have noFirst : ¬Grown t.clock.editions s.clock.editions := fun first => no (back.trans first)
        rw [same' back, ← rolledTo_congr k.grown back]
        exact rolled noFirst before
      · rw [rolled' back now]
        show rolledTo _ e = _
        by_cases first : Grown t.clock.editions s.clock.editions
        · rw [same first]
        · rw [rolled first before]
          exact rolledTo_rolledTo k.grown now
  locks := fun alone => by
    by_cases first : Grown t.clock.editions s.clock.editions
    · obtain ⟨store, page⟩ := h.still first
      have same (i : Nat) : newlyClosed s u i ↔ newlyClosed t u i :=
        and_congr_right' (not_congr ⟨h.grown.2 i, first.2 i⟩)
      exact (k.locks fun i j hi hj => alone i j ((same i).mpr hi) ((same j).mpr hj)).before store page
        (fun e => and_congr_right' (same (e - 1))) fun _ => rfl
    · by_cases second : Grown u.clock.editions t.clock.editions
      · obtain ⟨store, page⟩ := k.still second
        have same (i : Nat) : newlyClosed s u i ↔ newlyClosed s t i := and_congr_left' ⟨second.2 i, k.grown.2 i⟩
        exact (h.locks fun i j hi hj => alone i j ((same i).mpr hi) ((same j).mpr hj)).later store page k.advanced.shifted.notices
          (fun e => and_congr_right' (same (e - 1))) fun e => rolledTo_congr second k.grown
      · obtain ⟨i, closed, open_⟩ := newlyClosed_of_not_grown h.grown first
        obtain ⟨j, closed', open'⟩ := newlyClosed_of_not_grown k.grown second
        obtain rfl := alone i j ⟨k.grown.2 i closed, open_⟩ ⟨closed', fun was => open' (h.grown.2 j was)⟩
        exact absurd closed open'

/-- One edition closes, with all the effects. -/
theorem ofClose {i : Nat} (h : Turned s t)
    (clock : t.clock = { s.clock with editions := s.clock.editions.set i .closed }) (low : i < s.clock.editions.length)
    (open_ : s.clock.editions[i]? ≠ some .closed) : Moved s (t.closePlans (i + 1)).closeEnds := by
  obtain ⟨quiet, locks, unlocked, planned⟩ := State.closes (closing := fun e => e = i + 1) h (State.closePlans_closed (i + 1) t)
    fun m e => Iff.rfl
  generalize (t.closePlans (i + 1)).closeEnds = v at *
  have editions : t.clock.editions = s.clock.editions.set i .closed := by rw [clock]
  have here : t.clock.editions[i]? = some .closed := by rw [editions, List.getElem?_set_self low]
  have others (j : Nat) (other : i ≠ j) : t.clock.editions[j]? = s.clock.editions[j]? := by
    rw [editions, List.getElem?_set_ne other]
  have same : v.clock = t.clock := quiet.sameClock
  have closesOnly (e : Nat) : (1 ≤ e ∧ newlyClosed s v (e - 1)) ↔ e = i + 1 := by
    unfold newlyClosed
    rw [same]
    constructor
    · rintro ⟨above, closed, was⟩
      by_contra other
      rw [others (e - 1) (by omega)] at closed
      exact was closed
    · rintro rfl
      exact ⟨by omega, here, open_⟩
  have notBack : ¬Grown v.clock.editions s.clock.editions := fun back => open_ (back.2 i (by rw [same]; exact here))
  exact {
    advanced := {
      shifted := h.shifted.trans quiet.toShifted
      told := fun was => quiet.told_current (h.told was)
      planned := fun slot p low plan is => by
        obtain ⟨dropped, stands⟩ := planned slot p low plan is
        by_cases closes : p.edition = i + 1
        · exact .inr (dropped closes)
        · refine .inl ⟨stands closes, fun between => closes ?_⟩
          exact (closesOnly _).mp ⟨between.1, between.2.2, between.2.1⟩ }
    clock := by rw [same, clock]
    grown := by
      rw [same]
      refine ⟨by rw [editions, List.length_set], fun j closed => ?_⟩
      by_cases at_ : i = j
      · rw [← at_]
        exact here
      · rw [others j at_]
        exact closed
    still := fun back => absurd back notBack
    unlocked := fun k r there free => ⟨_, unlocked k r there free, fun back => absurd back notBack, fun _ _ => by rw [same]⟩
    locks := fun _ => locks.later rfl rfl (fun _ h => h) closesOnly fun e => by rw [same] }

end Moved

/-- From `x` to `y` the transitions of a list have been tried. -/
structure Tried (l : List (Nat × EditionState)) (x y : State × Nat) : Prop where
  moved : Moved x.1 y.1
  result : (y.1.clock.editions, y.2) = l.foldl stepEditions (x.1.clock.editions, x.2)
  latched : y.2 = x.2 ∨ y.1.desk.latched .editionStep = true

theorem Tried.nil (x : State × Nat) : Tried [] x x := ⟨Moved.refl _, rfl, .inl rfl⟩

theorem Tried.append {l m : List (Nat × EditionState)} {x y z : State × Nat} (h : Tried l x y) (k : Tried m y z) :
    Tried (l ++ m) x z where
  moved := h.moved.trans k.moved
  result := by rw [List.foldl_append, ← h.result, k.result]
  latched := by
    rcases k.latched with same | latched
    · rw [same]
      exact h.latched.imp_right (k.moved.advanced.shifted.notices _)
    · exact .inr latched

theorem State.transition_tried (edition : Nat) (target : EditionState) (x : State × Nat) :
    Tried [(edition, target)] x (State.transition edition target x) := by
  have none_ (out : ¬(edition ≠ 0 ∧ (x.1.clock.editions[edition - 1]?).any (fun old => decide (old.rank < target.rank)) = true)) :
      Tried [(edition, target)] x x := by
    refine ⟨Moved.refl _, ?_, .inl rfl⟩
    rw [List.foldl_cons, List.foldl_nil, stepEditions, if_neg out]
  unfold State.transition
  by_cases zero : edition = 0
  · rw [show x.1.editionState edition = none from if_pos zero]
    exact none_ fun both => both.1 zero
  have entry : x.1.editionState edition = x.1.clock.editions[edition - 1]? := if_neg zero
  rw [entry]
  cases here : x.1.clock.editions[edition - 1]? with
  | none =>
    refine none_ ?_
    rw [here]
    simp
  | some old =>
    dsimp only
    split
    · next earlier =>
      obtain ⟨low, _⟩ := List.getElem?_eq_some_iff.mp here
      have was : x.1.clock.editions[edition - 1]? ≠ some .closed := fun closed => by
        rw [closed] at here
        cases here
        cases target <;> exact absurd earlier (by decide)
      obtain ⟨turned, clock, latched⟩ := State.editionsChange (fun states => states.set (edition - 1) target) x.1
      have step : [(edition, target)].foldl stepEditions (x.1.clock.editions, x.2) =
          (x.1.clock.editions.set (edition - 1) target, x.2 + 1) := by
        rw [List.foldl_cons, List.foldl_nil, stepEditions, if_pos ⟨zero, by rw [here]; simpa using earlier⟩]
      generalize ((x.1.changeEditions fun states => states.set (edition - 1) target).raise .editionStep).statusChanged = t at *
      split
      · next closes =>
        subst closes
        have moved := Moved.ofClose turned clock low was
        have quiet := ((State.closePlans_closed (edition - 1 + 1) t).quiet).trans (Quiet.closeEnds _)
        rw [show edition - 1 + 1 = edition by omega] at moved quiet
        refine ⟨moved, ?_, .inr (quiet.notices _ latched)⟩
        rw [step, quiet.sameClock, clock]
      · next notClosed =>
        refine ⟨Moved.ofTurned turned (by rw [clock]) ?_ ?_, ?_, .inr latched⟩
        · rw [clock]
          refine ⟨by simp, fun j closed => ?_⟩
          by_cases at_ : edition - 1 = j
          · rw [at_] at was
            exact absurd closed was
          · exact (List.getElem?_set_ne at_).trans closed
        · rw [clock]
          refine ⟨by simp, fun j closed => ?_⟩
          by_cases at_ : edition - 1 = j
          · subst at_
            rw [show ({ x.1.clock with editions := x.1.clock.editions.set (edition - 1) target } : Clock).editions[edition - 1]? = some target
              from List.getElem?_set_self low] at closed
            exact absurd (Option.some.inj closed) notClosed
          · exact (List.getElem?_set_ne at_).symm.trans closed
        · rw [step, clock]
    · next late =>
      refine none_ fun both => late ?_
      have := both.2
      rw [here] at this
      simpa using this

/-- The transitions of one edition that fall at an instant. -/
theorem State.editionInstant_tried (p edition : Nat) (e : EditionSpec) (x : State × Nat) :
    Tried (editionMoves p edition e) x (State.editionInstant p edition e x) := by
  have one (minute : Nat) (target : EditionState) (x : State × Nat) :
      Tried (if p = 60 * minute then [(edition, target)] else []) x
        (if p = 60 * minute then State.transition edition target x else x) := by
    split
    · exact State.transition_tried edition target x
    · exact Tried.nil x
  exact (one _ _ _).append ((one _ _ _).append (one _ _ _))

/-- The transitions that fall at an instant, of the editions of a table. -/
theorem instant_tried (p : Nat) (l : List (EditionSpec × Nat)) (x : State × Nat) :
    Tried (l.flatMap fun e => editionMoves p (e.2 + 1) e.1) x
      (l.foldl (fun x e => State.editionInstant p (e.2 + 1) e.1 x) x) := by
  induction l generalizing x with
  | nil => exact Tried.nil x
  | cons e rest ih =>
    rw [List.flatMap_cons, List.foldl_cons]
    exact (State.editionInstant_tried p (e.2 + 1) e.1 x).append (ih _)

end Moves

end Sys2Proof.Machine


namespace Sys2Proof.Machine

open Sys2Proof

/-! ## What follows a move of the clock (R141, R156) -/

section Ends

variable {s t u v : State} {n : Nat}

theorem Advanced.statusChanged (s : State) : Advanced s s.statusChanged :=
  .ofTurned (Turned.statusChanged s) fun e closes => closes.2.1 (by rw [← (Quiet.statusChanged s).sameClock]; exact closes.2.2)

/-- What follows at once. -/
theorem Advanced.settle (s : State) : Advanced s s.settle where
  shifted := (Quiet.settle s).toShifted
  told := (Quiet.settle s).told_current
  planned := fun slot p _ plan planned => .inl ⟨by
    have stands := State.planned_settleFits plan planned
    have rest : PageStands s.settleFits s.settle := PageStands.ofSlips s.settleFits
    unfold State.plan at stands ⊢
    rw [rest.page]
    exact stands, fun closes => closes.2.1 (by rw [← (Quiet.settle s).sameClock]; exact closes.2.2)⟩

/-- A TIME MARK of time `n` has been offered to the out queue. -/
structure MarkSent (n : Nat) (s t : State) : Prop where
  rest : t = { s with traffic := { s.traffic with queue := t.traffic.queue }, clock := { s.clock with nextMark := t.clock.nextMark } }
  queue : (t.traffic.queue.filter fun e => decide (e.owner ≠ .clock)) = s.traffic.queue.filter fun e => decide (e.owner ≠ .clock)
  sent : (∀ e ∈ s.traffic.queue, e.owner ≠ .clock) → s.traffic.heldShared < 3 →
    newEntry .clock (timeMarkFrame n) ∈ t.traffic.queue
  waits : (∃ e ∈ s.traffic.queue, e.owner = .clock ∧ e.onLine = true) → t.clock.nextMark = some n

theorem State.sendMark_sent (n : Nat) (s : State) : MarkSent n s (s.sendMark n) := by
  have others : (s.traffic.withdraw .clock).queue.filter (fun e => decide (e.owner ≠ .clock)) =
      s.traffic.queue.filter fun e => decide (e.owner ≠ .clock) :=
    Traffic.withdraw_filter (q := fun o => decide (o ≠ .clock)) (by simp) s.traffic
  have stays (onLine : ∃ e ∈ s.traffic.queue, e.owner = .clock ∧ e.onLine = true) :
      ((s.withdraw .clock).traffic.queue.any fun e => decide (e.owner = .clock)) = true := by
    obtain ⟨e, mem, owner, line⟩ := onLine
    refine List.any_eq_true.mpr ⟨_, List.mem_map_of_mem (List.mem_filter.mpr ⟨mem, by simp [line]⟩), ?_⟩
    split <;> simp [owner]
  unfold State.sendMark
  dsimp only
  split
  · next some_ =>
    refine ⟨rfl, others, fun none_ => ?_, fun _ => rfl⟩
    obtain ⟨e, mem, owner⟩ := List.any_eq_true.mp some_
    have inside : e ∈ (s.traffic.withdraw .clock).queue := mem
    rw [Traffic.withdraw, List.mem_map] at inside
    obtain ⟨e', mem', same⟩ := inside
    have was := none_ e' (List.mem_of_mem_filter mem')
    subst same
    refine absurd (of_decide_eq_true owner) ?_
    split <;> exact was
  · next gone =>
    rw [State.send_shared rfl]
    refine ⟨rfl, ?_, fun none_ room => ?_, fun onLine => absurd (stays onLine) gone⟩
    · show ((s.withdraw .clock).traffic.shared .clock (timeMarkFrame n)).filter _ = _
      unfold Traffic.shared
      split
      · rw [List.filter_append]
        refine Eq.trans ?_ ((List.append_nil _).trans others)
        rfl
      · exact others
    · show _ ∈ (s.withdraw .clock).traffic.shared .clock (timeMarkFrame n)
      unfold Traffic.shared
      have fits : (s.withdraw .clock).traffic.heldShared < 3 := Nat.lt_of_le_of_lt (Traffic.withdraw_heldShared .clock s.traffic) room
      rw [if_pos fits]
      exact List.mem_append_right _ (List.mem_singleton_self _)

theorem filter_of_filter {p q : OutEntry → Bool} {l m : List OutEntry} (implies : ∀ e, p e = true → q e = true)
    (same : l.filter q = m.filter q) : l.filter p = m.filter p := by
  have sub (l : List OutEntry) : l.filter p = (l.filter q).filter p := by
    rw [List.filter_filter]
    refine List.filter_congr fun e _ => ?_
    cases holds : p e with
    | false => rfl
    | true => rw [implies e holds]; rfl
  rw [sub l, sub m, same]

/-- The clock has moved, the out queue or the receive slots have then changed, and what follows at once has been done. -/
theorem ClockMoved.ofTraffic (h : Advanced s u)
    (rest :
      v =
        { u with
            traffic := { u.traffic with queue := v.traffic.queue, slots := v.traffic.slots },
            clock := { u.clock with nextMark := v.clock.nextMark } })
    (queue : (v.traffic.queue.filter fun e => decide (e.owner ≠ .clock)) = u.traffic.queue.filter fun e => decide (e.owner ≠ .clock))
    (k : Advanced v t) : ClockMoved s t := by
  have moved := h.shifted
  have after := k.shifted
  have store : v.store = u.store := by rw [rest]
  have desk : v.desk = u.desk := by rw [rest]
  have screen : v.screen = u.screen := by rw [rest]
  have plans (slot : Nat) : v.plan slot = u.plan slot := by rw [rest]; rfl
  have editions : v.clock.editions = u.clock.editions := by rw [rest]
  exact {
    stories := by rw [after.stories, store, moved.stories]
    storeRest := by
      have first := moved.storeRest
      have second := after.storeRest
      rw [store, first] at second
      exact second
    line := by rw [after.line, show v.line = u.line by rw [rest], moved.line]
    pass := by rw [after.pass, show v.pass = u.pass by rw [rest], moved.pass]
    counts := by rw [after.counts, show v.traffic.counts = u.traffic.counts by rw [rest], moved.counts]
    queue := by
      have first := filter_of_filter (p := fun e => decide (e.owner ≠ .page ∧ e.owner ≠ .clock)) (by simp +contextual) moved.queue
      have middle := filter_of_filter (p := fun e => decide (e.owner ≠ .page ∧ e.owner ≠ .clock)) (by simp +contextual) queue
      have last := filter_of_filter (p := fun e => decide (e.owner ≠ .page ∧ e.owner ≠ .clock)) (by simp +contextual) after.queue
      exact last.trans (middle.trans first)
    faces := by rw [after.faces, show v.fit.faces = u.fit.faces by rw [rest], moved.faces]
    editKey := by rw [after.editKey, show v.fit.editKey = u.fit.editKey by rw [rest], moved.editKey]
    busy := fun a there => by
      obtain ⟨_, once⟩ := moved.busy a there
      have same : v.port.busy = u.port.busy := by rw [rest]
      obtain ⟨x, twice⟩ := after.busy _ (same.trans once)
      exact ⟨x, twice⟩
    desk := by
      have first := moved.desk
      have second := after.desk
      rw [desk, first] at second
      rw [second]
      exact ⟨rfl, rfl, rfl, rfl, rfl, rfl⟩
    notices := fun m latched => after.notices m (by rw [desk]; exact moved.notices m latched)
    flash := by rw [after.flash, screen, moved.flash]
    lanes := by rw [after.lanes, screen, moved.lanes]
    windows := by
      have first : u.screen.windows.map Window.shown = s.screen.windows.map Window.shown := moved.windows
      have second : t.screen.windows.map Window.shown = v.screen.windows.map Window.shown := after.windows
      rw [second, screen, first]
    told := fun was => by
      refine k.told ?_
      have told := h.told was
      unfold State.toldCurrent at told ⊢
      rw [desk, screen, editions]
      exact told
    dropped := fun slot p low plan planned closes => by
      rcases h.planned slot p low plan planned with ⟨stands, stays⟩ | ⟨dropped, notice⟩
      · rcases k.planned slot p low ((plans slot).trans stands) planned with ⟨_, stays'⟩ | gone
        · exfalso
          by_cases between : u.clock.editions[p.edition - 1]? = some .closed
          · exact stays ⟨closes.1, closes.2.1, between⟩
          · exact stays' ⟨closes.1, by rw [editions]; exact between, closes.2.2⟩
        · exact gone
      · exact ⟨after.ended slot _ ((plans slot).trans dropped) rfl, after.notices _ (by rw [desk]; exact notice)⟩ }

/-- The same where a mark may have been offered. -/
theorem ClockMoved.ofMarked (h : Advanced s u) (m : v = u ∨ MarkSent n u v) (k : Advanced v t) : ClockMoved s t := by
  rcases m with rfl | m
  · exact ofTraffic h rfl rfl k
  · refine ofTraffic h ?_ m.queue k
    have rest := m.rest
    rw [rest]

end Ends

/-! ## What falls at an instant (R142, R144, R146) -/

section Instants

variable {x y z : State × Nat}

/-- What an instant, or several in turn, have done: the states and the count of what has been applied are `r`. -/
structure Instants (r : List EditionState × Nat) (x y : State × Nat) : Prop where
  advanced : Advanced x.1 y.1
  clock : y.1.clock = { x.1.clock with editions := y.1.clock.editions }
  result : (y.1.clock.editions, y.2) = r
  latched : y.2 = x.2 ∨ y.1.desk.latched .editionStep = true

theorem State.rollover_turned (x : State × Nat) :
    Turned x.1 (State.rollover x).1 ∧
      (State.rollover x).1.clock = { x.1.clock with editions := x.1.clock.editions.map fun _ => .opened } ∧
      (State.rollover x).1.desk.latched .editionStep = true ∧ (State.rollover x).2 = x.2 + 1 := by
  obtain ⟨turned, clock, latched⟩ := State.editionsChange (fun states => states.map fun _ => .opened) x.1
  exact ⟨turned, clock, latched, rfl⟩

theorem opened_not_closed {l : List EditionState} (i : Nat) : (l.map fun _ => EditionState.opened)[i]? ≠ some .closed := by
  rw [List.getElem?_map]
  cases l[i]? with
  | none => nofun
  | some _ => nofun

/-- The state after an instant's rollover, and what its transitions then do. -/
theorem State.instant_tried (t : Nat) (x : State × Nat) :
    ∃ z : State × Nat, Turned x.1 z.1 ∧
      (z.1.clock.editions, z.2) = rolledOver (dayTime x.1.dayStart t) (x.1.clock.editions, x.2) ∧
      z.1.clock = { x.1.clock with editions := z.1.clock.editions } ∧
      (z.2 = x.2 ∨ z.1.desk.latched .editionStep = true) ∧
      Tried (instantMoves (dayTime x.1.dayStart t) x.1.editionTable) z (State.instant t x) := by
  have table {z : State} (h : Shifted x.1 z) : z.editionTable = x.1.editionTable := by
    unfold State.editionTable
    rw [h.desk]
  unfold State.instant
  dsimp only
  split
  · next start =>
    obtain ⟨turned, clock, latched, count⟩ := State.rollover_turned x
    refine ⟨State.rollover x, turned, ?_, by rw [clock], .inr latched, ?_⟩
    · rw [clock, count, rolledOver, if_pos start]
    · rw [table turned.shifted]
      exact Machine.instant_tried _ _ _
  · next later =>
    exact ⟨x, Turned.refl _, by rw [rolledOver, if_neg later], rfl, .inl rfl, Machine.instant_tried _ _ _⟩

theorem State.instant_instants (t : Nat) (x : State × Nat) (lengths : x.1.clock.editions.length = x.1.editionTable.length) :
    Instants (editionsAt x.1.editionTable x.1.dayStart t (x.1.clock.editions, x.2)) x (State.instant t x) := by
  obtain ⟨z, turned, rolled, clock, latched, tried⟩ := State.instant_tried t x
  have opened (i : Nat) : z.1.clock.editions[i]? = some .closed → x.1.clock.editions[i]? = some .closed := by
    have first : z.1.clock.editions = (rolledOver (dayTime x.1.dayStart t) (x.1.clock.editions, x.2)).1 := congrArg Prod.fst rolled
    rw [first]
    unfold rolledOver
    split
    · exact fun closed => absurd closed (opened_not_closed i)
    · exact id
  refine ⟨(Advanced.ofTurned turned fun e closes => closes.2.1 (opened _ closes.2.2)).trans tried.moved.advanced, ?_, ?_, ?_⟩
  · have second := tried.moved.clock
    rw [clock] at second
    exact second
  · rw [tried.result, rolled, editionsAt_eq _ _ _ _ lengths]
  · rcases tried.latched with same | after
    · rw [same]
      exact latched.imp_right (tried.moved.advanced.shifted.notices _)
    · exact .inr after

end Instants

end Sys2Proof.Machine


namespace Sys2Proof.Machine

open Sys2Proof

/-! ## The second event (R141, R144, R146 to R148, R156) -/

section Marks

variable {s t u v : State} {n : Nat}

theorem Shifted.clockEntries (h : Shifted s t) : (t.traffic.queue.filter fun e => decide (e.owner = .clock)) =
    s.traffic.queue.filter fun e => decide (e.owner = .clock) :=
  filter_of_filter (fun e mine => by rw [of_decide_eq_true mine]; rfl) h.queue

/-- An entry of the clock is in the queue before and after. -/
theorem Shifted.clockEntry (h : Shifted s t) {e : OutEntry} (owner : e.owner = .clock) :
    e ∈ t.traffic.queue ↔ e ∈ s.traffic.queue := by
  have both : e ∈ (t.traffic.queue.filter fun e => decide (e.owner = .clock)) ↔
      e ∈ s.traffic.queue.filter fun e => decide (e.owner = .clock) := by rw [h.clockEntries]
  simpa [List.mem_filter, owner] using both

theorem Shifted.heldShared (h : Shifted s t) : t.traffic.heldShared = s.traffic.heldShared := by
  have same : (t.traffic.queue.filter fun e => e.owner.shared) = s.traffic.queue.filter fun e => e.owner.shared :=
    filter_of_filter (fun e shared => by cases owner : e.owner <;> simp_all [Owner.shared]) h.queue
  exact congrArg List.length same

theorem MarkSent.follows_sent (m : MarkSent n u v) (h : Shifted s u) (k : Shifted v t)
    (none_ : ∀ e ∈ s.traffic.queue, e.owner ≠ .clock) (room : s.traffic.heldShared < 3) :
    newEntry .clock (timeMarkFrame n) ∈ t.traffic.queue := by
  refine (k.clockEntry rfl).mpr (m.sent (fun e mem owner => none_ e ((h.clockEntry owner).mp mem) owner) ?_)
  rw [h.heldShared]
  exact room

theorem MarkSent.follows_waits (m : MarkSent n u v) (h : Shifted s u)
    (line : ∃ e ∈ s.traffic.queue, e.owner = .clock ∧ e.onLine = true) : v.clock.nextMark = some n := by
  obtain ⟨e, mem, owner, onLine⟩ := line
  exact m.waits ⟨e, (h.clockEntry owner).mpr mem, owner, onLine⟩

theorem LocksRolled.settle {closing : Nat → Prop} {after : List EditionState} (h : LocksRolled closing after s t) :
    LocksRolled closing after s t.settle where
  dropped := fun slot p underWay closes => by
    obtain ⟨plan, order, notice, each⟩ := h.dropped slot p underWay closes
    obtain ⟨plan', order'⟩ := OutOfOrder.settled t ((OutOfOrder.kept slot (some { p with state := .dropped })).settleFits ⟨plan, order⟩)
    exact ⟨plan', order', (Quiet.settle t).notices _ notice, fun k r mem there => State.story_settle (s := t) rfl (each k r mem there)⟩
  kept := fun slot p k r underWay other mem there locked alone => by
    obtain ⟨l, is⟩ := h.kept slot p k r underWay other mem there locked alone
    obtain ⟨l', is'⟩ := State.story_relocked (State.settle_follows t).stories is
    exact ⟨l', is'⟩

end Marks

section Seconds

variable {s y : State} {t : Nat}

/-- The end of an instant: at a whole minute the status rows change and a mark may be offered. -/
theorem State.minute_done (time : y.clock.time = t) (isSet : y.clock.isSet = true) :
    ∃ u v : State, (if t % 60 = 0 then y.minuteChange else y) = v ∧ Turned y u ∧ u.clock = y.clock ∧
      (t % 60 = 0 → ∀ n, n < y.screenCount → u.statusFresh n) ∧
      (t % 60 = 0 ∧ y.clockSource = y.desk.station → MarkSent t u v) ∧
      (¬(t % 60 = 0 ∧ y.clockSource = y.desk.station) → v = u) := by
  by_cases whole : t % 60 = 0
  · rw [if_pos whole]
    have turned := Turned.statusChanged y
    have clock := (Quiet.statusChanged y).sameClock
    have desk : y.statusChanged.desk = y.desk := (State.dirtyStatus_only y).desk
    have source : y.statusChanged.ownSource = decide (y.clockSource = y.desk.station) := by
      unfold State.ownSource State.clockSource
      rw [desk]
    have fresh : ∀ n, n < y.screenCount → y.statusChanged.statusFresh n := fun n enabled => State.dirtyStatus_fresh y enabled
    unfold State.minuteChange
    dsimp only
    generalize y.statusChanged = u at *
    rw [source, clock, isSet, time, Bool.and_true]
    by_cases own : y.clockSource = y.desk.station
    · exact ⟨u, _, if_pos (decide_eq_true own), turned, clock, fun _ => fresh, fun _ => State.sendMark_sent t u,
        fun no => absurd ⟨whole, own⟩ no⟩
    · exact ⟨u, _, if_neg fun yes => own (of_decide_eq_true yes), turned, clock, fun _ => fresh, fun both => absurd both.2 own,
        fun _ => rfl⟩
  · exact ⟨y, y, if_neg whole, Turned.refl y, rfl, fun is => absurd is whole, fun both => absurd both.1 whole, fun _ => rfl⟩

theorem MarkSent.stands {n : Nat} {u v : State} (m : v = u ∨ MarkSent n u v) : v.store = u.store ∧ v.page = u.page ∧ v.desk = u.desk ∧
    v.screen = u.screen ∧ v.traffic.slots = u.traffic.slots ∧ v.clock = { u.clock with nextMark := v.clock.nextMark } := by
  rcases m with rfl | m
  · exact ⟨rfl, rfl, rfl, rfl, rfl, rfl⟩
  · have rest := m.rest
    refine ⟨?_, ?_, ?_, ?_, ?_, ?_⟩ <;> rw [rest]

/-- The time of the publishing day is 0 at the day start alone (R142). -/
theorem dayTime_eq_zero {dayStart t : Nat} (minute : dayStart < 1440) (time : t < 86400) :
    dayTime dayStart t = 0 ↔ t = 60 * dayStart := by
  unfold dayTime daySeconds
  omega

theorem State.second_ticks (legal : s.clockLegal) (isSet : s.clock.isSet = true) :
    let time := (s.clock.time + 1) % 86400
    let rolls := time = 60 * s.dayStart
    let after := editionsAt s.editionTable s.dayStart time (s.clock.editions, 0)
    let closing (i : Nat) : Prop := after.1[i]? = some .closed ∧ (rolls ∨ s.clock.editions[i]? ≠ some .closed)
    let marks := time % 60 = 0 ∧ s.clockSource = s.desk.station
    ∃ t : State, s.second.settle = t ∧ ClockMoved s t ∧ t.traffic.slots = s.traffic.slots ∧
      t.clock = { s.clock with time := time, editions := after.1, nextMark := t.clock.nextMark } ∧
      (time % 60 = 0 → ∀ n, n < s.screenCount → t.statusFresh n) ∧
      (after.2 ≠ 0 → t.desk.latched .editionStep = true) ∧
      (∀ (k : Key) (r : Story), s.story k = some r → r.lock = none →
        ((∀ i, ¬closing i) → t.story k = some r) ∧
        ((∃ i, closing i) → (currentOf after.1).isSome = true →
          t.story k = some { r with edition := rolledTo after.1 r.edition })) ∧
      ((∀ i j, closing i → closing j → i = j) → LocksRolled (fun e => 1 ≤ e ∧ closing (e - 1)) after.1 s t) ∧
      (marks → (∀ e ∈ s.traffic.queue, e.owner ≠ .clock) → s.traffic.heldShared < 3 →
        newEntry .clock (timeMarkFrame time) ∈ t.traffic.queue) ∧
      (¬marks → t.clock.nextMark = s.clock.nextMark ∧
        t.traffic.queue.filter (fun e => e.owner = .clock) = s.traffic.queue.filter (fun e => e.owner = .clock)) := by
  intro time rolls after closing marks
  have low : time < 86400 := Nat.mod_lt _ (by decide)
  obtain ⟨_, _, minute, lengths⟩ := legal
  have ticks : Turned s (s.onClock fun c => { c with time := time }) := ⟨Shifted.onClock s rfl, id, rfl, rfl⟩
  have ticked : Advanced s (s.onClock fun c => { c with time := time }) :=
    .ofTurned ticks fun e closes => closes.2.1 closes.2.2
  have instants := State.instant_instants time (s.onClock fun c => { c with time := time }, 0) lengths
  obtain ⟨z, turned, rolled, _, _, tried⟩ := State.instant_tried time (s.onClock fun c => { c with time := time }, 0)
  have second : s.second = if time % 60 = 0 then (State.instant time (s.onClock fun c => { c with time := time }, 0)).1.minuteChange
      else (State.instant time (s.onClock fun c => { c with time := time }, 0)).1 := if_pos isSet
  have before : (s.onClock fun c => { c with time := time }).clock = { s.clock with time := time } := rfl
  generalize State.instant time (s.onClock fun c => { c with time := time }, 0) = y at *
  have advanced : Advanced s y.1 := ticked.trans instants.advanced
  have desk := advanced.shifted.desk
  have clock : y.1.clock = { s.clock with time := time, editions := y.1.clock.editions } := by
    have same := instants.clock
    dsimp only at same
    rw [before] at same
    exact same
  have editions : y.1.clock.editions = after.1 := congrArg Prod.fst instants.result
  have count : y.2 = after.2 := congrArg Prod.snd instants.result
  obtain ⟨u, v, ends, minuteTurned, minuteClock, fresh, sent, unsent⟩ := State.minute_done (y := y.1) (t := time) (by rw [clock]) (by rw [clock]; exact isSet)
  have source : y.1.clockSource = s.clockSource ∧ y.1.desk.station = s.desk.station ∧ y.1.screenCount = s.screenCount := by
    unfold State.clockSource State.screenCount
    rw [desk]
    exact ⟨rfl, rfl, rfl⟩
  rw [source.1, source.2.1] at sent unsent
  rw [source.2.2] at fresh
  have m : v = u ∨ MarkSent time u v := by
    by_cases marked : marks
    · exact .inr (sent marked)
    · exact .inl (unsent marked)
  obtain ⟨vStore, vPage, vDesk, vScreen, vSlots, vClock⟩ := MarkSent.stands m
  have uAdvanced : Advanced s u := advanced.trans (.ofTurned minuteTurned fun e closes => closes.2.1 (by rw [← minuteClock]; exact closes.2.2))
  have moved := ClockMoved.ofMarked uAdvanced m (Advanced.settle v)
  have quiet := Quiet.settle v
  have settledStory {k : Key} {r : Story} (free : r.lock = none) (there : v.story k = some r) := State.story_settle free there
  have settledFresh {n : Nat} (is : v.statusFresh n) := State.statusFresh_settle is
  have settledLocks {closing : Nat → Prop} {after : List EditionState} (is : LocksRolled closing after s v) := is.settle
  rw [second, ends]
  generalize v.settle = w at *
  have zStore : z.1.store = s.store := turned.store.trans ticks.store
  have zPage : z.1.page = s.page := turned.page.trans ticks.page
  have yStore : v.store = y.1.store := vStore.trans minuteTurned.store
  have yPage : v.page = y.1.page := vPage.trans minuteTurned.page
  have closes (i : Nat) : closing i ↔ newlyClosed z.1 y.1 i := by
    have start : z.1.clock.editions = if rolls then s.clock.editions.map fun _ => .opened else s.clock.editions := by
      have first : z.1.clock.editions = (rolledOver (dayTime s.dayStart time) (s.clock.editions, 0)).1 := congrArg Prod.fst rolled
      rw [first]
      unfold rolledOver
      by_cases at_ : rolls
      · rw [if_pos at_, if_pos ((dayTime_eq_zero minute low).mpr at_)]
      · rw [if_neg at_, if_neg fun zero => at_ ((dayTime_eq_zero minute low).mp zero)]
    unfold newlyClosed
    rw [editions, start]
    refine and_congr_right fun _ => ?_
    by_cases at_ : rolls
    · rw [if_pos at_]
      exact ⟨fun _ => opened_not_closed i, fun _ => .inl at_⟩
    · rw [if_neg at_]
      exact or_iff_right at_
  refine ⟨w, rfl, moved, ?_, ?_, fun whole n enabled => ?_, fun applied => ?_, fun k r there free => ?_, fun alone => ?_,
    fun marked none_ room => ?_, fun unmarked => ?_⟩
  · rw [quiet.slots, vSlots, uAdvanced.shifted.slots]
  · rw [quiet.sameClock, vClock, minuteClock, clock, editions]
  · refine settledFresh (statusFresh_of_window (fresh whole n enabled) (by rw [vScreen]) fun mode => ?_)
    unfold State.statusRow
    rw [vScreen, vDesk, vClock]
    rfl
  · refine quiet.notices _ ?_
    rw [vDesk]
    refine minuteTurned.shifted.notices _ (instants.latched.resolve_left fun none_ => applied ?_)
    rw [← count]
    exact none_
  · have was : z.1.story k = some r := by rw [State.story, zStore]; exact there
    obtain ⟨e, now, same, rolls⟩ := tried.moved.unlocked k r was free
    have now : v.story k = some { r with edition := e } := by rw [State.story, yStore]; exact now
    have after_ := settledStory (r := { r with edition := e }) free now
    refine ⟨fun none_ => ?_, fun some_ isSome => ?_⟩
    · have back : Grown y.1.clock.editions z.1.clock.editions := by
        by_contra no
        obtain ⟨i, new⟩ := newlyClosed_of_not_grown tried.moved.grown no
        exact none_ i ((closes i).mpr new)
      rw [after_, same back]
    · obtain ⟨i, new⟩ := some_
      have no : ¬Grown y.1.clock.editions z.1.clock.editions := fun back =>
        ((closes i).mp new).2 (back.2 i ((closes i).mp new).1)
      rw [editions] at rolls
      rw [after_, rolls (by rw [← editions]; exact no) isSome]
  · have locks := tried.moved.locks fun i j hi hj => alone i j ((closes i).mpr hi) ((closes j).mpr hj)
    refine settledLocks (LocksRolled.later (locks.before zStore zPage (fun e => and_congr_right' (closes (e - 1))) fun e => by rw [editions])
      yStore yPage (fun n latched => ?_) (fun e => Iff.rfl) fun e => rfl)
    rw [vDesk]
    exact minuteTurned.shifted.notices n latched
  · exact (sent marked).follows_sent uAdvanced.shifted quiet.toShifted none_ room
  · have same := unsent unmarked
    subst same
    refine ⟨?_, ?_⟩
    · rw [quiet.sameClock, minuteClock, clock]
    · exact quiet.toShifted.clockEntries.trans uAdvanced.shifted.clockEntries

end Seconds

/-- Settles O49: the instant is a rollover and a row of transitions, each with its effects. -/
theorem secondTicks : Obligations.SecondTicks := by
  unfold Obligations.SecondTicks
  intro s legal
  refine ⟨fun unset => ⟨_, rfl, ?_⟩, fun isSet => ?_⟩
  · rw [show s.second = s from if_neg (by rw [unset]; nofun)]
    exact State.settle_follows s
  · intro time rolls after closing closes marks
    obtain ⟨t, is, moved, slots, clock, fresh, latched, stories, locks, sent, unsent⟩ := State.second_ticks legal isSet
    refine ⟨t, congrArg Host.Outcome.next is, moved, slots, clock, fresh, latched, fun k r there free => ?_,
      fun alone => (locks alone).locksAtClose, sent, unsent⟩
    obtain ⟨stands, rolled⟩ := stories k r there free
    refine ⟨fun none_ => stands fun i is => none_ ⟨i, is⟩, fun e st some_ now => ?_⟩
    rw [rolled some_ (by rw [now]; rfl), rolledTo, now]
    rfl

end Sys2Proof.Machine


namespace Sys2Proof.Machine

open Sys2Proof

/-! ## The instants of a forward set (R151) -/

section Spans

variable {table : List EditionSpec} {dayStart : Nat}

theorem editionsAt_length (t : Nat) (x : List EditionState × Nat) (lengths : x.1.length = table.length) :
    (editionsAt table dayStart t x).1.length = table.length := by
  unfold editionsAt
  dsimp only
  split <;> simp [lengths]

/-- Nothing falls between whole minutes. -/
theorem editionsAt_within {t : Nat} (minute : dayStart < 1440) (within_ : t % 60 ≠ 0) (x : List EditionState × Nat)
    (lengths : x.1.length = table.length) : editionsAt table dayStart t x = x := by
  have never (m : Nat) : (t + 86400 - 60 * dayStart) % 86400 ≠ 60 * m := by omega
  have zip : ∀ (table : List EditionSpec) (l : List EditionState), l.length = table.length →
      List.zipWith (fun (_ : EditionSpec) (st : EditionState) => (st, 0)) table l = l.map fun st => (st, 0) := by
    intro table
    induction table with
    | nil =>
      intro l none_
      obtain rfl := List.length_eq_zero_iff.mp none_
      rfl
    | cons e rest ih =>
      intro l some_
      obtain ⟨st, others, rfl⟩ := List.exists_cons_of_length_eq_add_one some_
      rw [List.zipWith_cons_cons, List.map_cons, ih others (by simpa using some_)]
  unfold editionsAt
  dsimp only
  rw [if_neg (never 0)]
  simp only [List.foldl_cons, List.foldl_nil, never, false_and, if_false]
  rw [zip table x.1 lengths, List.map_map, List.map_map]
  have states : (x.1.map ((fun y : EditionState × Nat => y.1) ∘ fun st => (st, 0))) = x.1 := List.map_id _
  have none_ : (x.1.map ((fun y : EditionState × Nat => y.2) ∘ fun st => (st, 0))).sum = 0 := by
    rw [show ((fun y : EditionState × Nat => y.2) ∘ fun st : EditionState => (st, 0)) = fun _ => 0 from rfl]
    simp
  rw [states, none_, Nat.add_zero]

/-- Whole minutes from minute `minute` on. -/
def minutesOn (table : List EditionSpec) (dayStart minute count : Nat) (x : List EditionState × Nat) : List EditionState × Nat :=
  (List.range count).foldl (fun x j => editionsAt table dayStart (60 * (minute + j) % 86400) x) x

theorem minutesOn_succ (minute count : Nat) (x : List EditionState × Nat) :
    minutesOn table dayStart minute (count + 1) x =
      minutesOn table dayStart (minute + 1) count (editionsAt table dayStart (60 * minute % 86400) x) := by
  unfold minutesOn
  rw [List.range_succ_eq_map, List.foldl_cons, List.foldl_map, Nat.add_zero]
  refine congrArg (fun f => (List.range count).foldl f (editionsAt table dayStart (60 * minute % 86400) x)) ?_
  funext y j
  rw [show minute + j.succ = minute + 1 + j by omega]

theorem minutesOn_length (minute count : Nat) (x : List EditionState × Nat) (lengths : x.1.length = table.length) :
    (minutesOn table dayStart minute count x).1.length = table.length := by
  induction count generalizing minute x with
  | zero => exact lengths
  | succ count ih =>
    rw [minutesOn_succ]
    exact ih _ _ (editionsAt_length _ _ lengths)

theorem minutesOn_last (minute count : Nat) (x : List EditionState × Nat) :
    minutesOn table dayStart minute (count + 1) x =
      editionsAt table dayStart (60 * (minute + count) % 86400) (minutesOn table dayStart minute count x) := by
  unfold minutesOn
  rw [List.range_succ, List.foldl_append]
  rfl

/-- One second more of a span. -/
theorem minutesOn_second (minute : dayStart < 1440) (time d : Nat) (x : List EditionState × Nat) (lengths : x.1.length = table.length) :
    editionsAt table dayStart ((time + 1 + d) % 86400) (minutesOn table dayStart (time / 60 + 1) ((time % 60 + d) / 60) x) =
      minutesOn table dayStart (time / 60 + 1) ((time % 60 + (d + 1)) / 60) x := by
  by_cases whole : (time + 1 + d) % 60 = 0
  · have one : (time % 60 + (d + 1)) / 60 = (time % 60 + d) / 60 + 1 := by omega
    have now : 60 * (time / 60 + 1 + (time % 60 + d) / 60) = time + 1 + d := by omega
    rw [one, minutesOn_last, now]
  · have same : (time % 60 + (d + 1)) / 60 = (time % 60 + d) / 60 := by omega
    have between : (time + 1 + d) % 86400 % 60 ≠ 0 := by omega
    rw [same]
    exact editionsAt_within minute between _ (minutesOn_length _ _ _ lengths)

/-- The seconds of a span and the whole minutes among them. -/
theorem seconds_minutes (minute : dayStart < 1440) (time d : Nat) (x : List EditionState × Nat) (lengths : x.1.length = table.length) :
    ((List.range d).foldl (fun x i => editionsAt table dayStart ((time + 1 + i) % 86400) x) x) =
      minutesOn table dayStart (time / 60 + 1) ((time % 60 + d) / 60) x := by
  induction d with
  | zero =>
    have none_ : (time % 60 + 0) / 60 = 0 := by omega
    rw [none_, List.range_zero, List.foldl_nil, minutesOn, List.range_zero, List.foldl_nil]
  | succ d ih =>
    rw [List.range_succ, List.foldl_append, ih]
    exact minutesOn_second minute time d x lengths

theorem State.passMinutes_instants (minute count : Nat) (x : State × Nat) (lengths : x.1.clock.editions.length = x.1.editionTable.length) :
    Advanced x.1 (State.passMinutes minute count x).1 ∧
      (State.passMinutes minute count x).1.clock =
        { x.1.clock with editions := (State.passMinutes minute count x).1.clock.editions } ∧
      ((State.passMinutes minute count x).1.clock.editions, (State.passMinutes minute count x).2) =
        minutesOn x.1.editionTable x.1.dayStart minute count (x.1.clock.editions, x.2) := by
  induction count generalizing minute x with
  | zero => exact ⟨Advanced.refl _, rfl, rfl⟩
  | succ count ih =>
    have first := State.instant_instants (60 * minute % 86400) x lengths
    have more := ih (minute + 1) (State.instant (60 * minute % daySeconds) x)
    have passed : State.passMinutes minute (count + 1) x = State.passMinutes (minute + 1) count (State.instant (60 * minute % daySeconds) x) := rfl
    rw [passed, minutesOn_succ]
    have now : State.instant (60 * minute % daySeconds) x = State.instant (60 * minute % 86400) x := rfl
    rw [now] at more ⊢
    generalize State.instant (60 * minute % 86400) x = y at *
    have same : y.1.editionTable = x.1.editionTable ∧ y.1.dayStart = x.1.dayStart := by
      unfold State.editionTable State.dayStart
      rw [first.advanced.shifted.desk]
      exact ⟨rfl, rfl⟩
    have states : y.1.clock.editions = (editionsAt x.1.editionTable x.1.dayStart (60 * minute % 86400) (x.1.clock.editions, x.2)).1 :=
      congrArg Prod.fst first.result
    obtain ⟨advanced, clock, result⟩ := more (by rw [same.1, states]; exact editionsAt_length _ _ lengths)
    refine ⟨first.advanced.trans advanced, ?_, ?_⟩
    · have start := first.clock
      generalize State.passMinutes (minute + 1) count y = z at *
      rw [start] at clock
      exact clock
    · rw [result, same.1, same.2, first.result]

end Spans

/-! ## Sets (R150 to R153) -/

section Sets

variable {s t u v : State} {n : Nat}

theorem State.setTime_done (n : Nat) (s : State) : Turned s (s.setTime n) ∧ (s.setTime n).clock = { s.clock with time := n } := by
  have moved : Turned s (s.onClock fun c => { c with time := n }) := ⟨Shifted.onClock s rfl, id, rfl, rfl⟩
  unfold State.setTime
  dsimp only
  split
  · exact ⟨moved, rfl⟩
  · exact ⟨moved.trans (Turned.statusChanged _), (Quiet.statusChanged _).sameClock⟩

theorem Advanced.setTime (n : Nat) (s : State) : Advanced s (s.setTime n) := by
  obtain ⟨turned, moved⟩ := State.setTime_done n s
  refine .ofTurned turned fun e closes => closes.2.1 ?_
  rw [← show (s.setTime n).clock.editions = s.clock.editions by rw [moved]]
  exact closes.2.2

/-- What a set of the clock has done, `o` of R150 to R153 given. -/
structure SetDone (n : Nat) (o : SetKind × List EditionState × Nat) (s : State) (x : State × Nat) : Prop where
  kind : s.setKind n = o.1
  count : x.2 = o.2.2
  advanced : Advanced s x.1
  clock : x.1.clock = { s.clock with time := n, isSet := true, editions := o.2.1 }
  latched : o.1 = .first → x.1.desk.latched .editionStep = true
  stories : ∀ (k : Key) (r : Story), o.1 = .first → s.story k = some r → r.lock = none →
    x.1.story k = some { r with edition := rolledTo o.2.1 r.edition }
  locks : o.1 = .first → LocksRolled (fun e => 1 ≤ e ∧ o.2.1[e - 1]? = some .closed) o.2.1 s x.1

/-- The states a first set gives the editions (R153). -/
def State.firstStates (n : Nat) (s : State) : List EditionState := s.editionTable.map (stateAt (dayTime s.dayStart n))

/-- The state after the first part of a first set, before plans end. -/
def State.firstTold (n : Nat) (s : State) : State :=
  let u := (((s.onClock fun c => { c with time := n, isSet := true }).onClock fun c => { c with editions := s.firstStates n }).raise
    .editionStep).statusChanged
  u.tellCurrent u.current

theorem State.firstTold_turned (n : Nat) (s : State) :
    Turned s (s.firstTold n) ∧ (s.firstTold n).clock = { s.clock with time := n, isSet := true, editions := s.firstStates n } ∧
      (s.firstTold n).desk.latched .editionStep = true := by
  have moved : Shifted s ((s.onClock fun c => { c with time := n, isSet := true }).onClock fun c => { c with editions := s.firstStates n }) :=
    (Shifted.onClock s rfl).trans (Shifted.onClock _ rfl)
  have rest : ((s.onClock fun c => { c with time := n, isSet := true }).onClock fun c => { c with editions := s.firstStates n }).store = s.store ∧
      ((s.onClock fun c => { c with time := n, isSet := true }).onClock fun c => { c with editions := s.firstStates n }).page = s.page :=
    ⟨rfl, rfl⟩
  have clock : ((s.onClock fun c => { c with time := n, isSet := true }).onClock fun c => { c with editions := s.firstStates n }).clock =
      { s.clock with time := n, isSet := true, editions := s.firstStates n } := rfl
  unfold State.firstTold
  dsimp only
  generalize ((s.onClock fun c => { c with time := n, isSet := true }).onClock fun c => { c with editions := s.firstStates n }) = a at *
  have raised := Turned.raise .editionStep a
  have latched : (a.raise .editionStep).desk.latched .editionStep = true := State.raise_latched ..
  have sameClock : (a.raise .editionStep).clock = a.clock := rfl
  generalize a.raise .editionStep = b at *
  have status := Turned.statusChanged b
  have quiet := Quiet.statusChanged b
  generalize b.statusChanged = c at *
  obtain ⟨shifted, told, store, page, same⟩ := State.tellCurrent_turned c
  refine ⟨⟨((moved.trans raised.shifted).trans status.shifted).trans shifted, fun _ => told,
    store.trans (status.store.trans (raised.store.trans rest.1)), page.trans (status.page.trans (raised.page.trans rest.2))⟩, ?_,
    shifted.notices _ (quiet.notices _ latched)⟩
  rw [same, quiet.sameClock, sameClock, clock]

theorem State.firstSet_done (unset : s.clock.isSet = false) (n : Nat) : SetDone n (s.setOutcome n) s (s.firstSet n) := by
  have outcome : s.setOutcome n =
      (.first, s.firstStates n, ((s.clock.editions.zip (s.firstStates n)).filter fun x => x.1 ≠ x.2).length) := if_pos unset
  have kind : s.setKind n = .first := if_pos (by rw [unset]; rfl)
  rw [outcome]
  obtain ⟨turned, clock, latched⟩ := State.firstTold_turned n s
  have set_ : s.firstSet n =
      (if decide (n / 60 ≠ s.clock.time / 60) = true then
          (((s.firstStates n).zipIdx.foldl (fun s e => if e.1 = .closed then s.closePlans (e.2 + 1) else s) (s.firstTold n)).closeEnds).statusChanged
        else ((s.firstStates n).zipIdx.foldl (fun s e => if e.1 = .closed then s.closePlans (e.2 + 1) else s) (s.firstTold n)).closeEnds,
        ((s.clock.editions.zip (s.firstStates n)).filter fun x => decide (x.1 ≠ x.2)).length) := rfl
  rw [set_]
  generalize s.firstTold n = a at *
  obtain ⟨quiet, locks, stories, planned⟩ := State.closes (closing := fun e => 1 ≤ e ∧ (s.firstStates n)[e - 1]? = some .closed) turned
    (State.closeAll_closed (s.firstStates n) a) fun m e => Iff.rfl
  generalize ((s.firstStates n).zipIdx.foldl (fun s e => if e.1 = .closed then s.closePlans (e.2 + 1) else s) a).closeEnds = b at *
  have states : a.clock.editions = s.firstStates n := by rw [clock]
  have last : Turned b (if decide (n / 60 ≠ s.clock.time / 60) = true then b.statusChanged else b) ∧
      (if decide (n / 60 ≠ s.clock.time / 60) = true then b.statusChanged else b).clock = b.clock := by
    split
    · exact ⟨Turned.statusChanged b, (Quiet.statusChanged b).sameClock⟩
    · exact ⟨Turned.refl b, rfl⟩
  generalize (if decide (n / 60 ≠ s.clock.time / 60) = true then b.statusChanged else b) = c at *
  have closed : Advanced s b := {
    shifted := turned.shifted.trans quiet.toShifted
    told := fun was => quiet.told_current (turned.told was)
    planned := fun slot p low plan is => by
      obtain ⟨dropped, stands⟩ := planned slot p low plan is
      by_cases closes : 1 ≤ p.edition ∧ (s.firstStates n)[p.edition - 1]? = some .closed
      · exact .inr (dropped closes)
      · refine .inl ⟨stands closes, fun between => closes ⟨between.1, ?_⟩⟩
        rw [← states, ← quiet.sameClock]
        exact between.2.2 }
  refine ⟨kind, rfl, closed.trans (.ofTurned last.1 fun e closes => closes.2.1 (by rw [← last.2]; exact closes.2.2)), ?_, fun _ => ?_,
    fun k r _ there free => ?_, fun _ => ?_⟩
  · rw [last.2, quiet.sameClock, clock]
  · exact last.1.shifted.notices _ (quiet.notices _ latched)
  · rw [State.story, last.1.store]
    refine (stories k r there free).trans ?_
    rw [states]
  · exact locks.later last.1.store last.1.page last.1.shifted.notices (fun _ => Iff.rfl) fun e => by rw [states]

/-- A set of the clock (R150 to R153). -/
theorem State.setClock_done (legal : s.clockLegal) (low : n < 86400) : SetDone n (s.setOutcome n) s (s.setClock n) := by
  obtain ⟨time, _, minute, lengths⟩ := legal
  have day : s.clock.time < 86400 := time
  cases set_ : s.clock.isSet with
  | false =>
    have kind : s.setKind n = .first := if_pos (by rw [set_]; rfl)
    have is : s.setClock n = s.firstSet n := by unfold State.setClock; rw [kind]
    rw [is]
    exact State.firstSet_done set_ n
  | true =>
    have same : ({ s.clock with isSet := true } : Clock) = s.clock := by rw [← set_]
    have kinds : s.setKind n = if (n + 86400 - s.clock.time) % 86400 = 0 then .noChange
        else if (n + 86400 - s.clock.time) % 86400 ≤ 43199 then .forward else .backward := if_neg (by rw [set_]; nofun)
    by_cases zero : (n + 86400 - s.clock.time) % 86400 = 0
    · have kind : s.setKind n = .noChange := kinds.trans (if_pos zero)
      have outcome : s.setOutcome n = (.noChange, s.clock.editions, 0) := (if_neg (by rw [set_]; nofun)).trans (if_pos zero)
      have is : s.setClock n = (s, 0) := by unfold State.setClock; rw [kind]
      rw [is, outcome]
      obtain rfl : n = s.clock.time := by omega
      refine ⟨kind, rfl, Advanced.refl s, ?_, nofun, fun _ _ no => (by cases no), nofun⟩
      exact same.symm
    · by_cases ahead : (n + 86400 - s.clock.time) % 86400 ≤ 43199
      · have kind : s.setKind n = .forward := kinds.trans ((if_neg zero).trans (if_pos ahead))
        have outcome : s.setOutcome n = (.forward,
            (List.range ((n + 86400 - s.clock.time) % 86400)).foldl
              (fun x i => editionsAt s.editionTable s.dayStart ((s.clock.time + 1 + i) % 86400) x) (s.clock.editions, 0)) :=
          (if_neg (by rw [set_]; nofun)).trans ((if_neg zero).trans (if_pos ahead))
        have is : s.setClock n = s.forwardSet n := by unfold State.setClock; rw [kind]
        rw [is, outcome, seconds_minutes minute _ _ _ lengths]
        obtain ⟨advanced, clock, result⟩ := State.passMinutes_instants (s.clock.time / 60 + 1)
          ((s.clock.time % 60 + (n + 86400 - s.clock.time) % 86400) / 60) (s, 0) lengths
        have forward : s.forwardSet n =
            ((State.passMinutes (s.clock.time / 60 + 1) ((s.clock.time % 60 + (n + 86400 - s.clock.time) % 86400) / 60) (s, 0)).1.setTime n,
              (State.passMinutes (s.clock.time / 60 + 1) ((s.clock.time % 60 + (n + 86400 - s.clock.time) % 86400) / 60) (s, 0)).2) := rfl
        rw [forward]
        generalize State.passMinutes (s.clock.time / 60 + 1) ((s.clock.time % 60 + (n + 86400 - s.clock.time) % 86400) / 60) (s, 0) = x at *
        have moved := (State.setTime_done n x.1).2
        dsimp only at result advanced clock
        refine ⟨kind, congrArg Prod.snd result, advanced.trans (Advanced.setTime n x.1),
          ?_, nofun, fun _ _ no => (by cases no), nofun⟩
        have states : x.1.clock.editions = (minutesOn s.editionTable s.dayStart (s.clock.time / 60 + 1)
          ((s.clock.time % 60 + (n + 86400 - s.clock.time) % 86400) / 60) (s.clock.editions, 0)).1 := congrArg Prod.fst result
        rw [moved, clock, states, ← same]
      · have kind : s.setKind n = .backward := kinds.trans ((if_neg zero).trans (if_neg ahead))
        have outcome : s.setOutcome n = (.backward, s.clock.editions, 0) :=
          (if_neg (by rw [set_]; nofun)).trans ((if_neg zero).trans (if_neg ahead))
        have is : s.setClock n = (s.setTime n, 0) := by unfold State.setClock; rw [kind]
        rw [is, outcome]
        have moved := (State.setTime_done n s).2
        refine ⟨kind, rfl, Advanced.setTime n s,
          ?_, nofun, fun _ _ no => (by cases no), nofun⟩
        rw [moved, ← same]

end Sets

end Sys2Proof.Machine


namespace Sys2Proof.Machine

open Sys2Proof

/-! ## SET CLOCK (R154, R156) -/

section HostSet

variable {s : State} {n : Nat}

/-- What SET CLOCK leaves, but for the response. -/
structure HostSetDone (n : Nat) (o : SetKind × List EditionState × Nat) (s t : State) : Prop where
  moved : ClockMoved s t
  desk : t.desk.ready = s.desk.ready ∧ t.desk.command = s.desk.command
  slots : t.traffic.slots = s.traffic.slots
  clock : t.clock = { s.clock with time := n, isSet := true, editions := o.2.1, nextMark := t.clock.nextMark }
  latched : o.1 = .first → t.desk.latched .editionStep = true
  stories : ∀ (k : Key) (r : Story), o.1 = .first → s.story k = some r → r.lock = none →
    t.story k = some { r with edition := rolledTo o.2.1 r.edition }
  locks : o.1 = .first → LocksRolled (fun e => 1 ≤ e ∧ o.2.1[e - 1]? = some .closed) o.2.1 s t
  sent : s.clockSource = s.desk.station → (∀ e ∈ s.traffic.queue, e.owner ≠ .clock) → s.traffic.heldShared < 3 →
    newEntry .clock (timeMarkFrame n) ∈ t.traffic.queue
  waits : s.clockSource = s.desk.station → (∃ e ∈ s.traffic.queue, e.owner = .clock ∧ e.onLine = true) →
    t.clock.nextMark = some n
  unsent : s.clockSource ≠ s.desk.station → t.clock.nextMark = s.clock.nextMark ∧
    t.traffic.queue.filter (fun e => e.owner = .clock) = s.traffic.queue.filter (fun e => e.owner = .clock)

theorem State.hostSet_done (legal : s.clockLegal) (low : n < 86400) :
    ∃ t, s.hostSet n = t.done (.clockSet (s.setOutcome n).1 (s.setOutcome n).2.2 n (currentOf (s.setOutcome n).2.1)) ∧
      HostSetDone n (s.setOutcome n) s t := by
  have set_ := State.setClock_done legal low
  have is : s.hostSet n =
      ((if (s.setClock n).1.ownSource = true then (s.setClock n).1.sendMark (s.setClock n).1.clock.time else (s.setClock n).1).settle).done
        (.clockSet (s.setKind n) (s.setClock n).2
          (if (s.setClock n).1.ownSource = true then (s.setClock n).1.sendMark (s.setClock n).1.clock.time else (s.setClock n).1).clock.time
          (currentOf (if (s.setClock n).1.ownSource = true then (s.setClock n).1.sendMark (s.setClock n).1.clock.time
            else (s.setClock n).1).clock.editions)) := rfl
  rw [is]
  generalize s.setClock n = x at *
  generalize s.setOutcome n = o at *
  have desk := set_.advanced.shifted.desk
  have own : x.1.ownSource = decide (s.clockSource = s.desk.station) := by
    unfold State.ownSource State.clockSource
    rw [desk]
  have time : x.1.clock.time = n := by rw [set_.clock]
  have sent : s.clockSource = s.desk.station →
      MarkSent n x.1 (if x.1.ownSource = true then x.1.sendMark x.1.clock.time else x.1) := fun mine => by
    rw [if_pos (by rw [own]; exact decide_eq_true mine), time]
    exact State.sendMark_sent n x.1
  have unsent : s.clockSource ≠ s.desk.station → (if x.1.ownSource = true then x.1.sendMark x.1.clock.time else x.1) = x.1 := fun other =>
    if_neg fun mine => other (by rw [own] at mine; exact of_decide_eq_true mine)
  generalize (if x.1.ownSource = true then x.1.sendMark x.1.clock.time else x.1) = v at *
  have m : v = x.1 ∨ MarkSent n x.1 v := by
    by_cases mine : s.clockSource = s.desk.station
    · exact .inr (sent mine)
    · exact .inl (unsent mine)
  obtain ⟨store, page, vDesk, screen, slots, clock⟩ := MarkSent.stands m
  have clocks : v.clock = { s.clock with time := n, isSet := true, editions := o.2.1, nextMark := v.clock.nextMark } := by
    rw [set_.clock] at clock
    exact clock
  have moved := ClockMoved.ofMarked set_.advanced m (Advanced.settle v)
  have quiet := Quiet.settle v
  have story {k : Key} {r : Story} (free : r.lock = none) (there : v.story k = some r) := State.story_settle free there
  have locks {closing : Nat → Prop} {after : List EditionState} (is : LocksRolled closing after s v) := is.settle
  refine ⟨v.settle, ?_, ?_⟩
  · rw [set_.kind, set_.count, show v.clock.time = n by rw [clocks], show v.clock.editions = o.2.1 by rw [clocks]]
  · generalize v.settle = w at *
    exact {
      moved := moved
      desk := by
        rw [quiet.desk, vDesk, desk]
        exact ⟨rfl, rfl⟩
      slots := by rw [quiet.slots, slots, set_.advanced.shifted.slots]
      clock := by rw [quiet.sameClock]; exact clocks
      latched := fun first => quiet.notices _ (by rw [vDesk]; exact set_.latched first)
      stories := fun k r first there free =>
        story (r := { r with edition := rolledTo o.2.1 r.edition }) free (by
          rw [State.story, store]
          exact set_.stories k r first there free)
      locks := fun first => locks ((set_.locks first).later store page (fun n latched => by rw [vDesk]; exact latched)
        (fun _ => Iff.rfl) fun _ => rfl)
      sent := fun mine none_ room => (sent mine).follows_sent set_.advanced.shifted quiet.toShifted none_ room
      waits := fun mine line => by
        rw [quiet.sameClock]
        exact (sent mine).follows_waits set_.advanced.shifted line
      unsent := fun other => by
        have same := unsent other
        subst same
        refine ⟨?_, quiet.toShifted.clockEntries.trans set_.advanced.shifted.clockEntries⟩
        rw [quiet.sameClock, set_.clock] }

/-- The taking of the command and its response change nothing that a move of the clock is held to keep. -/
theorem ClockMoved.commanded {name : Byte} {d : ResponseData} {t : State} (h : ClockMoved (s.takeTransfer name) t) :
    ClockMoved s (t.done d) where
  stories := h.stories
  storeRest := h.storeRest
  line := h.line
  pass := h.pass
  counts := h.counts
  queue := h.queue
  faces := h.faces
  editKey := h.editKey
  busy := h.busy
  desk := h.desk
  notices := h.notices
  flash := h.flash
  lanes := h.lanes
  windows := h.windows
  told := h.told
  dropped := h.dropped

end HostSet

/-- Settles O47: a set of the clock moves it, then this station's mark is offered. -/
theorem clockSet : Obligations.ClockSet := by
  unfold Obligations.ClockSet
  intro n s hears legal
  refine ⟨fun high => ?_, fun low => ?_⟩
  · refine (congrArg Host.Outcome.next (State.command_of_hearsHost hears (by decide))).trans ?_
    rw [show State.setClockCommand n (s.takeTransfer (nameByte .setClock)) = (s.takeTransfer (nameByte .setClock)).refuse .badField
      from if_pos high]
    exact congrArg Host.Outcome.next (State.takeTransfer_refuse ..)
  · intro o own mark
    obtain ⟨t, is, done⟩ := State.hostSet_done (s := s.takeTransfer (nameByte .setClock)) legal low
    refine ⟨t.done (.clockSet o.1 o.2.2 n (currentOf o.2.1)), ?_, done.moved.commanded, answeredDone_done _ done.desk.1 done.desk.2, done.slots,
      done.clock, done.latched, fun k r e st first now there free => ?_, fun first =>
        have locks := (done.locks first).locksAtClose
        ⟨locks.dropped, locks.kept⟩,
      done.sent, fun mine => done.waits mine, done.unsent⟩
    · refine (congrArg Host.Outcome.next (State.command_of_hearsHost hears (by decide))).trans ?_
      rw [show State.setClockCommand n (s.takeTransfer (nameByte .setClock)) = (s.takeTransfer (nameByte .setClock)).hostSet n
        from if_neg (Nat.not_le_of_lt low)]
      exact congrArg Host.Outcome.next is
    · refine (done.stories k r first there free).trans ?_
      rw [rolledTo, show currentOf ((s.takeTransfer (nameByte .setClock)).setOutcome n).2.1 = some (e, st) from now]
      rfl

/-! ## TIME MARK (R155) -/

/-- The clock has moved and the mark's slot has been freed. -/
theorem SetDone.marked {n : Nat} {o : SetKind × List EditionState × Nat} {s : State} {x : State × Nat} {y : RxSlot} {rest : List RxSlot}
    (h : SetDone n o s x) (slots : s.traffic.slots = y :: rest) :
    ∃ t, (x.1.freeOldest).settle = t ∧ ClockMoved s t ∧ t.traffic.slots = rest ∧
      t.clock = { s.clock with time := n, isSet := true, editions := o.2.1 } ∧
      t.traffic.queue.filter (fun e => e.owner = .clock) = s.traffic.queue.filter (fun e => e.owner = .clock) := by
  rw [State.freeOldest_eq (h.advanced.shifted.slots.trans slots)]
  have moved := ClockMoved.ofTraffic (v := { x.1 with traffic := { x.1.traffic with slots := rest } }) h.advanced rfl rfl (Advanced.settle _)
  have quiet := Quiet.settle { x.1 with traffic := { x.1.traffic with slots := rest } }
  generalize ({ x.1 with traffic := { x.1.traffic with slots := rest } } : State).settle = w at *
  refine ⟨w, rfl, moved, quiet.slots, ?_, ?_⟩
  · rw [quiet.sameClock]
    exact h.clock
  · exact quiet.toShifted.clockEntries.trans h.advanced.shifted.clockEntries

/-- Settles O48: a mark of the clock source is a set, any other is counted. -/
theorem markApplied : Obligations.MarkApplied := by
  unfold Obligations.MarkApplied
  intro x rest s slots kind legal n accepted
  have test : s.acceptsMark x.source n = true ↔ accepted := by
    unfold State.acceptsMark
    rw [Bool.and_eq_true, Bool.and_eq_true, within_iff, decide_eq_true_iff, decide_eq_true_iff, and_assoc, and_assoc]
    rfl
  have dispatched : exec .timeMarkDispatch s = .next ((markOwner x s).freeOldest).settle := congrArg Host.Outcome.next (exec_dispatch slots kind)
  rw [dispatched]
  refine ⟨fun yes => ?_, fun no => ?_⟩
  · rw [show markOwner x s = (s.setClock n).1 from if_pos (test.mpr yes)]
    obtain ⟨t, is, done⟩ := (State.setClock_done legal yes.2.2.2).marked slots
    exact ⟨t, congrArg Host.Outcome.next is, done⟩
  · refine ⟨_, rfl, ?_⟩
    rw [show markOwner x s = s.onClock fun c => { c with ignored := bump16 c.ignored } from if_neg fun yes => no (test.mp yes),
      State.freeOldest_eq (s := s.onClock fun c => { c with ignored := bump16 c.ignored }) slots, State.onClock, bump16_eq]
    exact State.settle_follows _

end Sys2Proof.Machine


namespace Sys2Proof.Machine

open Sys2Proof

/-! ## Lines of a text (R107 to R111, R113, R114) -/

section Lines

variable {m : Measure} {b : Breaker} {ls : List ClosedLine} {done : List Item} {i : Item} {c : Closing} {l : ClosedLine}

/-- The items of a line or a word other than separators. -/
def wordItems (items : List Item) : List Item := items.filter fun i => decide (i.code ≠ 0x20#8)

theorem wordItems_append (a b : List Item) : wordItems (a ++ b) = wordItems a ++ wordItems b := List.filter_append ..

theorem wordItems_separator (gap : Option Nat) : wordItems (separator gap) = [] := by cases gap <;> rfl

theorem Measure.total_append (a b : List Item) : m.total (a ++ b) = m.total a + m.total b := by
  simp [Measure.total]

/-- The next line to close is the first of a paragraph. -/
def paragraphStarts (ls : List ClosedLine) : Prop := ls = [] ∨ ∃ x, ls.getLast? = some x ∧ x.mark ≠ none

/-- Each line fits its capacity, the first of a paragraph the first-line capacity, or holds one character (R107, R110). -/
def linesFit (m : Measure) (ls : List ClosedLine) : Prop :=
  (∀ l ∈ ls, m.total l.items ≤ m.capacity ∨ l.items.length = 1) ∧
    ∀ (j : Nat) (l : ClosedLine), ls[j]? = some l →
      (j = 0 ∨ ∃ x : ClosedLine, ls[j - 1]? = some x ∧ x.mark ≠ none) →
      m.total l.items ≤ m.firstCap ∨ l.items.length = 1

theorem linesFit.append (h : linesFit m ls) (fits : m.total l.items ≤ m.capacity ∨ l.items.length = 1)
    (first : paragraphStarts ls → m.total l.items ≤ m.firstCap ∨ l.items.length = 1) : linesFit m (ls ++ [l]) := by
  refine ⟨fun x mem => ?_, fun j x here starts => ?_⟩
  · rcases List.mem_append.mp mem with old | new
    · exact h.1 x old
    · rw [List.mem_singleton.mp new]
      exact fits
  · rcases Nat.lt_or_ge j ls.length with low | high
    · rw [List.getElem?_append_left low] at here
      refine h.2 j x here (starts.imp_right fun ⟨y, before, mark⟩ => ⟨y, ?_, mark⟩)
      rwa [List.getElem?_append_left (Nat.lt_of_le_of_lt (Nat.sub_le j 1) low)] at before
    · rw [List.getElem?_append_right high] at here
      obtain rfl : j = ls.length := by
        by_contra other
        rw [List.getElem?_eq_none (by simp only [List.length_singleton]; omega)] at here
        cases here
      rw [Nat.sub_self] at here
      cases here
      by_cases none_ : ls = []
      · exact first (.inl none_)
      · have some_ := List.length_pos_iff.mpr none_
        obtain ⟨y, before, mark⟩ := starts.resolve_left (by omega)
        rw [List.getElem?_append_left (by omega), ← List.getLast?_eq_getElem?] at before
        exact first (.inr ⟨y, before, mark⟩)

theorem paragraphStarts_append : paragraphStarts (ls ++ [l]) ↔ l.mark ≠ none := by
  simp [paragraphStarts]

/-- The items of a text's lines and of what is open, separators apart. -/
def setItems (b : Breaker) (ls : List ClosedLine) : List Item :=
  wordItems (ls.flatMap (·.items)) ++ (wordItems ((b.line.map (·.items)).getD []) ++ wordItems b.word)

/-- Between two characters: the lines closed, the open line, and the word that may still join it. -/
structure Filling (m : Measure) (b : Breaker) (ls : List ClosedLine) (done : List Item) : Prop where
  lines : linesFit m ls
  fits : ∀ l, b.line = some l → m.total l.items ≤ l.capacity ∧ l.capacity ≤ m.capacity
  word : b.word ≠ [] → ∃ l o, b.line = some l ∧ b.gap = some o ∧
    m.total l.items + m.width 0x20#8 + m.total b.word ≤ l.capacity
  starts : paragraphStarts ls → (∀ l, b.line = some l → l.capacity ≤ m.firstCap) ∧ (b.line = none → b.first = true)
  opened : b.line ≠ none → b.opened = true
  letters : ∀ i ∈ b.word, i.code ≠ 0x20#8
  items : setItems b ls = done

theorem Filling.start (m : Measure) : Filling m Breaker.start [] [] where
  lines := by simp [linesFit]
  fits := nofun
  word := fun some_ => absurd rfl some_
  starts := fun _ => ⟨nofun, fun _ => rfl⟩
  opened := fun some_ => absurd rfl some_
  letters := nofun
  items := rfl

theorem Filling.word_nil (h : Filling m b ls done) (none_ : b.line = none) : b.word = [] := by
  by_contra some_
  obtain ⟨l, _, line, _⟩ := h.word some_
  rw [none_] at line
  cases line

theorem Breaker.endWord_idle (none_ : b.word = []) : b.endWord = { b with inWord := false } := by
  unfold Breaker.endWord
  cases b.line with
  | none => rfl
  | some l => exact if_pos none_

theorem Breaker.endWord_joins {l : OpenLine} (line : b.line = some l) (some_ : b.word ≠ []) :
    b.endWord =
      { b with line := some { l with items := l.items ++ separator b.gap ++ b.word }, gap := none, word := [], inWord := false } := by
  unfold Breaker.endWord
  rw [line]
  exact if_neg some_

/-- The end of a word. -/
theorem Filling.endWord (h : Filling m b ls done) : Filling m b.endWord ls done ∧ b.endWord.word = [] := by
  by_cases none_ : b.word = []
  · rw [Breaker.endWord_idle none_]
    exact ⟨⟨h.lines, h.fits, h.word, h.starts, h.opened, h.letters, h.items⟩, none_⟩
  · obtain ⟨l, o, line, gap, joins⟩ := h.word none_
    rw [Breaker.endWord_joins line none_]
    refine ⟨{
      lines := h.lines
      fits := fun x some_ => ?_
      word := fun some_ => absurd rfl some_
      starts := fun starts => ⟨fun x some_ => ?_, nofun⟩
      opened := fun _ => h.opened (by rw [line]; nofun)
      letters := nofun
      items := ?_ }, rfl⟩
    · cases some_
      refine ⟨?_, (h.fits l line).2⟩
      rw [gap, Measure.total_append, Measure.total_append]
      exact joins
    · cases some_
      exact (h.starts starts).1 l line
    · rw [← h.items, setItems, setItems, line]
      simp only [Option.map_some, Option.getD_some, wordItems_append, wordItems_separator, List.append_nil]
      simp [wordItems]

/-- A character placed on an empty line of capacity `cap`. -/
theorem Filling.placeOnEmpty {cap : Nat} (lines : linesFit m (ls ++ c.lines)) (low : cap ≤ m.capacity)
    (first : paragraphStarts (ls ++ c.lines) → cap ≤ m.firstCap) (opened : c.breaker.opened = true) (word : c.breaker.word = [])
    (items : wordItems ((ls ++ c.lines).flatMap (·.items)) = done) (isWord : i.code ≠ 0x20#8) :
    Filling m (Breaker.placeOnEmpty m cap i c).breaker (ls ++ (Breaker.placeOnEmpty m cap i c).lines) (done ++ [i]) ∧
      (Breaker.placeOnEmpty m cap i c).breaker.word = [] ∧ (Breaker.placeOnEmpty m cap i c).breaker.opened = true := by
  have one : wordItems [i] = [i] := by simp [wordItems, isWord]
  have width : m.total [i] = m.width i.code := by simp [Measure.total]
  unfold Breaker.placeOnEmpty
  split
  · next narrow =>
    refine ⟨{
      lines := lines
      fits := fun l some_ => ?_
      word := fun some_ => absurd word some_
      starts := fun starts => ⟨fun l some_ => ?_, nofun⟩
      opened := fun _ => opened
      letters := by simp [word]
      items := ?_ }, word, opened⟩
    · cases some_
      exact ⟨by rw [width]; exact narrow, low⟩
    · cases some_
      exact first starts
    · rw [setItems]
      simp only [word, Option.map_some, Option.getD_some, one, items]
      rfl
  · refine ⟨{
      lines := ?_
      fits := nofun
      word := fun some_ => absurd word some_
      starts := fun starts => ?_
      opened := fun some_ => absurd rfl some_
      letters := by simp [word]
      items := ?_ }, word, opened⟩
    · rw [← List.append_assoc]
      exact lines.append (.inr rfl) fun _ => .inr rfl
    · rw [← List.append_assoc] at starts
      exact absurd rfl (paragraphStarts_append.mp starts)
    · rw [setItems, ← items]
      simp only [word, ← List.append_assoc, List.flatMap_append, wordItems_append, List.flatMap_cons, List.flatMap_nil, List.append_nil, one]
      simp [wordItems]

variable (caps : m.firstCap ≤ m.capacity)

include caps

/-- A character of a word that stands at the head of its line. -/
theorem Filling.placeChar (h : Filling m c.breaker (ls ++ c.lines) done) (word : c.breaker.word = [])
    (opened : c.breaker.opened = true) (isWord : i.code ≠ 0x20#8) :
    Filling m (Breaker.placeChar m i c).breaker (ls ++ (Breaker.placeChar m i c).lines) (done ++ [i]) ∧
      (Breaker.placeChar m i c).breaker.word = [] ∧ (Breaker.placeChar m i c).breaker.opened = true := by
  have one : wordItems [i] = [i] := by simp [wordItems, isWord]
  have items := h.items
  rw [setItems, word] at items
  unfold Breaker.placeChar
  cases line : c.breaker.line with
  | none =>
    have open_ : c.breaker.openLine m = { capacity := if c.breaker.first then m.firstCap else m.capacity, items := [] } := by
      rw [Breaker.openLine, line]
      rfl
    rw [open_]
    dsimp only
    rw [if_pos rfl]
    rw [line] at items
    refine Filling.placeOnEmpty h.lines ?_ (fun starts => ?_) opened word (by simpa [wordItems] using items) isWord
    · split
      · exact caps
      · exact Nat.le_refl _
    · rw [if_pos ((h.starts starts).2 line)]
  | some l =>
    have open_ : c.breaker.openLine m = l := by
      rw [Breaker.openLine, line]
      rfl
    rw [open_]
    dsimp only
    rw [line] at items
    obtain ⟨total, low⟩ := h.fits l line
    by_cases empty : l.items = []
    · rw [if_pos empty]
      refine Filling.placeOnEmpty h.lines low (fun starts => (h.starts starts).1 l line) opened word ?_ isWord
      simpa [wordItems, empty] using items
    · rw [if_neg empty]
      split
      · next joins =>
        refine ⟨{
          lines := h.lines
          fits := fun x some_ => ?_
          word := fun some_ => absurd word some_
          starts := fun starts => ⟨fun x some_ => ?_, nofun⟩
          opened := fun _ => opened
          letters := by simp [word]
          items := ?_ }, word, opened⟩
        · cases some_
          refine ⟨?_, low⟩
          rw [Measure.total_append]
          simpa [Measure.total] using joins
        · cases some_
          exact (h.starts starts).1 l line
        · rw [setItems]
          simp only [word, Option.map_some, Option.getD_some, wordItems_append, one, ← items]
          simp [wordItems]
      · refine Filling.placeOnEmpty (c := { c with
          lines := c.lines ++ [{ items := l.items, mark := none, start := startOf l.items i.offset }] })
          ?_ (Nat.le_refl _) (fun starts => ?_) opened word ?_ isWord
        · rw [← List.append_assoc]
          exact h.lines.append (.inl (Nat.le_trans total low)) fun starts => .inl (Nat.le_trans total ((h.starts starts).1 l line))
        · rw [← List.append_assoc] at starts
          exact absurd rfl (paragraphStarts_append.mp starts)
        · rw [← List.append_assoc, List.flatMap_append, wordItems_append, ← items]
          simp [wordItems]

/-- A word's characters placed one by one. -/
theorem Filling.placeAll (items : List Item) (h : Filling m c.breaker (ls ++ c.lines) done) (word : c.breaker.word = [])
    (opened : c.breaker.opened = true) (areWord : ∀ i ∈ items, i.code ≠ 0x20#8) :
    Filling m (Breaker.placeAll m items c).breaker (ls ++ (Breaker.placeAll m items c).lines) (done ++ items) ∧
      (Breaker.placeAll m items c).breaker.opened = true := by
  unfold Breaker.placeAll
  induction items generalizing c done with
  | nil =>
    rw [List.append_nil]
    exact ⟨h, opened⟩
  | cons i rest ih =>
    obtain ⟨placed, word', opened'⟩ := Filling.placeChar caps h word opened (areWord i List.mem_cons_self)
    have more := ih placed word' opened' fun j mem => areWord j (List.mem_cons_of_mem _ mem)
    rw [List.append_assoc] at more
    exact more

end Lines

end Sys2Proof.Machine


namespace Sys2Proof.Machine

open Sys2Proof

/-! ## One character of a text (R108 to R110) -/

section Characters

variable {m : Measure} {b : Breaker} {ls : List ClosedLine} {done : List Item} {i : Item} {l : OpenLine}

theorem Breaker.wordChar_joins {o : Nat} (line : b.line = some l) (gap : b.gap = some o)
    (joins : m.total l.items + m.width 0x20#8 + m.total (b.word ++ [i]) ≤ l.capacity) :
    b.wordChar m i = { breaker := { b with opened := true, inWord := true, word := b.word ++ [i] }, lines := [], overwide := false } := by
  unfold Breaker.wordChar
  simp only [line, gap]
  exact if_pos joins

theorem Breaker.wordChar_wraps {o : Nat} (line : b.line = some l) (gap : b.gap = some o)
    (wraps : ¬m.total l.items + m.width 0x20#8 + m.total (b.word ++ [i]) ≤ l.capacity) :
    b.wordChar m i =
      Breaker.placeAll m (b.word ++ [i])
        { breaker :=
            { b with opened := true, inWord := true, line := some { capacity := m.capacity, items := [] }, gap := none, word := [] },
          lines := [{ items := l.items, mark := none, start := startOf l.items i.offset }], overwide := false } := by
  unfold Breaker.wordChar
  simp only [line, gap]
  exact if_neg wraps

theorem Breaker.wordChar_places (alone : b.line = none ∨ b.gap = none) :
    b.wordChar m i =
      Breaker.placeChar m i { breaker := { b with opened := true, inWord := true }, lines := [], overwide := false } := by
  unfold Breaker.wordChar
  dsimp only
  cases line : b.line with
  | none => rfl
  | some l =>
    have none_ := alone.resolve_left (by rw [line]; nofun)
    simp only [none_]

theorem Filling.wordChar (caps : m.firstCap ≤ m.capacity) (h : Filling m b ls done) (isWord : i.code ≠ 0x20#8) :
    Filling m (b.wordChar m i).breaker (ls ++ (b.wordChar m i).lines) (done ++ [i]) := by
  have one : wordItems [i] = [i] := by simp [wordItems, isWord]
  have letters : ∀ j ∈ b.word ++ [i], j.code ≠ 0x20#8 := fun j mem =>
    (List.mem_append.mp mem).elim (h.letters j) fun new => by rw [List.mem_singleton.mp new]; exact isWord
  by_cases alone : b.line = none ∨ b.gap = none
  · rw [Breaker.wordChar_places alone]
    have word : b.word = [] := by
      by_contra some_
      obtain ⟨l, o, line, gap, _⟩ := h.word some_
      rcases alone with none_ | none_
      · rw [line] at none_
        cases none_
      · rw [gap] at none_
        cases none_
    have before : Filling m { b with opened := true, inWord := true } (ls ++ []) done := by
      rw [List.append_nil]
      exact ⟨h.lines, h.fits, h.word, h.starts, fun _ => rfl, h.letters, h.items⟩
    exact (Filling.placeChar (c := { breaker := { b with opened := true, inWord := true }, lines := [], overwide := false }) caps before word rfl
      isWord).1
  · obtain ⟨lineSome, gapSome⟩ := not_or.mp alone
    obtain ⟨l, line⟩ := Option.ne_none_iff_exists'.mp lineSome
    obtain ⟨o, gap⟩ := Option.ne_none_iff_exists'.mp gapSome
    by_cases joins : m.total l.items + m.width 0x20#8 + m.total (b.word ++ [i]) ≤ l.capacity
    · rw [Breaker.wordChar_joins line gap joins, List.append_nil]
      exact {
        lines := h.lines
        fits := h.fits
        word := fun _ => ⟨l, o, line, gap, joins⟩
        starts := h.starts
        opened := fun _ => rfl
        letters := letters
        items := by
          rw [← h.items]
          simp only [setItems, wordItems_append, one, List.append_assoc] }
    · rw [Breaker.wordChar_wraps line gap joins]
      obtain ⟨total, low⟩ := h.fits l line
      have closed : Filling m
          { b with opened := true, inWord := true, line := some { capacity := m.capacity, items := [] }, gap := none, word := [] }
          (ls ++ [{ items := l.items, mark := none, start := startOf l.items i.offset }])
          (wordItems (ls.flatMap (·.items)) ++ wordItems l.items) := {
        lines := h.lines.append (.inl (Nat.le_trans total low)) fun starts => .inl (Nat.le_trans total ((h.starts starts).1 l line))
        fits := fun x some_ => by
          cases some_
          exact ⟨by simp [Measure.total], Nat.le_refl _⟩
        word := fun some_ => absurd rfl some_
        starts := fun starts => absurd rfl (paragraphStarts_append.mp starts)
        opened := fun _ => rfl
        letters := nofun
        items := by simp [setItems, wordItems] }
      obtain ⟨placed, _⟩ := Filling.placeAll (c := {
        breaker := { b with opened := true, inWord := true, line := some { capacity := m.capacity, items := [] }, gap := none, word := [] },
        lines := [{ items := l.items, mark := none, start := startOf l.items i.offset }], overwide := false }) caps (b.word ++ [i]) closed rfl rfl letters
      have word : wordItems b.word = b.word := List.filter_eq_self.mpr fun j mem => decide_eq_true (h.letters j mem)
      rw [← h.items, setItems, line, word]
      simpa [List.append_assoc] using placed

/-- The lines of a paragraph's end. -/
theorem Filling.endParagraph (h : Filling m b ls done) (mark : Option Nat) (at_ : Nat) :
    linesFit m (ls ++ b.endParagraph mark at_) ∧ wordItems ((ls ++ b.endParagraph mark at_).flatMap (·.items)) = done := by
  obtain ⟨ended, none_⟩ := h.endWord
  have items := ended.items
  rw [setItems, none_] at items
  unfold Breaker.endParagraph
  cases line : b.endWord.line with
  | some l =>
    obtain ⟨total, low⟩ := ended.fits l line
    rw [line] at items
    refine ⟨h.lines.append (.inl (Nat.le_trans total low)) fun starts => .inl (Nat.le_trans total ((ended.starts starts).1 l line)), ?_⟩
    rw [← items]
    simp [wordItems]
  | none =>
    rw [line] at items
    dsimp only
    split
    · refine ⟨h.lines.append (.inl (by simp [Measure.total])) fun _ => .inl (by simp [Measure.total]), ?_⟩
      rw [← items]
      simp [wordItems]
    · rw [List.append_nil]
      refine ⟨h.lines, ?_⟩
      rw [← items]
      simp [wordItems]

/-- The items a character adds. -/
def charItems (code : Byte) (o : Nat) : List Item :=
  if code ≠ 0x20#8 ∧ code ≠ 0x0A#8 then [{ code := code, offset := o }] else []

theorem Filling.feed (caps : m.firstCap ≤ m.capacity) (h : Filling m b ls done) (code : Byte) (o : Nat) :
    Filling m (b.feed m code o).breaker (ls ++ (b.feed m code o).lines) (done ++ charItems code o) := by
  unfold Breaker.feed charItems
  by_cases isMark : code = 0x0A#8
  · rw [if_pos isMark, if_neg fun both => both.2 isMark, List.append_nil]
    obtain ⟨lines, items⟩ := h.endParagraph (some o) o
    exact {
      lines := lines
      fits := nofun
      word := fun some_ => absurd rfl some_
      starts := fun _ => ⟨nofun, fun _ => rfl⟩
      opened := fun some_ => absurd rfl some_
      letters := nofun
      items := by
        rw [← items]
        simp [setItems, Breaker.start, wordItems] }
  · rw [if_neg isMark]
    by_cases isSpace : code = 0x20#8
    · rw [if_pos isSpace, if_neg fun both => both.1 isSpace, List.append_nil]
      obtain ⟨ended, none_⟩ := h.endWord
      dsimp only
      rw [List.append_nil]
      exact {
        lines := ended.lines
        fits := ended.fits
        word := fun some_ => absurd none_ some_
        starts := ended.starts
        opened := fun _ => rfl
        letters := ended.letters
        items := ended.items }
    · rw [if_neg isSpace, if_pos ⟨isSpace, isMark⟩]
      exact h.wordChar caps isSpace

/-- One character taken, and its lines after those before. -/
def feedStep (m : Measure) (x : Breaker × List ClosedLine) (c : Byte × Nat) : Breaker × List ClosedLine :=
  ((x.1.feed m c.1 c.2).breaker, x.2 ++ (x.1.feed m c.1 c.2).lines)

theorem feedFrom_eq (m : Measure) (o : Nat) (codes : List Byte) :
    feedFrom m o codes = (codes.zipIdx o).foldl (feedStep m) (Breaker.start, []) := rfl

theorem Filling.feedAll (caps : m.firstCap ≤ m.capacity) (l : List (Byte × Nat)) (x : Breaker × List ClosedLine)
    (h : Filling m x.1 x.2 done) :
    Filling m (l.foldl (feedStep m) x).1 (l.foldl (feedStep m) x).2 (done ++ l.flatMap fun c => charItems c.1 c.2) := by
  induction l generalizing x done with
  | nil =>
    rw [List.flatMap_nil, List.append_nil]
    exact h
  | cons c rest ih =>
    have more := ih (feedStep m x c) (h.feed caps c.1 c.2)
    rw [List.append_assoc] at more
    exact more

theorem charItems_all (l : List (Byte × Nat)) :
    (l.flatMap fun c => charItems c.1 c.2) =
      (l.filter fun c => decide (c.1 ≠ 0x20#8 ∧ c.1 ≠ 0x0A#8)).map fun c => { code := c.1, offset := c.2 } := by
  induction l with
  | nil => rfl
  | cons c rest ih =>
    rw [List.flatMap_cons, ih, charItems, List.filter_cons]
    by_cases word : c.1 ≠ 0x20#8 ∧ c.1 ≠ 0x0A#8
    · simp only [if_pos word, decide_eq_true word, if_true]
      rfl
    · simp only [if_neg word, decide_eq_false word, Bool.false_eq_true, if_false, List.nil_append]

/-- What a text's lines hold, each within its capacity. -/
theorem breakText_filled (caps : m.firstCap ≤ m.capacity) (codes : List Byte) :
    linesFit m (breakText m codes) ∧
      wordItems ((breakText m codes).flatMap (·.items)) =
        (codes.zipIdx.filter fun c => decide (c.1 ≠ 0x20#8 ∧ c.1 ≠ 0x0A#8)).map fun c => { code := c.1, offset := c.2 } := by
  have filled := Filling.feedAll caps codes.zipIdx (Breaker.start, []) (Filling.start m)
  rw [List.nil_append, charItems_all, ← feedFrom_eq] at filled
  unfold breakText Breaker.finish
  dsimp only
  by_cases opened : (feedFrom m 0 codes).1.opened = true
  · rw [if_pos opened]
    exact filled.endParagraph none codes.length
  · rw [if_neg opened, List.append_nil]
    have none_ : (feedFrom m 0 codes).1.line = none := by
      by_contra some_
      exact opened (filled.opened some_)
    have items := filled.items
    rw [setItems, none_, filled.word_nil none_] at items
    exact ⟨filled.lines, by simpa [wordItems] using items⟩

end Characters

/-! ## The marks that close lines (R109) -/

section Marks

variable {m : Measure} {b : Breaker} {c : Closing} {i : Item}

/-- No character is wider than the first-line capacity, so that a paragraph once begun has an open line. -/
structure Roomy (m : Measure) (b : Breaker) : Prop where
  room : ∀ l, b.line = some l → m.firstCap ≤ l.capacity
  first : b.line = none → b.first = true

theorem Roomy.endWord (h : Roomy m b) : Roomy m b.endWord ∧ (b.endWord.line = none ↔ b.line = none) := by
  by_cases none_ : b.word = []
  · rw [Breaker.endWord_idle none_]
    exact ⟨⟨h.room, h.first⟩, Iff.rfl⟩
  · cases line : b.line with
    | none =>
      have same : b.endWord = { b with inWord := false } := by
        unfold Breaker.endWord
        rw [line]
      rw [same]
      exact ⟨⟨h.room, h.first⟩, iff_of_eq (congrArg (· = none) line)⟩
    | some l =>
      rw [Breaker.endWord_joins line none_]
      refine ⟨⟨fun x some_ => ?_, nofun⟩, iff_of_false nofun nofun⟩
      cases some_
      exact h.room l line

variable (caps : m.firstCap ≤ m.capacity) (narrow : ∀ c : Byte, m.width c ≤ m.firstCap)

include narrow in
theorem Roomy.placeOnEmpty {cap : Nat} (room : m.firstCap ≤ cap) (marks : ∀ l ∈ c.lines, l.mark = none) :
    Roomy m (Breaker.placeOnEmpty m cap i c).breaker ∧ ∀ l ∈ (Breaker.placeOnEmpty m cap i c).lines, l.mark = none := by
  unfold Breaker.placeOnEmpty
  rw [if_pos (Nat.le_trans (narrow i.code) room)]
  refine ⟨⟨fun l some_ => ?_, nofun⟩, marks⟩
  cases some_
  exact room

include caps narrow

theorem Roomy.placeChar (h : Roomy m c.breaker) (marks : ∀ l ∈ c.lines, l.mark = none) :
    Roomy m (Breaker.placeChar m i c).breaker ∧ ∀ l ∈ (Breaker.placeChar m i c).lines, l.mark = none := by
  have room : m.firstCap ≤ (c.breaker.openLine m).capacity := by
    unfold Breaker.openLine
    cases line : c.breaker.line with
    | none =>
      dsimp only [Option.getD_none]
      rw [if_pos (h.first line)]
    | some l => exact h.room l line
  unfold Breaker.placeChar
  dsimp only
  split
  · exact Roomy.placeOnEmpty narrow room marks
  · split
    · refine ⟨⟨fun l some_ => ?_, nofun⟩, marks⟩
      cases some_
      exact room
    · refine Roomy.placeOnEmpty narrow caps fun l mem => ?_
      rcases List.mem_append.mp mem with old | new
      · exact marks l old
      · rw [List.mem_singleton.mp new]

theorem Roomy.placeAll (items : List Item) (h : Roomy m c.breaker) (marks : ∀ l ∈ c.lines, l.mark = none) :
    Roomy m (Breaker.placeAll m items c).breaker ∧ ∀ l ∈ (Breaker.placeAll m items c).lines, l.mark = none := by
  unfold Breaker.placeAll
  induction items generalizing c with
  | nil => exact ⟨h, marks⟩
  | cons i rest ih =>
    obtain ⟨placed, marks'⟩ := Roomy.placeChar (i := i) caps narrow h marks
    exact ih placed marks'

theorem Roomy.wordChar (h : Roomy m b) :
    Roomy m (b.wordChar m i).breaker ∧ ∀ l ∈ (b.wordChar m i).lines, l.mark = none := by
  by_cases alone : b.line = none ∨ b.gap = none
  · rw [Breaker.wordChar_places alone]
    exact Roomy.placeChar caps narrow ⟨h.room, h.first⟩ nofun
  · obtain ⟨lineSome, gapSome⟩ := not_or.mp alone
    obtain ⟨l, line⟩ := Option.ne_none_iff_exists'.mp lineSome
    obtain ⟨o, gap⟩ := Option.ne_none_iff_exists'.mp gapSome
    by_cases joins : m.total l.items + m.width 0x20#8 + m.total (b.word ++ [i]) ≤ l.capacity
    · rw [Breaker.wordChar_joins line gap joins]
      exact ⟨⟨h.room, h.first⟩, nofun⟩
    · rw [Breaker.wordChar_wraps line gap joins]
      refine Roomy.placeAll caps narrow _ ⟨fun x some_ => ?_, nofun⟩ fun l mem => ?_
      · cases some_
        exact caps
      · rw [List.mem_singleton.mp mem]

omit caps narrow in
theorem Roomy.endParagraph (h : Roomy m b) (mark : Option Nat) (at_ : Nat) :
    (b.endParagraph mark at_).filterMap (·.mark) = mark.toList := by
  unfold Breaker.endParagraph
  cases line : b.endWord.line with
  | some l => cases mark <;> rfl
  | none =>
    have first : b.first = true := h.first (h.endWord.2.mp line)
    dsimp only
    rw [if_pos first]
    cases mark <;> rfl

/-- The marks of the lines that a character closes. -/
theorem Roomy.feed (h : Roomy m b) (code : Byte) (o : Nat) :
    Roomy m (b.feed m code o).breaker ∧
      (b.feed m code o).lines.filterMap (·.mark) = if code = 0x0A#8 then [o] else [] := by
  unfold Breaker.feed
  by_cases isMark : code = 0x0A#8
  · rw [if_pos isMark, if_pos isMark]
    exact ⟨⟨nofun, fun _ => rfl⟩, h.endParagraph (some o) o⟩
  · rw [if_neg isMark, if_neg isMark]
    by_cases isSpace : code = 0x20#8
    · rw [if_pos isSpace]
      exact ⟨⟨h.endWord.1.room, h.endWord.1.first⟩, rfl⟩
    · rw [if_neg isSpace]
      obtain ⟨roomy, none_⟩ := Roomy.wordChar (i := { code := code, offset := o }) caps narrow h
      exact ⟨roomy, List.filterMap_eq_nil_iff.mpr none_⟩

theorem Roomy.feedAll (l : List (Byte × Nat)) (x : Breaker × List ClosedLine) (h : Roomy m x.1) :
    Roomy m (l.foldl (feedStep m) x).1 ∧
      (l.foldl (feedStep m) x).2.filterMap (·.mark) = x.2.filterMap (·.mark) ++ (l.filter fun c => decide (c.1 = 0x0A#8)).map (·.2) := by
  induction l generalizing x with
  | nil => exact ⟨h, by simp⟩
  | cons c rest ih =>
    obtain ⟨roomy, marks⟩ := h.feed caps narrow c.1 c.2
    obtain ⟨after, all⟩ := ih (feedStep m x c) roomy
    refine ⟨after, all.trans ?_⟩
    rw [feedStep, List.filterMap_append, marks, List.append_assoc, List.filter_cons]
    by_cases isMark : c.1 = 0x0A#8 <;> simp [isMark]

/-- Each mark of a text closes a line, in order. -/
theorem breakText_marks (codes : List Byte) :
    (breakText m codes).filterMap (·.mark) = (codes.zipIdx.filter fun c => decide (c.1 = 0x0A#8)).map (·.2) := by
  obtain ⟨roomy, marks⟩ := Roomy.feedAll caps narrow codes.zipIdx (Breaker.start, []) ⟨nofun, fun _ => rfl⟩
  rw [← feedFrom_eq] at roomy marks
  have last : ((feedFrom m 0 codes).1.finish codes.length).filterMap (·.mark) = [] := by
    unfold Breaker.finish
    split
    · exact roomy.endParagraph none codes.length
    · rfl
  unfold breakText
  dsimp only
  rw [List.filterMap_append, last, List.append_nil, marks]
  rfl

end Marks

/-! ## The count of a fit run (R107, R111) -/

/-- A run below the greatest count has counted the lines closed. -/
theorem FitReading.feed_counts (codes : List Byte) (o : Nat) (x : Breaker × List ClosedLine) (r : FitReading)
    (breaker : r.breaker = x.1) (lines : r.lines = x.2.length)
    (low : ((codes.zipIdx o).foldl (feedStep r.measure) x).2.length < maxLines) :
    (FitReading.feed o codes r).breaker = ((codes.zipIdx o).foldl (feedStep r.measure) x).1 ∧
      (FitReading.feed o codes r).lines = ((codes.zipIdx o).foldl (feedStep r.measure) x).2.length := by
  have grows : ∀ (m : Measure) (l : List (Byte × Nat)) (x : Breaker × List ClosedLine), x.2.length ≤ (l.foldl (feedStep m) x).2.length := by
    intro m l
    induction l with
    | nil => exact fun _ => Nat.le_refl _
    | cons c rest ih =>
      intro x
      refine Nat.le_trans ?_ (ih (feedStep m x c))
      simp [feedStep]
  induction codes generalizing o x r with
  | nil => exact ⟨breaker, lines⟩
  | cons c rest ih =>
    have below : r.lines < maxLines := by
      rw [lines]
      exact Nat.lt_of_le_of_lt (grows _ _ _) low
    have step : FitReading.feed o (c :: rest) r = FitReading.feed (o + 1) rest (r.step c o) := if_neg (Nat.not_le_of_lt below)
    rw [step]
    exact ih (o + 1) (feedStep r.measure x (c, o)) (r.step c o) (by rw [feedStep, ← breaker]; rfl)
      (by rw [feedStep, List.length_append, ← lines, ← breaker]; rfl) low

/-- Settles O38, by induction on the text. -/
theorem linesLegal : Obligations.LinesLegal := by
  unfold Obligations.LinesLegal
  refine ⟨fun m codes caps => ?_, fun r codes start none_ low => ?_⟩
  · obtain ⟨⟨fits, first⟩, items⟩ := breakText_filled caps codes
    exact ⟨fits, first, items, fun narrow => breakText_marks caps narrow codes⟩
  · have below : (feedFrom r.measure 0 codes).2.length < maxLines := by
      refine Nat.lt_of_le_of_lt ?_ low
      simp [breakText]
    obtain ⟨breaker, lines⟩ := FitReading.feed_counts codes 0 (Breaker.start, []) r start none_ below
    dsimp only
    rw [lines, breaker]
    simp [breakText, feedFrom_eq]

end Sys2Proof.Machine


namespace Sys2Proof.Machine

open Sys2Proof

/-! ## The row slot event (R161) -/

section RowSlot

variable {s : State} {n : Nat} {w : Window} {l : Lane}

/-- A window after a row slot. -/
def Window.afterSlot (w : Window) : Window := { w with staging := w.staging.afterSlot }

theorem State.slotAtLane_window (m n : Nat) (s : State) :
    (s.slotAtLane m).screen.windows[n]? = if m = n then (s.screen.windows[n]?).map Window.afterSlot else s.screen.windows[n]? := by
  unfold State.slotAtLane State.window
  cases here : s.screen.windows[m]? with
  | none =>
    by_cases same : m = n
    · subst same
      rw [if_pos rfl, here]
      rfl
    · exact (if_neg same).symm
  | some w =>
    dsimp only
    rw [State.onWindow_get]
    rfl

theorem State.slotAtLane_lane (m n : Nat) (s : State) :
    (s.slotAtLane m).screen.lanes[n]? =
      if m = n then (s.screen.windows[n]?).elim (s.screen.lanes[n]?) fun w => (s.screen.lanes[n]?).map (Lane.send w.staging.message)
      else s.screen.lanes[n]? := by
  unfold State.slotAtLane State.window
  cases here : s.screen.windows[m]? with
  | none =>
    by_cases same : m = n
    · subst same
      rw [if_pos rfl, here]
      rfl
    · exact (if_neg same).symm
  | some w =>
    dsimp only
    show (s.screen.lanes.modify m (Lane.send w.staging.message))[n]? = _
    rw [List.getElem?_modify]
    by_cases same : m = n
    · subst same
      rw [if_pos rfl, here, Option.elim_some]
      cases s.screen.lanes[m]? <;> simp
    · rw [if_neg same]
      cases s.screen.lanes[n]? <;> simp [same]

/-- A row slot at one lane changes windows and lanes alone. -/
theorem State.slotAtLane_rest (n : Nat) (s : State) :
    s.slotAtLane n =
        { s with screen := { s.screen with lanes := (s.slotAtLane n).screen.lanes, windows := (s.slotAtLane n).screen.windows } } ∧
      (s.slotAtLane n).screen.lanes.length = s.screen.lanes.length ∧ sameWindows s (s.slotAtLane n) := by
  unfold State.slotAtLane
  split
  · exact ⟨rfl, rfl, rfl⟩
  · exact ⟨rfl, List.length_modify .., map_modify_eq Window.shown Window.afterSlot (fun _ => rfl) _ _⟩

theorem State.slotAtLanes_rest (l : List Nat) (s : State) :
    l.foldl (fun s n => s.slotAtLane n) s =
        { s with
            screen :=
              { s.screen with
                  lanes := (l.foldl (fun s n => s.slotAtLane n) s).screen.lanes,
                  windows := (l.foldl (fun s n => s.slotAtLane n) s).screen.windows } } ∧
      (l.foldl (fun s n => s.slotAtLane n) s).screen.lanes.length = s.screen.lanes.length ∧
      sameWindows s (l.foldl (fun s n => s.slotAtLane n) s) := by
  induction l generalizing s with
  | nil => exact ⟨rfl, rfl, rfl⟩
  | cons n rest ih =>
    obtain ⟨first, lanes, windows⟩ := State.slotAtLane_rest n s
    obtain ⟨more, lanes', windows'⟩ := ih (s.slotAtLane n)
    rw [List.foldl_cons]
    generalize rest.foldl (fun s n => s.slotAtLane n) (s.slotAtLane n) = t at *
    refine ⟨?_, lanes'.trans lanes, windows.trans windows'⟩
    rw [first] at more
    exact more

/-- Each enabled lane has sent what its window had staged. -/
theorem State.slotAtLanes_get (s : State) (n : Nat) :
    (s.eachWindow State.slotAtLane).screen.windows[n]? =
        (if n < s.screenCount then (s.screen.windows[n]?).map Window.afterSlot else s.screen.windows[n]?) ∧
      (s.eachWindow State.slotAtLane).screen.lanes[n]? =
        if n < s.screenCount then
          (s.screen.windows[n]?).elim (s.screen.lanes[n]?) fun w => (s.screen.lanes[n]?).map (Lane.send w.staging.message)
        else s.screen.lanes[n]? := by
  refine ⟨State.eachWindow_get (fun m n s => State.slotAtLane_window m n s) s n, ?_⟩
  have windows : ∀ count, (count ≤ n → ((List.range count).foldl (fun s n => s.slotAtLane n) s).screen.windows[n]? = s.screen.windows[n]?) ∧
      ((List.range count).foldl (fun s n => s.slotAtLane n) s).screen.lanes[n]? =
        if n < count then (s.screen.windows[n]?).elim (s.screen.lanes[n]?) fun w => (s.screen.lanes[n]?).map (Lane.send w.staging.message)
        else s.screen.lanes[n]? := by
    intro count
    induction count with
    | zero => exact ⟨fun _ => rfl, rfl⟩
    | succ count ih =>
      obtain ⟨windows, lanes⟩ := ih
      rw [List.range_succ, List.foldl_append, List.foldl_cons, List.foldl_nil, State.slotAtLane_window, State.slotAtLane_lane]
      rcases Nat.lt_trichotomy count n with low | same | high
      · rw [if_neg (by omega), if_neg (by omega), if_neg (by omega), lanes, if_neg (by omega)]
        exact ⟨fun _ => windows (by omega), rfl⟩
      · subst same
        rw [if_pos rfl, if_pos rfl, if_pos (Nat.lt_succ_self count), windows (Nat.le_refl _), lanes, if_neg (Nat.lt_irrefl count)]
        exact ⟨fun high => absurd high (by omega), rfl⟩
      · rw [if_neg (by omega), if_neg (by omega), if_pos (by omega), lanes, if_pos high]
        exact ⟨fun high' => absurd high' (by omega), rfl⟩
  exact (windows s.screenCount).2

/-- A ready lane whose window has no row DIRTY stays EMPTY. -/
theorem State.settleRows_clean (here : s.screen.windows[n]? = some w) (clean : w.nextRow = none) :
    s.settleRows.screen.windows[n]? = some w := by
  refine State.settleRows_induct (P := fun s => s.screen.windows[n]? = some w) (fun m x at_n => ?_) (fun x at_n => ?_) here
  · by_cases same : m = n
    · subst same
      unfold State.stageAtOnce
      rw [at_n]
      dsimp only
      rw [clean]
      split <;> exact at_n
    · rw [State.stageAtOnce_other x same]
      exact at_n
  · exact State.chooseLane_other at_n (by simp [Window.waitsForBuilder, clean])

theorem Window.nextRow_clean (clean : ∀ d ∈ w.dirty, d = false) : w.nextRow = none := by
  unfold Window.nextRow
  refine indexWhere_eq_none.mpr fun p mem => ?_
  rw [clean p.1 (List.fst_mem_of_mem_zipIdx mem)]
  rfl

/-- A row slot while the timer runs. -/
theorem State.rowSlot_sends (timer : s.screen.timer = true) :
    ∃ t : State, s.rowSlotEvent = t ∧ t.desk = s.desk ∧ sameWindows s t ∧ t.screen.flash = s.screen.flash ∧
      OnlyScreen { s with screen := { s.screen with lanes := t.screen.lanes } } t ∧
      t.screen.lanes.length = s.screen.lanes.length ∧
      ∀ n : Nat, t.screen.lanes[n]? = (s.eachWindow State.slotAtLane).screen.lanes[n]? ∧
        (∀ w : Window, (s.eachWindow State.slotAtLane).screen.windows[n]? = some w → w.staging ≠ .empty ∨ w.nextRow = none →
          t.screen.windows[n]? = some w) := by
  have is : s.rowSlotEvent = (s.eachWindow State.slotAtLane).settleRows := if_pos timer
  obtain ⟨rest, lanes, windows⟩ := State.slotAtLanes_rest (List.range s.screenCount) s
  have each : s.eachWindow State.slotAtLane = (List.range s.screenCount).foldl (fun s n => s.slotAtLane n) s := rfl
  rw [← each] at rest lanes windows
  rw [is]
  generalize s.eachWindow State.slotAtLane = u at *
  have follows := State.settleRows_follows u
  have staged {n : Nat} {w : Window} (here : u.screen.windows[n]? = some w) (ready : w.staging ≠ .empty) :=
    State.settleRows_staged here ready
  have clean {n : Nat} {w : Window} (here : u.screen.windows[n]? = some w) (none_ : w.nextRow = none) :=
    State.settleRows_clean here none_
  generalize u.settleRows = t at *
  have only := follows.onlyScreen
  refine ⟨t, rfl, ?_, windows.trans follows.windows, ?_, ?_, by rw [only.lanes]; exact lanes, fun n => ⟨by rw [only.lanes], fun w here still => ?_⟩⟩
  · rw [follows.desk, rest]
  · rw [follows.flash, rest]
  · have start : OnlyScreen { s with screen := { s.screen with lanes := u.screen.lanes } } u := by
      rw [rest]
      exact { OnlyScreen.refl s with lanes := rfl }
    rw [only.lanes]
    exact start.trans only
  · exact still.elim (staged here) (clean here)

end RowSlot

/-! ## The levels of a lane (R160, R200) -/

section Levels

variable {l : Lane} {m : LaneMessage}

theorem charLevels_getD (c : Byte) (j : Nat) (low : j < 10) :
    (charLevels c)[j]? = some (if j = 0 then false else if j = 9 then true else c.getLsbD (j - 1)) := by
  have levels : charLevels c = [false, c.getLsbD 0, c.getLsbD 1, c.getLsbD 2, c.getLsbD 3, c.getLsbD 4, c.getLsbD 5, c.getLsbD 6,
    c.getLsbD 7, true] := rfl
  rw [levels]
  interval_cases j <;> rfl

theorem charLevels_length (c : Byte) : (charLevels c).length = 10 := rfl

/-- The levels of characters one after another. -/
theorem levels_get (chars : List Byte) (i j : Nat) (low : j < 10) :
    (chars.flatMap charLevels)[10 * i + j]? = (chars[i]?).bind fun c => (charLevels c)[j]? := by
  induction chars generalizing i with
  | nil => rfl
  | cons c rest ih =>
    rw [List.flatMap_cons]
    cases i with
    | zero =>
      rw [Nat.mul_zero, Nat.zero_add, List.getElem?_append_left (by rw [charLevels_length]; exact low)]
      rfl
    | succ i =>
      rw [List.getElem?_append_right (by rw [charLevels_length]; omega), charLevels_length,
        show 10 * (i + 1) + j - 10 = 10 * i + j by omega, ih i]
      rfl

theorem levels_length (chars : List Byte) : (chars.flatMap charLevels).length = 10 * chars.length := by
  induction chars with
  | nil => rfl
  | cons c rest ih =>
    rw [List.flatMap_cons, List.length_append, ih, charLevels_length, List.length_cons]
    omega

theorem Lane.levelAt_message (last : l.last = some m) (bit : Nat) : l.levelAt bit = ((m.chars.flatMap charLevels)[bit]?).getD true := by
  rw [Lane.levelAt, last]
  exact List.getD_eq_getElem?_getD ..

end Levels

end Sys2Proof.Machine


namespace Sys2Proof.Machine

open Sys2Proof

/-! ## The starts of screen lines (R114, R168) -/

section Starts

variable {m : Measure} {b : Breaker} {c : Closing} {i : Item} {x : Breaker × List ClosedLine} {top : Nat}

/-- The start of the open line, once it holds a character. -/
def Breaker.openStart (b : Breaker) : List Nat :=
  match b.line with
  | some l => (l.items.head?.map (·.offset)).toList
  | none => []

theorem Breaker.openStart_none (none_ : b.line = none) : b.openStart = [] := by
  unfold Breaker.openStart
  rw [none_]

theorem Breaker.openStart_some {l : OpenLine} (line : b.line = some l) : b.openStart = (l.items.head?.map (·.offset)).toList := by
  unfold Breaker.openStart
  rw [line]

/-- The starts of the lines closed and of the open one. -/
def startsOf (b : Breaker) (ls : List ClosedLine) : List Nat := ls.map (·.start) ++ b.openStart

theorem lineStarts_eq (codes : List Byte) :
    lineStarts codes = startsOf (feedFrom screenMeasure 0 codes).1 (feedFrom screenMeasure 0 codes).2 := rfl

/-- A line that closes keeps the start it had. -/
theorem startOf_open {l : OpenLine} {o : Nat} (some_ : l.items ≠ []) :
    [startOf l.items o] = (l.items.head?.map (·.offset)).toList := by
  unfold startOf
  cases items : l.items with
  | nil => exact absurd items some_
  | cons i rest => rfl

theorem Breaker.endWord_openStart : b.openStart <+: b.endWord.openStart := by
  by_cases none_ : b.word = []
  · rw [Breaker.endWord_idle none_]
    exact List.prefix_refl _
  · cases line : b.line with
    | none =>
      rw [Breaker.openStart_none line]
      exact List.nil_prefix
    | some l =>
      rw [Breaker.endWord_joins line none_, Breaker.openStart_some line]
      show _ <+: ((l.items ++ separator b.gap ++ b.word).head?.map (·.offset)).toList
      cases items : l.items with
      | nil => exact List.nil_prefix
      | cons i rest => exact List.prefix_refl _

theorem placeOnEmpty_starts (cap : Nat) :
    c.lines.map (·.start) <+: startsOf (Breaker.placeOnEmpty m cap i c).breaker (Breaker.placeOnEmpty m cap i c).lines := by
  unfold Breaker.placeOnEmpty startsOf
  split
  · exact List.prefix_append _ _
  · rw [List.map_append, List.append_assoc]
    exact List.prefix_append _ _

theorem placeChar_starts :
    startsOf c.breaker c.lines <+: startsOf (Breaker.placeChar m i c).breaker (Breaker.placeChar m i c).lines := by
  unfold Breaker.placeChar
  cases line : c.breaker.line with
  | none =>
    have empty : (c.breaker.openLine m).items = [] := by
      rw [Breaker.openLine, line]
      rfl
    dsimp only
    rw [if_pos empty, startsOf, Breaker.openStart_none line, List.append_nil]
    exact placeOnEmpty_starts _
  | some l =>
    have open_ : c.breaker.openLine m = l := by
      rw [Breaker.openLine, line]
      rfl
    rw [open_]
    dsimp only
    rw [startsOf, Breaker.openStart_some line]
    by_cases empty : l.items = []
    · rw [if_pos empty, empty]
      show c.lines.map (·.start) ++ [] <+: _
      rw [List.append_nil]
      exact placeOnEmpty_starts _
    · rw [if_neg empty]
      split
      · refine (List.prefix_append_right_inj _).mpr ?_
        show _ <+: ((l.items ++ [i]).head?.map (·.offset)).toList
        cases items : l.items with
        | nil => exact absurd items empty
        | cons j rest => exact List.prefix_refl _
      · rw [← startOf_open (o := i.offset) empty]
        have closed := placeOnEmpty_starts (m := m) (i := i)
          (c := { c with lines := c.lines ++ [{ items := l.items, mark := none, start := startOf l.items i.offset }] }) m.capacity
        rw [List.map_append] at closed
        exact closed

theorem placeAll_starts (items : List Item) :
    startsOf c.breaker c.lines <+: startsOf (Breaker.placeAll m items c).breaker (Breaker.placeAll m items c).lines := by
  unfold Breaker.placeAll
  induction items generalizing c with
  | nil => exact List.prefix_refl _
  | cons i rest ih => exact placeChar_starts.trans ih

theorem endParagraph_starts (mark : Option Nat) (at_ : Nat) : b.openStart <+: (b.endParagraph mark at_).map (·.start) := by
  refine Breaker.endWord_openStart.trans ?_
  unfold Breaker.endParagraph
  cases line : b.endWord.line with
  | none =>
    rw [Breaker.openStart_none line]
    exact List.nil_prefix
  | some l =>
    rw [Breaker.openStart_some line]
    by_cases empty : l.items = []
    · rw [empty]
      exact List.nil_prefix
    · rw [← startOf_open (o := at_) empty]
      exact List.prefix_refl _

theorem wordChar_starts : b.openStart <+: startsOf (b.wordChar m i).breaker (b.wordChar m i).lines := by
  have before : startsOf { b with opened := true, inWord := true } [] = b.openStart := rfl
  by_cases alone : b.line = none ∨ b.gap = none
  · rw [Breaker.wordChar_places alone, ← before]
    exact placeChar_starts (c := { breaker := { b with opened := true, inWord := true }, lines := [], overwide := false })
  · obtain ⟨lineSome, gapSome⟩ := not_or.mp alone
    obtain ⟨l, line⟩ := Option.ne_none_iff_exists'.mp lineSome
    obtain ⟨o, gap⟩ := Option.ne_none_iff_exists'.mp gapSome
    by_cases joins : m.total l.items + m.width 0x20#8 + m.total (b.word ++ [i]) ≤ l.capacity
    · rw [Breaker.wordChar_joins line gap joins]
      exact List.prefix_refl _
    · rw [Breaker.wordChar_wraps line gap joins, Breaker.openStart_some line]
      refine List.IsPrefix.trans ?_ (placeAll_starts (b.word ++ [i]))
      by_cases empty : l.items = []
      · rw [empty]
        exact List.nil_prefix
      · rw [← startOf_open (o := i.offset) empty]
        exact List.prefix_refl _

/-- The starts once begun stand. -/
theorem feed_starts (code : Byte) (o : Nat) : b.openStart <+: startsOf (b.feed m code o).breaker (b.feed m code o).lines := by
  unfold Breaker.feed
  by_cases isMark : code = 0x0A#8
  · rw [if_pos isMark]
    exact (endParagraph_starts (some o) o).trans (List.prefix_append _ _)
  · rw [if_neg isMark]
    by_cases isSpace : code = 0x20#8
    · rw [if_pos isSpace]
      exact Breaker.endWord_openStart
    · rw [if_neg isSpace]
      exact wordChar_starts

theorem feedStep_starts (m : Measure) (x : Breaker × List ClosedLine) (c : Byte × Nat) :
    startsOf x.1 x.2 <+: startsOf (feedStep m x c).1 (feedStep m x c).2 := by
  show x.2.map (·.start) ++ _ <+: (x.2 ++ _).map (·.start) ++ _
  rw [List.map_append, List.append_assoc]
  exact (List.prefix_append_right_inj _).mpr (feed_starts c.1 c.2)

theorem feedSteps_starts (m : Measure) (l : List (Byte × Nat)) (x : Breaker × List ClosedLine) :
    startsOf x.1 x.2 <+: startsOf (l.foldl (feedStep m) x).1 (l.foldl (feedStep m) x).2 := by
  induction l generalizing x with
  | nil => exact List.prefix_refl _
  | cons c rest ih => exact (feedStep_starts m x c).trans (ih _)

theorem feedFrom_append (m : Measure) (o : Nat) (before codes : List Byte) :
    feedFrom m o (before ++ codes) = (codes.zipIdx (o + before.length)).foldl (feedStep m) (feedFrom m o before) := by
  rw [feedFrom_eq, feedFrom_eq, List.zipIdx_append, List.foldl_append]

end Starts

/-! ## The line walk (R168) -/

section Walk

variable {top : Nat} {x : Breaker × List ClosedLine}

/-- The line walk where the procedure stands at `x`. -/
def walkOf (top : Nat) (x : Breaker × List ClosedLine) : WalkState :=
  { breaker := x.1, count := x.2.length, lastStart := (x.2.getLast?.map (·.start)).getD 0, starts := (x.2.map (·.start)).drop top }

theorem drop_append_one (top : Nat) (l : List Nat) (n : Nat) :
    (l ++ [n]).drop top = if top ≤ l.length then l.drop top ++ [n] else l.drop top := by
  split
  · next low => rw [List.drop_append_of_le_length low]
  · next high =>
    rw [List.drop_eq_nil_of_le (by simp; omega), List.drop_eq_nil_of_le (by omega)]

theorem walkOf_close (b : Breaker) (ls : List ClosedLine) (l : ClosedLine) :
    (walkOf top (b, ls)).close top l = walkOf top (b, ls ++ [l]) := by
  unfold WalkState.close walkOf
  simp only [List.length_append, List.length_singleton, List.map_append, List.map_cons, List.map_nil, List.getLast?_append,
    List.getLast?_singleton, Option.some_or, Option.map_some, Option.getD_some, drop_append_one, List.length_map]

theorem walkOf_closes (b : Breaker) (ls lines : List ClosedLine) :
    lines.foldl (WalkState.close top) (walkOf top (b, ls)) = walkOf top (b, ls ++ lines) := by
  induction lines generalizing ls with
  | nil => rw [List.append_nil]; rfl
  | cons l rest ih => rw [List.foldl_cons, walkOf_close, ih, List.append_assoc, List.singleton_append]

theorem walkOf_recorded : (walkOf top x).recorded top = (startsOf x.1 x.2).drop top := by
  have none_ (empty : x.1.openStart = []) : (walkOf top x).starts = (startsOf x.1 x.2).drop top := by
    rw [startsOf, empty, List.append_nil]
    rfl
  unfold WalkState.recorded
  cases line : x.1.line with
  | none =>
    have same : (walkOf top x).breaker.line = none := line
    rw [same]
    exact none_ (Breaker.openStart_none line)
  | some l =>
    have same : (walkOf top x).breaker.line = some l := line
    rw [same]
    dsimp only
    cases items : l.items with
    | nil =>
      refine none_ ?_
      rw [Breaker.openStart_some line, items]
      rfl
    | cons i rest =>
      have start : x.1.openStart = [i.offset] := by
        rw [Breaker.openStart_some line, items]
        rfl
      rw [startsOf, start, drop_append_one, List.length_map]
      rfl

/-- The walk of a block: the first twenty starts from the top line on, once they are begun, else where it stands. -/
theorem WalkState.feed_walkOf (codes : List Byte) (o : Nat) (x : Breaker × List ClosedLine)
    (before : ((startsOf x.1 x.2).drop top).length < 20) :
    let y := (codes.zipIdx o).foldl (feedStep screenMeasure) x
    let begun := (startsOf y.1 y.2).drop top
    (20 ≤ begun.length → (WalkState.feed top o codes (walkOf top x)).2 = some (begun.take 20)) ∧
      (begun.length < 20 → WalkState.feed top o codes (walkOf top x) = (walkOf top y, none)) := by
  induction codes generalizing o x with
  | nil => exact ⟨fun many => absurd before (Nat.not_lt.mpr many), fun _ => rfl⟩
  | cons c rest ih =>
    have step : (x.1.feed screenMeasure c o).lines.foldl (WalkState.close top)
        { walkOf top x with breaker := (x.1.feed screenMeasure c o).breaker } = walkOf top (feedStep screenMeasure x (c, o)) :=
      walkOf_closes (x.1.feed screenMeasure c o).breaker x.2 (x.1.feed screenMeasure c o).lines
    have is : WalkState.feed top o (c :: rest) (walkOf top x) =
        if 20 ≤ ((walkOf top (feedStep screenMeasure x (c, o))).recorded top).length then
          (walkOf top (feedStep screenMeasure x (c, o)), some (((walkOf top (feedStep screenMeasure x (c, o))).recorded top).take 20))
        else WalkState.feed top (o + 1) rest (walkOf top (feedStep screenMeasure x (c, o))) := by
      rw [← step]
      rfl
    rw [is, walkOf_recorded, List.zipIdx_cons, List.foldl_cons]
    generalize feedStep screenMeasure x (c, o) = z
    by_cases many : 20 ≤ ((startsOf z.1 z.2).drop top).length
    · rw [if_pos many]
      obtain ⟨more, grown⟩ := (feedSteps_starts screenMeasure (rest.zipIdx (o + 1)) z).drop top
      intro y begun
      have begunIs : begun = (startsOf z.1 z.2).drop top ++ more := grown.symm
      refine ⟨fun _ => ?_, fun few => ?_⟩
      · rw [begunIs, List.take_append_of_le_length many]
      · rw [begunIs, List.length_append] at few
        omega
    · rw [if_neg many]
      exact ih (o + 1) z (Nat.lt_of_not_le many)

end Walk

/-! ## The render (R169) -/

section Render

/-- Characters taken add lines after those before. -/
theorem feedSteps_lines (m : Measure) (l : List (Byte × Nat)) (b : Breaker) (ls : List ClosedLine) :
    (l.foldl (feedStep m) (b, ls)).1 = (l.foldl (feedStep m) (b, [])).1 ∧
      (l.foldl (feedStep m) (b, ls)).2 = ls ++ (l.foldl (feedStep m) (b, [])).2 := by
  induction l generalizing b ls with
  | nil => exact ⟨rfl, (List.append_nil _).symm⟩
  | cons c rest ih =>
    obtain ⟨breaker, lines⟩ := ih (b.feed m c.1 c.2).breaker (ls ++ (b.feed m c.1 c.2).lines)
    obtain ⟨breaker', lines'⟩ := ih (b.feed m c.1 c.2).breaker ([] ++ (b.feed m c.1 c.2).lines)
    refine ⟨breaker.trans breaker'.symm, lines.trans ?_⟩
    show _ = ls ++ (rest.foldl (feedStep m) ((b.feed m c.1 c.2).breaker, [] ++ (b.feed m c.1 c.2).lines)).2
    rw [lines', List.nil_append, List.append_assoc]

/-- Characters before the line's start are passed over. -/
theorem renderFeed_skips (start : Nat) (codes : List Byte) (o : Nat) (b : Breaker) :
    renderFeed start o codes b = renderFeed start (max start o) (codes.drop (start - o)) b := by
  induction codes generalizing o with
  | nil => rw [List.drop_nil]; rfl
  | cons c rest ih =>
    by_cases early : o < start
    · have is : renderFeed start o (c :: rest) b = renderFeed start (o + 1) rest b := if_pos early
      have drops : (c :: rest).drop (start - o) = rest.drop (start - (o + 1)) := by
        rw [show start - o = (start - (o + 1)) + 1 by omega]
        rfl
      rw [is, ih (o + 1), drops, show max start (o + 1) = max start o by omega]
    · rw [show max start o = o by omega, show start - o = 0 by omega]
      rfl

/-- The first line that closes, else where the procedure stands. -/
theorem renderFeed_lines (start : Nat) (codes : List Byte) (o : Nat) (from_ : start ≤ o) (b : Breaker) :
    let y := (codes.zipIdx o).foldl (feedStep screenMeasure) (b, [])
    (y.2 = [] → renderFeed start o codes b = (y.1, none)) ∧
      (y.2 ≠ [] → (renderFeed start o codes b).2 = y.2.head?) := by
  induction codes generalizing o b with
  | nil => exact ⟨fun _ => rfl, fun some_ => absurd rfl some_⟩
  | cons c rest ih =>
    have is : renderFeed start o (c :: rest) b =
        match (b.feed screenMeasure c o).lines with
        | l :: _ => ((b.feed screenMeasure c o).breaker, some l)
        | [] => renderFeed start (o + 1) rest (b.feed screenMeasure c o).breaker := if_neg (Nat.not_lt.mpr from_)
    have step : feedStep screenMeasure (b, []) (c, o) = ((b.feed screenMeasure c o).breaker, (b.feed screenMeasure c o).lines) := rfl
    rw [is, List.zipIdx_cons, List.foldl_cons, step]
    generalize b.feed screenMeasure c o = z
    cases lines : z.lines with
    | nil => exact ih (o + 1) (by omega) z.breaker
    | cons l more =>
      have all := (feedSteps_lines screenMeasure (rest.zipIdx (o + 1)) z.breaker (l :: more)).2
      dsimp only
      rw [all]
      exact ⟨nofun, fun _ => rfl⟩

end Render

end Sys2Proof.Machine


namespace Sys2Proof.Machine

open Sys2Proof

/-! ## Reads of the row builder (R168, R169) -/

section Reads

variable {s u : State} {a : Access} {upsets : List Upset} {k : Key} {q : Story}

/-- A read leaves each story's chain and length. -/
theorem State.endRead_text (stands : s.story k = some q) :
    ∃ q', (s.endRead a upsets).1.story k = some q' ∧ q'.chain = q.chain ∧ q'.length = q.length := by
  have ended : s.endAccess.store.stories = s.store.stories := by rw [State.endAccess_eq]
  have same {t : State} (store : t.store.stories = s.store.stories) : ∃ q', t.story k = some q' ∧ q'.chain = q.chain ∧ q'.length = q.length := by
    refine ⟨q, ?_, rfl, rfl⟩
    unfold State.story Store.story at stands ⊢
    rw [store]
    exact stands
  unfold State.endRead State.readBlock
  dsimp only
  split
  · exact same ended
  · split
    · exact same ended
    · have key : ∀ r : Story, (if r.chain.contains a.block then { r with damaged := true } else r).key = r.key := fun r => by split <;> rfl
      have stories : (((s.endAccess.onStore fun st =>
          { st with text := applyUpsets a.block upsets st.text }).onStore (Store.mark a.block)).raise .storeDamage).store.stories =
            s.store.stories.map fun r => if r.chain.contains a.block then { r with damaged := true } else r := by
        rw [← ended]
        rfl
      have mapped := State.story_mapped key stories k
      rw [stands, Option.map_some] at mapped
      refine ⟨_, mapped, ?_⟩
      split <;> exact ⟨rfl, rfl⟩

/-- A read delivers one code for each character asked for. -/
theorem State.endRead_codes : (s.endRead a upsets).2.codes.length = a.count := by
  unfold State.endRead State.readBlock
  dsimp only
  split
  · exact List.length_replicate
  · split
    · show (List.map cellCode _).length = _
      rw [List.length_map]
      simp [readCells]
    · exact List.length_replicate

end Reads

section Rows

variable {s u t : State} {a : Access} {upsets : List Upset} {n r block : Nat} {w : Window} {k : Key} {q : Story}

/-- What the end of a walk or a render leaves alone. -/
structure RowsBuilt (u t : State) : Prop where
  only : OnlyScreen u t
  desk : t.desk = u.desk
  windows : sameWindows u t
  flash : t.screen.flash = u.screen.flash

theorem RowsBuilt.trans {v : State} (h : RowsBuilt s t) (j : RowsBuilt t v) : RowsBuilt s v :=
  ⟨h.only.trans j.only, j.desk.trans h.desk, h.windows.trans j.windows, j.flash.trans h.flash⟩

theorem RowsBuilt.ofRows (h : RowsFollow s t) : RowsBuilt s t := ⟨h.onlyScreen, h.desk, h.windows, h.flash⟩

theorem RowsBuilt.onWindow (n : Nat) {f : Window → Window} (shown : ∀ w, (f w).shown = w.shown) (s : State) :
    RowsBuilt s (s.onWindow n f) := ⟨OnlyScreen.onWindow n f s, rfl, map_modify_eq Window.shown f shown _ _, rfl⟩

theorem RowsBuilt.onBuild (b : Option Build) (s : State) : RowsBuilt s (s.onScreen fun c => { c with build := b }) :=
  ⟨{ OnlyScreen.refl s with }, rfl, rfl, rfl⟩

/-- A window whose line map stands keeps it while its row is begun or set blank. -/
theorem State.renderOrBlank_map (here : u.screen.windows[n]? = some w) :
    ∃ y, (u.renderOrBlank n r q).screen.windows[n]? = some y ∧ y.lineMap = w.lineMap ∧ y.top = w.top := by
  have blank : ∃ y, ((u.onScreen fun c => { c with build := none }).onWindow n (Window.stage (blankRow r w.mode))).screen.windows[n]? = some y ∧
      y.lineMap = w.lineMap ∧ y.top = w.top := by
    refine ⟨_, (State.onWindow_get _ n n _).trans ((if_pos rfl).trans (congrArg (Option.map _) here)), rfl, rfl⟩
  unfold State.renderOrBlank
  rw [here]
  dsimp only
  split
  · split
    · exact ⟨w, here, rfl, rfl⟩
    · exact blank
  · exact blank

/-- A line map given, its row is begun or set blank, and what follows is staged. -/
theorem State.mapGiven {f : Window → Window} (shown : ∀ w, (f w).shown = w.shown) (here : u.screen.windows[n]? = some w)
    (map : (f w).lineMap ≠ none) :
    ∃ (t : State) (y : Window), ((u.onWindow n f).renderOrBlank n r q).settleRows = t ∧ RowsBuilt u t ∧
      t.screen.windows[n]? = some y ∧ y.lineMap = (f w).lineMap ∧ y.top = (f w).top := by
  have given : (u.onWindow n f).screen.windows[n]? = some (f w) := by
    rw [State.onWindow_get, if_pos rfl, here]
    rfl
  have first := RowsBuilt.onWindow n shown u
  have second := RowsBuilt.ofRows (State.renderOrBlank_follows n r q (u.onWindow n f))
  obtain ⟨v, there, lineMap, top⟩ := State.renderOrBlank_map (r := r) (q := q) given
  generalize (u.onWindow n f).renderOrBlank n r q = x at *
  have third := RowsBuilt.ofRows (State.settleRows_follows x)
  obtain ⟨y, settled, lineMap', top', _⟩ := State.settleRows_mapped there (by rw [lineMap]; exact map)
  exact ⟨_, y, rfl, (first.trans second).trans third, settled, lineMap'.trans lineMap, top'.trans top⟩

/-- The row builder after a read of the line walk: `y` is where it stands, and the map it has come to, if any. -/
def State.walked (n r block : Nat) (w : Window) (q : Story) (y : WalkState × Option (List Nat)) (s : State) : State :=
  match y.2 with
  | some map => ((s.onWindow n fun w => { w with lineMap := some map }).renderOrBlank n r q).settleRows
  | none =>
      if block + 1 < blocksFor q.length then
        (s.setBuild n r (.walk (block + 1) y.1.breaker y.1.count y.1.lastStart y.1.starts)).requestChain .walkRead q.chain q.length
          (block + 1)
      else
        let z := (y.1.breaker.finish q.length).foldl (WalkState.close w.top) y.1
        ((s.onWindow n (Window.walkedToEnd z.count z.lastStart (z.starts.take 20))).renderOrBlank n r q).settleRows

theorem State.walkCompleted_walked {b : Breaker} {count last : Nat} {starts : List Nat} (busy : s.port.busy = some a)
    (purpose : a.purpose = .walkRead) (mine : a.aside = false)
    (build : (s.endRead a upsets).1.screen.build = some { lane := n, row := r, phase := .walk block b count last starts })
    (window : (s.endRead a upsets).1.screen.windows[n]? = some w) (key : w.key = some k)
    (stands : (s.endRead a upsets).1.story k = some q) :
    s.walkCompleted upsets =
      State.walked n r block w q
        (WalkState.feed w.top (32 * block) (s.endRead a upsets).2.codes
          { breaker := b, count := count, lastStart := last, starts := starts }) (s.endRead a upsets).1 := by
  have serving : s.serving (fun p => decide (p = .walkRead)) = some a := by
    rw [State.serving, busy, Option.filter_some, if_pos (by rw [purpose]; rfl)]
  have found : (((s.endRead a upsets).1.screen.windows[n]?).bind fun w => (w.key.bind (s.endRead a upsets).1.story).map fun q => (w, q)) =
      some (w, q) := by
    rw [window, Option.bind_some, key, Option.bind_some, stands, Option.map_some]
  unfold State.walkCompleted
  rw [serving]
  dsimp only
  rw [mine, if_neg Bool.false_ne_true, build]
  dsimp only
  rw [found]
  rfl

/-- The row builder after a read of the render. -/
def State.rendered (n r start block : Nat) (q : Story) (y : Breaker × Option ClosedLine) (s : State) : State :=
  match y.2 with
  | some l => s.rowRendered n r l.columns
  | none =>
      if block + 1 < blocksFor q.length then
        (s.setBuild n r (.render start (block + 1) y.1)).requestChain .renderRead q.chain q.length (block + 1)
      else s.rowRendered n r (((y.1.finish q.length).head?.map ClosedLine.columns).getD [])

theorem State.renderCompleted_rendered {b : Breaker} {start : Nat} (busy : s.port.busy = some a) (purpose : a.purpose = .renderRead)
    (mine : a.aside = false) (build : (s.endRead a upsets).1.screen.build = some { lane := n, row := r, phase := .render start block b })
    (window : (s.endRead a upsets).1.screen.windows[n]? = some w) (key : w.key = some k)
    (stands : (s.endRead a upsets).1.story k = some q) :
    s.renderCompleted upsets =
      State.rendered n r start block q (renderFeed start (32 * block) (s.endRead a upsets).2.codes b) (s.endRead a upsets).1 := by
  have serving : s.serving (fun p => decide (p = .renderRead)) = some a := by
    rw [State.serving, busy, Option.filter_some, if_pos (by rw [purpose]; rfl)]
  have found : (((s.endRead a upsets).1.screen.windows[n]?).bind (·.key)).bind (s.endRead a upsets).1.story = some q := by
    rw [window, Option.bind_some, key, Option.bind_some, stands]
  unfold State.renderCompleted
  rw [serving]
  dsimp only
  rw [mine, if_neg Bool.false_ne_true, build]
  dsimp only
  rw [found]
  rfl

/-- A rendered row is staged. -/
theorem State.rowRendered_staged (items : List Item) (here : u.screen.windows[n]? = some w) :
    ∃ t : State, u.rowRendered n r items = t ∧ RowsBuilt u t ∧
      t.screen.windows[n]? =
        some
          { w with
              dirty := w.dirty.set r false,
              staging := .ready
                { number := r, mode := w.mode, cursor := cursorColumn w.cursor items, codes := rowCodes items } } := by
  have idle := RowsBuilt.onBuild none u
  have there : (u.onScreen fun c => { c with build := none }).screen.windows[n]? = some w := here
  unfold State.rowRendered
  generalize (u.onScreen fun c => { c with build := none }) = v at *
  have staged : (v.onWindow n fun w =>
      Window.stage { number := r, mode := w.mode, cursor := cursorColumn w.cursor items, codes := rowCodes items } w).screen.windows[n]? =
        some
          { w with
              dirty := w.dirty.set r false,
              staging := .ready
                { number := r, mode := w.mode, cursor := cursorColumn w.cursor items, codes := rowCodes items } } := by
    rw [State.onWindow_get, if_pos rfl, there]
    rfl
  have second := RowsBuilt.onWindow n (f := fun w =>
    Window.stage { number := r, mode := w.mode, cursor := cursorColumn w.cursor items, codes := rowCodes items } w) (fun _ => rfl) v
  generalize (v.onWindow n fun w =>
    Window.stage { number := r, mode := w.mode, cursor := cursorColumn w.cursor items, codes := rowCodes items } w) = x at *
  exact ⟨_, rfl, (idle.trans second).trans (RowsBuilt.ofRows (State.settleRows_follows x)), State.settleRows_staged staged nofun⟩

end Rows

end Sys2Proof.Machine


namespace Sys2Proof.Machine

open Sys2Proof

section Cases

variable {s u : State} {n r start block : Nat} {w : Window} {q : Story} {y : WalkState × Option (List Nat)}
  {z : Breaker × Option ClosedLine}

theorem State.walked_map {map : List Nat} (come : y.2 = some map) :
    State.walked n r block w q y s = ((s.onWindow n fun w => { w with lineMap := some map }).renderOrBlank n r q).settleRows := by
  unfold State.walked
  rw [come]

theorem State.walked_more (none_ : y.2 = none) (more : 32 * (block + 1) < q.length) :
    State.walked n r block w q y s =
      (s.setBuild n r (.walk (block + 1) y.1.breaker y.1.count y.1.lastStart y.1.starts)).requestChain .walkRead q.chain q.length
        (block + 1) := by
  unfold State.walked
  rw [none_]
  exact if_pos (lt_blocksFor.mpr more)

theorem State.walked_end (none_ : y.2 = none) (all : q.length ≤ 32 * (block + 1)) :
    State.walked n r block w q y s =
      ((s.onWindow n (Window.walkedToEnd ((y.1.breaker.finish q.length).foldl (WalkState.close w.top) y.1).count
          ((y.1.breaker.finish q.length).foldl (WalkState.close w.top) y.1).lastStart
          (((y.1.breaker.finish q.length).foldl (WalkState.close w.top) y.1).starts.take 20))).renderOrBlank n r q).settleRows := by
  unfold State.walked
  rw [none_]
  exact if_neg fun more => absurd (lt_blocksFor.mp more) (by omega)

theorem State.rendered_line {l : ClosedLine} (closes : z.2 = some l) :
    State.rendered n r start block q z s = s.rowRendered n r l.columns := by
  unfold State.rendered
  rw [closes]

theorem State.rendered_more (none_ : z.2 = none) (more : 32 * (block + 1) < q.length) :
    State.rendered n r start block q z s =
      (s.setBuild n r (.render start (block + 1) z.1)).requestChain .renderRead q.chain q.length (block + 1) := by
  unfold State.rendered
  rw [none_]
  exact if_pos (lt_blocksFor.mpr more)

theorem State.rendered_end (none_ : z.2 = none) (all : q.length ≤ 32 * (block + 1)) :
    State.rendered n r start block q z s = s.rowRendered n r (((z.1.finish q.length).head?.map ClosedLine.columns).getD []) := by
  unfold State.rendered
  rw [none_]
  exact if_neg fun more => absurd (lt_blocksFor.mp more) (by omega)

end Cases

/-! ## The line walk of a block (R168) -/

section Completions

variable {s : State} {a : Access} {upsets : List Upset} {n r block : Nat} {w : Window} {k : Key} {q : Story} {before : List Byte}

variable (busy : s.port.busy = some a) (live : a.aside = false) (op : s.desk.op ≠ .restarting)
  (window : s.screen.windows[n]? = some w) (key : w.key = some k) (stands : s.story k = some q)

/-- The next block is asked for, with the build `b`. -/
def State.buildsOn (b : Build) (p : Purpose) (block : Nat) (q : Story) (s : State) : State :=
  { s with
      screen := { s.screen with build := some b },
      port :=
        s.port.request
          { purpose := p, block := q.chain.getD block 0, first := 0, count := min 32 (q.length - 32 * block), aside := false } }

/-- The line map of window `n` stands as `map` from top line `top` on. -/
def mappedTo (n top : Nat) (map : List Nat) (u s t : State) : Prop :=
  ∃ y : Window, OnlyScreen u t ∧ t.desk = u.desk ∧ sameWindows s t ∧ t.screen.flash = s.screen.flash ∧
    t.screen.windows[n]? = some y ∧ y.top = top ∧ y.lineMap = some map

include busy live op window key stands

theorem State.walk_block (purpose : a.purpose = .walkRead) (length : before.length = 32 * block)
    (build : s.screen.build = some (walkAt n r w.top before)) (inside : 32 * block < q.length)
    (count : a.count = min 32 (q.length - 32 * block)) (few : ((lineStarts before).drop w.top).length < 20) :
    let x := s.endRead a upsets
    let text := before ++ x.2.codes
    let begun := (lineStarts text).drop w.top
    let starts := (breakText screenMeasure text).map (·.start)
    (20 ≤ begun.length → mappedTo n w.top (begun.take 20) x.1 s (s.walkCompleted upsets)) ∧
    (begun.length < 20 → 32 * (block + 1) < q.length →
      s.walkCompleted upsets = x.1.buildsOn (walkAt n r w.top text) .walkRead (block + 1) q) ∧
    (begun.length < 20 → q.length ≤ 32 * (block + 1) →
      (w.top < starts.length → mappedTo n w.top ((starts.drop w.top).take 20) x.1 s (s.walkCompleted upsets)) ∧
      (starts.length ≤ w.top → mappedTo n (starts.length - 1) starts.getLast?.toList x.1 s (s.walkCompleted upsets))) := by
  intro x text begun starts
  have codes : x.2.codes.length = a.count := State.endRead_codes
  have served : x.1.screen = s.screen := (State.endRead_servedOn op).screen
  obtain ⟨q', stands', chain, len⟩ := State.endRead_text (a := a) (upsets := upsets) stands
  have at_ : before.length / 32 = block := by omega
  have walk : s.walkCompleted upsets =
      State.walked n r block w q' (WalkState.feed w.top (32 * block) x.2.codes (walkOf w.top (feedFrom screenMeasure 0 before))) x.1 := by
    refine State.walkCompleted_walked busy purpose live ?_ ?_ key stands'
    · rw [show (s.endRead a upsets).1.screen = s.screen from served, build, ← at_]
      rfl
    · rw [show (s.endRead a upsets).1.screen = s.screen from served]
      exact window
  have from_ : feedFrom screenMeasure 0 text = (x.2.codes.zipIdx (32 * block)).foldl (feedStep screenMeasure) (feedFrom screenMeasure 0 before) := by
    rw [← length, ← Nat.zero_add before.length]
    exact feedFrom_append screenMeasure 0 before x.2.codes
  rw [lineStarts_eq] at few
  obtain ⟨many, on⟩ := WalkState.feed_walkOf x.2.codes (32 * block) (feedFrom screenMeasure 0 before) few
  rw [← from_] at many on
  have begunIs : begun = (startsOf (feedFrom screenMeasure 0 text).1 (feedFrom screenMeasure 0 text).2).drop w.top := by
    show (lineStarts text).drop w.top = _
    rw [lineStarts_eq]
  rw [← begunIs] at many on
  have here : x.1.screen.windows[n]? = some w := by rw [served]; exact window
  have given {f : Window → Window} {top : Nat} {map : List Nat} (shown : ∀ w, (f w).shown = w.shown) (topIs : (f w).top = top)
      (mapIs : (f w).lineMap = some map)
      (is : s.walkCompleted upsets = ((x.1.onWindow n f).renderOrBlank n r q').settleRows) :
      mappedTo n top map x.1 s (s.walkCompleted upsets) := by
    obtain ⟨t, y, ends, built, there, lineMap, top⟩ := State.mapGiven (r := r) (q := q') shown here (by rw [mapIs]; nofun)
    rw [is, ends]
    refine ⟨y, built.only, built.desk, ?_, ?_, there, top.trans topIs, lineMap.trans mapIs⟩
    · have same := built.windows
      unfold sameWindows at same ⊢
      rw [same, served]
    · rw [built.flash, served]
  refine ⟨fun full => ?_, fun room more => ?_, fun room all => ?_⟩
  · exact given (f := fun w => { w with lineMap := some (begun.take 20) }) (fun _ => rfl) rfl rfl (walk.trans (State.walked_map (many full)))
  · rw [walk, on room]
    refine (State.walked_more rfl (by rw [len]; exact more)).trans ?_
    have blocks : text.length / 32 = block + 1 := by
      rw [show text.length = before.length + x.2.codes.length from List.length_append, codes, count, length]
      omega
    unfold State.buildsOn walkAt
    rw [blocks, chain, len]
    rfl
  · have whole : text.length = q.length := by
      rw [show text.length = before.length + x.2.codes.length from List.length_append, codes, count, length]
      omega
    have ends : (((walkOf w.top (feedFrom screenMeasure 0 text)).breaker.finish q'.length).foldl (WalkState.close w.top)
        (walkOf w.top (feedFrom screenMeasure 0 text))) = walkOf w.top ((feedFrom screenMeasure 0 text).1, breakText screenMeasure text) := by
      rw [len, ← whole]
      exact walkOf_closes (feedFrom screenMeasure 0 text).1 (feedFrom screenMeasure 0 text).2 _
    have is : s.walkCompleted upsets = ((x.1.onWindow n (Window.walkedToEnd (breakText screenMeasure text).length
        (((breakText screenMeasure text).getLast?.map (·.start)).getD 0) ((starts.drop w.top).take 20))).renderOrBlank n r q').settleRows := by
      rw [walk, on room]
      refine (State.walked_end rfl (by rw [len]; exact all)).trans ?_
      rw [ends]
      rfl
    have counted : starts.length = (breakText screenMeasure text).length := List.length_map _
    refine ⟨fun inside => ?_, fun beyond => ?_⟩
    · refine given (fun _ => Window.walkedToEnd_shown ..) ?_ ?_ is
      all_goals rw [Window.walkedToEnd, if_neg (by omega)]
    · have clamps : Window.walkedToEnd (breakText screenMeasure text).length
          (((breakText screenMeasure text).getLast?.map (·.start)).getD 0) ((starts.drop w.top).take 20) w =
            { w with top := starts.length - 1, lineMap := some starts.getLast?.toList } := by
        rw [Window.walkedToEnd, if_pos (by omega), counted]
        have last : (if (breakText screenMeasure text).length = 0 then []
            else [((breakText screenMeasure text).getLast?.map (·.start)).getD 0]) = starts.getLast?.toList := by
          show _ = ((breakText screenMeasure text).map (·.start)).getLast?.toList
          rw [List.getLast?_map]
          cases lines : (breakText screenMeasure text).getLast? with
          | none => rw [List.getLast?_eq_none_iff.mp lines]; rfl
          | some l =>
            rw [if_neg fun none_ => by rw [List.length_eq_zero_iff.mp none_] at lines; cases lines]
            rfl
        rw [last]
      exact given (fun _ => Window.walkedToEnd_shown ..) (by rw [clamps]) (by rw [clamps]) is

/-- The render of a block. -/
theorem State.render_block {start : Nat} (purpose : a.purpose = .renderRead)
    (length : before.length = 32 * block - start) (build : s.screen.build = some (renderAt n r start block before))
    (unclosed : (feedFrom screenMeasure start before).2 = []) :
    let x := s.endRead a upsets
    let text := before ++ x.2.codes.drop (start - 32 * block)
    let y := feedFrom screenMeasure start text
    let staged (l : Option ClosedLine) : Prop :=
      let items := (l.map ClosedLine.columns).getD []
      ∃ t : State, s.renderCompleted upsets = t ∧ OnlyScreen x.1 t ∧ t.desk = x.1.desk ∧ sameWindows s t ∧
        t.screen.flash = s.screen.flash ∧
        t.screen.windows[n]? =
          some
            { w with
                dirty := w.dirty.set r false,
                staging := .ready
                  { number := r, mode := w.mode, cursor := cursorColumn w.cursor items, codes := rowCodes items } }
    (y.2 ≠ [] → staged y.2.head?) ∧
    (y.2 = [] → 32 * (block + 1) < q.length →
      s.renderCompleted upsets = x.1.buildsOn (renderAt n r start (block + 1) text) .renderRead (block + 1) q) ∧
    (y.2 = [] → q.length ≤ 32 * (block + 1) → staged (y.1.finish q.length).head?) := by
  intro x text y staged
  have served : x.1.screen = s.screen := (State.endRead_servedOn op).screen
  obtain ⟨q', stands', chain, len⟩ := State.endRead_text (a := a) (upsets := upsets) stands
  have draw : s.renderCompleted upsets =
      State.rendered n r start block q' (renderFeed start (32 * block) x.2.codes (feedFrom screenMeasure start before).1) x.1 := by
    refine State.renderCompleted_rendered busy purpose live ?_ ?_ key stands'
    · rw [show (s.endRead a upsets).1.screen = s.screen from served, build]
      rfl
    · rw [show (s.endRead a upsets).1.screen = s.screen from served]
      exact window
  have here : x.1.screen.windows[n]? = some w := by rw [served]; exact window
  have pair : feedFrom screenMeasure start before = ((feedFrom screenMeasure start before).1, []) := by
    rw [← unclosed]
  have from_ : y = ((x.2.codes.drop (start - 32 * block)).zipIdx (max start (32 * block))).foldl (feedStep screenMeasure)
      ((feedFrom screenMeasure start before).1, []) := by
    rw [← pair, show max start (32 * block) = start + before.length by omega]
    exact feedFrom_append screenMeasure start before _
  obtain ⟨open_, closed⟩ := renderFeed_lines start (x.2.codes.drop (start - 32 * block)) (max start (32 * block)) (by omega)
    (feedFrom screenMeasure start before).1
  rw [← from_, ← renderFeed_skips] at open_ closed
  have rows {items : List Item} (is : s.renderCompleted upsets = x.1.rowRendered n r items) :
      ∃ t : State, s.renderCompleted upsets = t ∧ OnlyScreen x.1 t ∧ t.desk = x.1.desk ∧ sameWindows s t ∧
        t.screen.flash = s.screen.flash ∧
        t.screen.windows[n]? =
          some
            { w with
                dirty := w.dirty.set r false,
                staging := .ready
                  { number := r, mode := w.mode, cursor := cursorColumn w.cursor items, codes := rowCodes items } } := by
    obtain ⟨t, ends, built, there⟩ := State.rowRendered_staged (r := r) items here
    refine ⟨t, is.trans ends, built.only, built.desk, ?_, ?_, there⟩
    · have same := built.windows
      unfold sameWindows at same ⊢
      rw [same, served]
    · rw [built.flash, served]
  refine ⟨fun some_ => ?_, fun none_ more => ?_, fun none_ all => ?_⟩
  · cases lines : y.2 with
    | nil => exact absurd lines some_
    | cons l rest =>
      have first := closed some_
      rw [lines] at first
      exact rows (draw.trans (State.rendered_line first))
  · rw [draw]
    refine (State.rendered_more (by rw [open_ none_]) (by rw [len]; exact more)).trans ?_
    rw [open_ none_, chain, len]
    rfl
  · refine rows (draw.trans ((State.rendered_end (by rw [open_ none_]) (by rw [len]; exact all)).trans ?_))
    rw [open_ none_, len]

end Completions

/-- Settles O52: a row slot lane by lane, the levels character by character, the walk and the render block by block. -/
theorem rowsBuiltAndSent : Obligations.RowsBuiltAndSent := by
  refine ⟨fun s stopped => ?_, fun s timer => ?_, fun l => ⟨fun none_ bit => ?_, fun m last => ⟨?_, ?_, ?_, ?_⟩⟩,
    fun a upsets n r w k q s busy live op window key stands => ⟨?_, ?_⟩⟩
  · exact congrArg Host.Outcome.next (if_neg (by rw [stopped]; exact Bool.false_ne_true))
  · obtain ⟨t, is, desk, windows, flash, only, lanes, each⟩ := State.rowSlot_sends timer
    refine ⟨t, congrArg Host.Outcome.next is, desk, windows, flash, only, lanes, fun n l lane => ?_⟩
    obtain ⟨sent, stays⟩ := each n
    obtain ⟨slotWindow, slotLane⟩ := State.slotAtLanes_get s n
    refine ⟨fun off => ?_, fun w on here => ⟨fun r ready => ⟨?_, fun clean => ?_⟩, fun none_ => ?_, fun r building => ?_⟩⟩
    · rw [sent, slotLane, if_neg (by omega), lane]
    · rw [sent, slotLane, if_pos on, here, Option.elim_some, lane, Option.map_some, ready, ← bump16_eq]
      rfl
    · rw [if_pos on, here, Option.map_some] at slotWindow
      rw [stays w.afterSlot slotWindow (.inr (Window.nextRow_clean (w := w.afterSlot) clean)), Option.map_some, Window.afterSlot, ready]
      rfl
    · have keep : w.staging.message = .keep := by
        cases staging : w.staging with
        | ready r => exact absurd staging (none_ r)
        | empty => rfl
        | building r => rfl
      rw [sent, slotLane, if_pos on, here, Option.elim_some, lane, Option.map_some, keep, ← bump16_eq]
      rfl
    · rw [if_pos on, here, Option.map_some] at slotWindow
      have staging : w.afterSlot.staging = .building r := by
        rw [Window.afterSlot, building]
        rfl
      rw [stays w.afterSlot slotWindow (.inl (by rw [staging]; nofun)), Option.map_some, staging]
  · rw [Lane.levelAt, none_]
    rfl
  · rintro rfl
    rfl
  · rintro r rfl
    show ([0x01#8, _, _, _] ++ r.codes : List Byte) = _
    cases r.mode <;> rfl
  · intro i j c there low
    rw [Lane.levelAt_message last, levels_get _ i j low, there, Option.bind_some, charLevels_getD c j low, Option.getD_some]
  · intro bit beyond
    rw [Lane.levelAt_message last, List.getElem?_eq_none (by rw [levels_length]; exact beyond), Option.getD_none]
  · intro before block purpose length build inside count few text begun starts mapped
    obtain ⟨full, more, ends⟩ := State.walk_block (upsets := upsets) busy live op window key stands purpose length build inside count few
    have goes {top : Nat} {map : List Nat} (is : mappedTo n top map (s.endRead a upsets).1 s (s.walkCompleted upsets)) : mapped top map := by
      obtain ⟨y, is⟩ := is
      exact ⟨_, y, rfl, is⟩
    exact ⟨fun some_ => goes (full some_), fun room some_ => congrArg Host.Outcome.next (more room some_),
      fun room all => ⟨fun inside => goes ((ends room all).1 inside), fun beyond => goes ((ends room all).2 beyond)⟩⟩
  · intro start block before purpose _ length build unclosed text y staged
    obtain ⟨closed, more, ends⟩ := State.render_block (upsets := upsets) busy live op window key stands purpose length build unclosed
    refine ⟨fun some_ => ?_, fun none_ some_ => congrArg Host.Outcome.next (more none_ some_), fun none_ all => ?_⟩
    · obtain ⟨t, is, rest⟩ := closed some_
      exact ⟨t, congrArg Host.Outcome.next is, rest⟩
    · obtain ⟨t, is, rest⟩ := ends none_ all
      exact ⟨t, congrArg Host.Outcome.next is, rest⟩

end Sys2Proof.Machine


namespace Sys2Proof.Machine

open Sys2Proof

/-! ## Accesses that end set aside (R11, R24, R195) -/

section Aside

variable {s : State} {a : Access} {upsets : List Upset} {n : Nat}

/-- RESTART has its response once the access it waits for has ended. -/
def restartAnswered (s t : State) : Prop :=
  s.desk.op = .restarting → s.desk.ready = false → s.desk.command = some (nameByte .restart) →
    answeredDone .restart .nothing t ∧ t.desk.op = .idle

theorem restartAnswered_of_desk {t u : State} (h : restartAnswered s t) (desk : u.desk = t.desk) : restartAnswered s u := by
  unfold restartAnswered answeredDone at h ⊢
  rw [desk]
  exact h

/-- The desk unit once an access has ended that RESTART waits for. -/
theorem Desk.accessEnded_restarting (op : s.desk.op = .restarting) :
    s.desk.accessEnded =
      { s.desk with
          op := .idle,
          response := some { name := s.desk.command.getD 0#8, result := .done, field := none, data := .nothing } } := if_pos op

theorem Desk.accessEnded_other (op : s.desk.op ≠ .restarting) : s.desk.accessEnded = s.desk := if_neg op

theorem restartAnswered_of_ended {t : State} (ready : t.desk.ready = s.desk.accessEnded.ready)
    (command : t.desk.command = s.desk.accessEnded.command) (response : t.desk.response = s.desk.accessEnded.response)
    (op : t.desk.op = s.desk.accessEnded.op) : restartAnswered s t := by
  intro restarting low taken
  rw [Desk.accessEnded_restarting restarting] at ready command response op
  refine ⟨⟨ready.trans low, command.trans taken, response.trans ?_⟩, op⟩
  show some (Response.mk (s.desk.command.getD 0#8) _ _ _) = _
  rw [taken]
  rfl

theorem State.endRead_answers (s : State) : restartAnswered s (s.endRead a upsets).1 := by
  have desk : onlyNotices s.endAccess (s.endAccess.readBlock a upsets).1 := (s.endAccess.readBlock_rest a upsets).2.2.2.2.2.2.2.2
  have ended : s.endAccess.desk = s.desk.accessEnded := by rw [State.endAccess_eq]
  unfold onlyNotices at desk
  rw [ended] at desk
  have desk : (s.endRead a upsets).1.desk = _ := desk
  refine restartAnswered_of_ended ?_ ?_ ?_ ?_
  all_goals rw [desk]

variable (busy : s.port.busy = some a) (aside : a.aside = true)

include busy aside

/-- A read set aside, of the page reader, the fit reader or the row builder, leaves what the read itself leaves. -/
theorem exec_readAside (row : Instr)
    (mine : (a.purpose = .pageRead ∧ row = .pageReadCompletion upsets) ∨ (a.purpose = .fitRead ∧ row = .fitReadCompletion upsets) ∨
      (a.purpose = .walkRead ∧ row = .lineWalkReadCompletion upsets) ∨ (a.purpose = .renderRead ∧ row = .renderReadCompletion upsets)) :
    exec row s = .next (s.endRead a upsets).1 := by
  have serving {mine : Purpose → Bool} (is : mine a.purpose = true) : s.serving mine = some a := by
    rw [State.serving, busy, Option.filter_some, if_pos is]
  rcases mine with ⟨purpose, rfl⟩ | ⟨purpose, rfl⟩ | ⟨purpose, rfl⟩ | ⟨purpose, rfl⟩
  · refine congrArg Host.Outcome.next ?_
    unfold State.pageReadCompleted
    rw [serving (by rw [purpose]; rfl)]
    exact if_pos aside
  · refine congrArg Host.Outcome.next ?_
    unfold State.fitReadCompleted
    rw [serving (by rw [purpose]; rfl)]
    exact if_pos aside
  · refine congrArg Host.Outcome.next ?_
    unfold State.walkCompleted
    rw [serving (by rw [purpose]; rfl)]
    exact if_pos aside
  · refine congrArg Host.Outcome.next ?_
    unfold State.renderCompleted
    rw [serving (by rw [purpose]; rfl)]
    exact if_pos aside

/-- One of the slip writer leaves its next request besides. -/
theorem exec_slipReadAside (row : Instr)
    (mine : (a.purpose = .checkRead n ∧ row = .offerCheckReadCompletion upsets) ∨ (a.purpose = .slipRead n ∧ row = .slipReadCompletion upsets)) :
    exec row s = .next (s.endRead a upsets).1.settleSlips := by
  rcases mine with ⟨purpose, rfl⟩ | ⟨purpose, rfl⟩
  · refine congrArg Host.Outcome.next ?_
    unfold State.checkReadCompleted
    rw [busy]
    dsimp only
    rw [purpose]
    exact if_pos aside
  · refine congrArg Host.Outcome.next ?_
    unfold State.slipReadCompleted
    rw [busy]
    dsimp only
    rw [purpose]
    exact if_pos aside

/-- The write of a slip whose slot is gone. -/
theorem exec_slipWriteAside {p i : Nat} {codes : List Byte} (purpose : a.purpose = .slipWrite n p i codes) (first : a.first = 0)
    (gone : ∀ y ∈ s.traffic.slots, y.inbound ≠ some { entry := n, pass := p }) :
    exec .slipWriteCompletion s =
      .next
        (({ s with
            store :=
              { s.store with
                  text := writeCodes a.block 0 (codes.map fun c => if decide (c = 0x0A#8 ∨ (0x20 ≤ c.toNat ∧ c.toNat ≤ 0x7F)) then c else 0x3F#8)
                    s.store.text,
                  marks := s.store.marks.filter (· ≠ a.block),
                  substitutions :=
                    min 65535 (s.store.substitutions + codes.countP fun c => !decide (c = 0x0A#8 ∨ (0x20 ≤ c.toNat ∧ c.toNat ≤ 0x7F))) },
            port := s.port.complete, desk := s.desk.accessEnded } : State).settleSlips).settleRows := by
  have code (c : Byte) : legalCode c = decide (c = 0x0A#8 ∨ (0x20 ≤ c.toNat ∧ c.toNat ≤ 0x7F)) := by
    unfold legalCode
    rw [Bool.eq_iff_iff]
    simp [within_iff]
  have stays : Traffic.freeWritten { entry := n, pass := p } i s.traffic = s.traffic := by
    unfold Traffic.freeWritten
    split
    · next x rest slots =>
      refine if_neg fun mine => gone x (by rw [slots]; exact List.mem_cons_self) ?_
      have mine := (Bool.and_eq_true .. |>.mp ((Bool.and_eq_true .. |>.mp mine).1)).2
      exact of_decide_eq_true mine
    · rfl
  refine congrArg Host.Outcome.next ?_
  unfold State.slipWriteCompleted
  rw [busy]
  dsimp only
  rw [purpose]
  dsimp only
  rw [if_pos aside, State.endAccess_eq]
  refine congrArg (fun x : State => x.settleSlips.settleRows) ?_
  unfold State.writeBlock State.onStore State.onTraffic
  dsimp only
  rw [stays, first]
  simp only [substitute, code, add16, List.countP_eq_length_filter]

end Aside

end Sys2Proof.Machine


namespace Sys2Proof.Machine

open Sys2Proof

/-! ## Status values told while RESTART clears the blocks (R82, R145, R185, R195) -/

section Tells

variable {s t u : State}

/-- What of a window neither a status value nor a staging changes, and RESTART keeps. -/
def Window.view (w : Window) : Option Key × Mode × Nat × Option Nat := (w.key, w.mode, w.top, w.cursor)

/-- No request waits, and an access in progress is set aside. -/
def Port.cleared (p : Port) : Prop := p.slip = none ∧ p.desk = none ∧ p.page = none ∧ p.fit = none ∧ p.row = none ∧
  ∀ a, p.busy = some a → a.aside = true

theorem Port.restart_cleared (p : Port) : p.restart.cleared := by
  refine ⟨rfl, rfl, rfl, rfl, rfl, fun a here => ?_⟩
  obtain ⟨b, _, rfl⟩ := Option.map_eq_some_iff.mp here
  rfl

/-- With no request waiting and the access set aside there is nothing to abandon. -/
theorem Port.abandon_cleared {p : Port} (mine : Purpose → Bool) (cleared : p.cleared) : p.abandon mine = p := by
  obtain ⟨slip, desk, page, fit, row, aside⟩ := cleared
  cases p with
  | mk busy slip' desk' page' fit' row' =>
    simp only at slip desk page fit row aside
    subst slip desk page fit row
    unfold Port.abandon
    cases busy with
    | none => rfl
    | some a =>
      have same : (if mine a.purpose then { a with aside := true } else a) = a := by
        split
        · rw [← aside a rfl]
        · rfl
      simp only [Option.map_some, same, Option.filter_none]

/-- Values told to the screen unit and the desk unit: rows and the row builder follow, and the outputs. -/
structure Tells (s t : State) : Prop where
  rest :
    t =
      { s with
          port := t.port,
          screen := { s.screen with windows := t.screen.windows, build := t.screen.build, status := t.screen.status },
          desk :=
            { s.desk with
                inputs := t.desk.inputs, attention := t.desk.attention, lamp := t.desk.lamp, lit := t.desk.lit } }
  port : s.port.cleared → t.port = s.port
  windows : t.screen.windows.map Window.view = s.screen.windows.map Window.view
  attention : s.desk.notices = 0#18 → s.desk.attention = true → t.desk.attention = true

/-- ATTENTION stands high without a latched notice. -/
theorem Desk.attention_high {d : Desk} (none_ : d.notices = 0#18) : d.attentionLevel = true := by
  unfold Desk.attentionLevel
  cases d.record with
  | none => rfl
  | some r =>
    rw [none_]
    exact decide_eq_true (BitVec.zero_and)

namespace Tells

theorem refl (s : State) : Tells s s := ⟨rfl, fun _ => rfl, rfl, fun _ h => h⟩

theorem trans (h : Tells s t) (k : Tells t u) : Tells s u where
  rest := by
    have second := k.rest
    rw [h.rest] at second
    exact second
  port := fun cleared => by
    have same := h.port cleared
    rw [k.port (by rw [same]; exact cleared), same]
  windows := k.windows.trans h.windows
  attention := fun none_ high => k.attention (by rw [h.rest]; exact none_) (h.attention none_ high)

theorem foldl {α : Type} {f : State → α → State} (h : ∀ s a, Tells s (f s a)) (l : List α) (s : State) : Tells s (l.foldl f s) := by
  induction l generalizing s with
  | nil => exact refl s
  | cons a l ih => exact (h s a).trans (ih _)

theorem dirty (n : Nat) (rows : Nat → Bool) (s : State) : Tells s (s.dirty n rows) := by
  have shown : ∀ w : Window, (Window.dirtyRows rows w).view = w.view := fun _ => rfl
  unfold State.dirty
  split
  · exact ⟨rfl, fun cleared => Port.abandon_cleared _ cleared, map_modify_eq Window.view _ shown _ _, fun _ h => h⟩
  · exact ⟨rfl, fun _ => rfl, map_modify_eq Window.view _ shown _ _, fun _ h => h⟩

theorem tellStatus (f : Status → Status) (s : State) : Tells s (s.tellStatus f) :=
  (show Tells s (s.onScreen fun c => { c with status := f c.status }) from ⟨rfl, fun _ => rfl, rfl, fun _ h => h⟩).trans
    (foldl (fun s n => dirty n _ s) _ _)

theorem tellDesk (f : LampInputs → LampInputs) (s : State) : Tells s (s.tellDesk f) := by
  have desk : (s.tellDesk f).desk = Desk.refresh { s.desk with inputs := f s.desk.inputs } := rfl
  obtain ⟨attention, lamp, lit, told⟩ := State.tellDesk_told f s
  refine ⟨by rw [told], fun _ => rfl, rfl, fun none_ _ => ?_⟩
  rw [desk, Desk.refresh_attention]
  exact Desk.attention_high (d := { s.desk with inputs := f s.desk.inputs }) none_

end Tells

end Tells

end Sys2Proof.Machine


namespace Sys2Proof.Machine

open Sys2Proof

/-! ## The blocks' parts of RESTART (R24, R65, R95, R118, R140, R179) -/

section Parts

variable {s t : State} {n : Nat}

/-! ### Passes -/

/-- How many passes of a list are under way. -/
def passesUnderWay (l : List (Option Pass)) : Nat := l.countP fun o => o.any Pass.underWay

theorem restartOutbound_goes {p : Pass} (goes : p.underWay = true) (next : Nat) (rest : List (Option Pass)) :
    restartOutbound next (some p :: rest) =
      (some (p.restarted next) :: (restartOutbound (next + 1) rest).1, (restartOutbound (next + 1) rest).2) := if_pos goes

theorem restartOutbound_stays {p : Pass} (stays : ¬p.underWay = true) (next : Nat) (rest : List (Option Pass)) :
    restartOutbound next (some p :: rest) = (some p :: (restartOutbound next rest).1, (restartOutbound next rest).2) := if_neg stays

theorem restartOutbound_next (next : Nat) (l : List (Option Pass)) : (restartOutbound next l).2 = next + passesUnderWay l := by
  induction l generalizing next with
  | nil => rfl
  | cons o rest ih =>
    cases o with
    | none =>
      show (restartOutbound next rest).2 = _
      rw [ih, passesUnderWay, passesUnderWay, List.countP_cons_of_neg (by simp)]
    | some p =>
      by_cases goes : p.underWay = true
      · rw [restartOutbound_goes goes]
        dsimp only
        rw [ih, passesUnderWay, passesUnderWay, List.countP_cons_of_pos (by simpa using goes)]
        omega
      · rw [restartOutbound_stays goes]
        dsimp only
        rw [ih, passesUnderWay, passesUnderWay, List.countP_cons_of_neg (by simpa using goes)]

/-- An entry that holds a pass: one under way ends, after those below it. -/
theorem restartOutbound_get (next : Nat) (l : List (Option Pass)) {p : Pass} (here : l[n]? = some (some p)) :
    (restartOutbound next l).1[n]? =
      some (some (if p.underWay then p.restarted (next + passesUnderWay (l.take n)) else p)) := by
  induction l generalizing next n with
  | nil => cases here
  | cons o rest ih =>
    cases n with
    | zero =>
      cases here
      by_cases goes : p.underWay = true
      · rw [restartOutbound_goes goes, if_pos goes]
        rfl
      · rw [restartOutbound_stays goes, if_neg goes]
        rfl
    | succ n =>
      have here : rest[n]? = some (some p) := here
      cases o with
      | none =>
        show (restartOutbound next rest).1[n]? = _
        rw [ih next here, passesUnderWay, passesUnderWay, List.take_succ_cons, List.countP_cons_of_neg (by simp)]
      | some q =>
        by_cases goes : q.underWay = true
        · rw [restartOutbound_goes goes]
          show (restartOutbound (next + 1) rest).1[n]? = _
          rw [ih (next + 1) here, passesUnderWay, passesUnderWay, List.take_succ_cons, List.countP_cons_of_pos (by simpa using goes),
            Nat.add_assoc, Nat.add_comm 1]
        · rw [restartOutbound_stays goes]
          show (restartOutbound next rest).1[n]? = _
          rw [ih next here, passesUnderWay, passesUnderWay, List.take_succ_cons, List.countP_cons_of_neg (by simpa using goes)]

/-- A pass under way is one more than those below it. -/
theorem passesUnderWay_take {l : List (Option Pass)} {m : Nat} {q : Pass} (here : l[m]? = some (some q)) (goes : q.underWay = true)
    (low : m < n) : passesUnderWay (l.take m) < passesUnderWay (l.take n) := by
  obtain ⟨inside, is⟩ := List.getElem?_eq_some_iff.mp here
  have one : passesUnderWay (l.take (m + 1)) = passesUnderWay (l.take m) + 1 := by
    unfold passesUnderWay
    rw [List.take_succ_eq_append_getElem inside, List.countP_append, is, List.countP_singleton, if_pos (by simpa using goes)]
  have more : passesUnderWay (l.take (m + 1)) ≤ passesUnderWay (l.take n) :=
    ((List.take_prefix_take_left (l := l) (by omega)).sublist).countP_le
  omega

/-! ### The store -/

theorem Store.release_pool (entry : Nat) (st : Store) :
    (Store.release entry st).pool = ((st.reservations.getD entry none).getD []) ++ st.pool ∧
      (Store.release entry st).reservations = st.reservations.set entry none ∨
    st.reservations.getD entry none = none ∧ Store.release entry st = st := by
  unfold Store.release
  cases st.reservations.getD entry none with
  | none => exact .inr ⟨rfl, rfl⟩
  | some blocks => exact .inl ⟨by simp [Store.giveBack], rfl⟩

theorem Store.release_rest (entry : Nat) (st : Store) :
    (Store.release entry st).stories = st.stories ∧ (Store.release entry st).text = st.text ∧
      (Store.release entry st).serial = st.serial := by
  unfold Store.release
  split <;> exact ⟨rfl, rfl, rfl⟩

theorem Store.restart_reservations {st : Store} {a b : Option (List Nat)} (two : st.reservations = [a, b]) :
    st.restart.reservations = [none, none] ∧ st.restart.pool = b.getD [] ++ (a.getD [] ++ st.pool) := by
  have first : (Store.release 0 st).reservations = [none, b] ∧ (Store.release 0 st).pool = a.getD [] ++ st.pool := by
    rcases Store.release_pool 0 st with ⟨pool, reservations⟩ | ⟨none_, same⟩
    · rw [pool, reservations, two]
      exact ⟨rfl, rfl⟩
    · rw [two] at none_
      obtain rfl : a = none := none_
      rw [same, two]
      exact ⟨rfl, rfl⟩
  obtain ⟨reservations, pool⟩ := first
  show (Store.release 1 (Store.release 0 st)).reservations = _ ∧ (Store.release 1 (Store.release 0 st)).pool = _
  rcases Store.release_pool 1 (Store.release 0 st) with ⟨pool', reservations'⟩ | ⟨none_, same⟩
  · rw [pool', reservations', reservations, pool]
    exact ⟨rfl, rfl⟩
  · rw [reservations] at none_
    obtain rfl : b = none := none_
    rw [same, reservations, pool]
    exact ⟨rfl, rfl⟩

theorem Store.restart_rest (st : Store) :
    st.restart.stories = st.stories.map Story.restarted ∧ st.restart.text = st.text ∧ st.restart.serial = st.serial ∧
      st.restart.substitutions = 0 := by
  obtain ⟨_, text, serial⟩ := Store.release_rest 1 (Store.release 0 st)
  obtain ⟨_, text', serial'⟩ := Store.release_rest 0 st
  exact ⟨rfl, text.trans text', serial.trans serial', rfl⟩

/-! ### The fit engine -/

/-- A story but for its fit record. -/
def Story.bare (r : Story) : Story := { r with fit := none }

theorem State.restartFit_rest (s : State) :
    ∃ st : Store,
      s.restartFit = { s with store := st, fit := { s.fit with queue := [], run := none, waiting := none, last := none } } ∧
        st = { s.store with stories := st.stories } ∧ st.stories.map Story.bare = s.store.stories.map Story.bare ∧
        ((∀ record n b c, s.fit.run ≠ some (.storing record n b c)) → st = s.store) := by
  have changes (k : Key) (f : Option FitRecord) :
      ((Store.change k (fun r => { r with fit := f }) s.store).stories.map Story.bare) = s.store.stories.map Story.bare := by
    show (s.store.stories.map _).map _ = _
    rw [List.map_map]
    refine List.map_congr_left fun r _ => ?_
    show Story.bare (if r.key = k then _ else _) = _
    split <;> rfl
  have stored (k : Key) (record : FitRecord) (widths text : Bool) :
      ∃ st : Store, (s.storeRecord k record widths text).1 = { s with store := st } ∧ st = { s.store with stories := st.stories } ∧
        st.stories.map Story.bare = s.store.stories.map Story.bare := by
    unfold State.storeRecord
    split
    · exact ⟨s.store, rfl, rfl, rfl⟩
    · split
      · exact ⟨s.store, rfl, rfl, rfl⟩
      · split
        · exact ⟨_, rfl, rfl, changes k none⟩
        · exact ⟨_, rfl, rfl, changes k (some record)⟩
  unfold State.restartFit
  split
  · next record _ widths text q _ run _ =>
    obtain ⟨st, is, rest, bare⟩ := stored q.key record widths text
    rw [is]
    exact ⟨st, rfl, rest, bare, fun none_ => absurd run (none_ _ _ _ _)⟩
  · exact ⟨s.store, rfl, rfl, rfl, fun _ => rfl⟩

end Parts

end Sys2Proof.Machine


namespace Sys2Proof.Machine

open Sys2Proof

namespace Tells

variable {s t : State}

/-! Changes of a block that no telling touches, before and after. -/

theorem onPass (f : PassEngine → PassEngine) (h : Tells s t) : Tells (s.onPass f) (t.onPass f) := by
  refine ⟨?_, h.port, h.windows, h.attention⟩
  have rest := congrArg (State.onPass f) h.rest
  exact rest

theorem onPage (f : PageEngine → PageEngine) (h : Tells s t) : Tells (s.onPage f) (t.onPage f) := by
  refine ⟨?_, h.port, h.windows, h.attention⟩
  have rest := congrArg (State.onPage f) h.rest
  exact rest

theorem onClock (f : Clock → Clock) (h : Tells s t) : Tells (s.onClock f) (t.onClock f) := by
  refine ⟨?_, h.port, h.windows, h.attention⟩
  have rest := congrArg (State.onClock f) h.rest
  exact rest

end Tells

/-! ## The blocks after RESTART (R195) -/

section Blocks

variable {s : State}

/-- The line section and the line traffic after RESTART (R47, R65). -/
def State.lineCleared (s : State) : State :=
  { s with
      traffic := Traffic.reset,
      line :=
        { state := .joining, recorded := none, quiet := 0, join := 0, recessive := 0, dominantRun := s.line.dominantRun,
          receiving := false, slot := .neither } }

theorem State.restartLine_tells (s : State) :
    Tells s.lineCleared s.restartLine ∧ s.restartLine.desk.inputs.planned = s.desk.inputs.planned := by
  unfold State.restartLine State.enterJoining State.enterLine
  dsimp only
  split
  · exact ⟨Tells.refl _, rfl⟩
  · refine ⟨?_, ?_⟩
    · unfold State.tellLine
      exact (Tells.tellStatus (fun x => { x with line := .joining }) _).trans (Tells.tellDesk _ _)
    rw [State.tellLine, State.tellDesk, State.onDesk_desk, Desk.refresh_inputs, State.tellStatus_desk]
    rfl

theorem State.tellOffers_tells (s : State) :
    Tells s s.tellOffers ∧ s.tellOffers.desk.inputs = { s.desk.inputs with offers := s.pass.offers.length } := by
  unfold State.tellOffers
  dsimp only
  refine ⟨(Tells.tellStatus (fun x => { x with offers := s.pass.offers.length }) s).trans (Tells.tellDesk _ _), ?_⟩
  rw [State.tellDesk, State.onDesk_desk, Desk.refresh_inputs, State.tellStatus_desk]

theorem State.plansEnter_tells (l : List Plan) (s : State) :
    Tells s (l.foldl (fun s p => s.planEnters p.edition) s) ∧
      (l.foldl (fun s p => s.planEnters p.edition) s).desk.inputs.offers = s.desk.inputs.offers := by
  refine ⟨Tells.foldl (fun s p => Tells.tellDesk _ s) l s, ?_⟩
  induction l generalizing s with
  | nil => rfl
  | cons p rest ih =>
    rw [List.foldl_cons, ih, State.planEnters, State.tellDesk, State.onDesk_desk, Desk.refresh_inputs]

/-- The plans after RESTART, before the desk unit is told of them. -/
def PageEngine.cleared (e : PageEngine) : PageEngine := { PageEngine.reset with plans := e.plans.map (Option.map Plan.restarted) }

/-- What RESTART has left of the blocks once they have told each other. -/
structure BlocksCleared (s : State) (st : Store) (t : State) : Prop where
  tells :
    Tells
      { s with
          store := st.restart, port := s.port.restart, traffic := Traffic.reset,
          line :=
            { state := .joining, recorded := none, quiet := 0, join := 0, recessive := 0, dominantRun := s.line.dominantRun,
              receiving := false, slot := .neither },
          pass := s.pass.restart, fit := { s.fit with queue := [], run := none, waiting := none, last := none },
          page := s.page.cleared, clock := { s.clock with nextMark := none } } t
  rest : st = { s.store with stories := st.stories }
  bare : st.stories.map Story.bare = s.store.stories.map Story.bare
  same : (∀ record n b c, s.fit.run ≠ some (.storing record n b c)) → st = s.store
  offers : t.desk.inputs.offers = 0
  planned : (∀ p, some p ∈ s.page.plans → ¬p.state.underWay = true) → t.desk.inputs.planned = s.desk.inputs.planned

/-- The blocks' parts up to the screen unit's own. -/
def State.blocksTold (s : State) : State :=
  let s := s.restartFit
  let s := (s.onStore Store.restart).onPort Port.restart
  let s := s.restartLine
  let s := (s.onPass PassEngine.restart).tellOffers
  let s := s.restartPage
  let s := s.onClock fun c => { c with nextMark := none }
  s.tellStatus fun x => { x with desk := .onLine }

theorem State.blocksTold_cleared (s : State) : ∃ st, BlocksCleared s st s.blocksTold := by
  obtain ⟨st, fit, rest, bare, same⟩ := State.restartFit_rest s
  refine ⟨st, ?_⟩
  have first : (s.restartFit.onStore Store.restart).onPort Port.restart =
      { s with
          store := st.restart, port := s.port.restart, fit := { s.fit with queue := [], run := none, waiting := none, last := none } } := by
    rw [fit]
    rfl
  unfold State.blocksTold
  dsimp only
  rw [first]
  obtain ⟨line, linePlanned⟩ := State.restartLine_tells
    { s with
        store := st.restart, port := s.port.restart, fit := { s.fit with queue := [], run := none, waiting := none, last := none } }
  have linePages : (State.restartLine
    { s with
        store := st.restart, port := s.port.restart, fit := { s.fit with queue := [], run := none, waiting := none, last := none } }).page =
      s.page := by rw [line.rest]; rfl
  generalize State.restartLine
    { s with
        store := st.restart, port := s.port.restart, fit := { s.fit with queue := [], run := none, waiting := none, last := none } } = a at *
  obtain ⟨offers, offersInputs⟩ := State.tellOffers_tells (a.onPass PassEngine.restart)
  have pass := (line.onPass PassEngine.restart).trans offers
  have passPages : (a.onPass PassEngine.restart).tellOffers.page = s.page := by
    rw [offers.rest]
    exact linePages
  have passOffers : (a.onPass PassEngine.restart).tellOffers.desk.inputs.offers = 0 := by
    rw [offersInputs]
    rfl
  have passPlanned : (a.onPass PassEngine.restart).tellOffers.desk.inputs.planned = s.desk.inputs.planned := by
    rw [offersInputs]
    exact linePlanned
  generalize (a.onPass PassEngine.restart).tellOffers = b at *
  obtain ⟨plans, plansOffers⟩ := State.plansEnter_tells (b.page.plans.filterMap fun o => o.filter fun p => p.state.underWay)
    (b.onPage PageEngine.cleared)
  have page := (pass.onPage PageEngine.cleared).trans plans
  have pagePlanned : (∀ p, some p ∈ s.page.plans → ¬p.state.underWay = true) →
      b.restartPage.desk.inputs.planned = s.desk.inputs.planned := fun none_ => by
    have returned : (b.page.plans.filterMap fun o => o.filter fun p => p.state.underWay) = [] := by
      rw [passPages]
      refine List.filterMap_eq_nil_iff.mpr fun o mem => ?_
      cases o with
      | none => rfl
      | some p => exact Option.filter_some_neg (Bool.eq_false_iff.mpr (none_ p mem))
    unfold State.restartPage
    dsimp only
    rw [returned]
    exact passPlanned
  have pageOffers : b.restartPage.desk.inputs.offers = 0 := plansOffers.trans passOffers
  have page : Tells _ b.restartPage := page
  generalize b.restartPage = c at *
  have clock := page.onClock fun c => { c with nextMark := none }
  have status := Tells.tellStatus (fun x => { x with desk := .onLine }) (c.onClock fun c => { c with nextMark := none })
  have desk := State.tellStatus_desk (fun x => { x with desk := .onLine }) (c.onClock fun c => { c with nextMark := none })
  generalize (c.onClock fun c => { c with nextMark := none }).tellStatus (fun x => { x with desk := .onLine }) = d at *
  exact {
    tells := clock.trans status
    rest := rest
    bare := bare
    same := same
    offers := by rw [desk]; exact pageOffers
    planned := fun none_ => by rw [desk]; exact pagePlanned none_ }

end Blocks

/-! ## The rows after RESTART (R179) -/

section Rows

variable {s : State} {n : Nat} {w : Window}

/-- Every enabled window has row 0 to be staged, or has a row staged. -/
def State.nothingToBuild (s : State) : Prop :=
  ∀ (n : Nat) (w : Window), n < s.screenCount → s.screen.windows[n]? = some w → w.staging ≠ .empty ∨ w.nextRow = some 0

theorem Window.staged_or_first (h : w.staging ≠ .empty ∨ w.nextRow = some 0) : w.waitsForBuilder = false :=
  h.elim Window.waits_of_staged fun next => Window.waits_of_noAccess next rfl

theorem State.nothingToBuild_chooses (h : s.nothingToBuild) : s.chooseLane = s := by
  have none_ : s.nextLane = none := by
    unfold State.nextLane
    refine List.find?_eq_none.mpr fun n _ => ?_
    intro waits
    obtain ⟨low, waits⟩ := Bool.and_eq_true .. |>.mp waits
    obtain ⟨w, here, waits⟩ := (Option.any_eq_true _ _).mp waits
    rw [Window.staged_or_first (h n w (of_decide_eq_true low) here)] at waits
    cases waits
  unfold State.chooseLane
  rw [none_]
  split <;> rfl

theorem State.stageAtOnce_rest (m : Nat) (s : State) :
    s.stageAtOnce m = { s with screen := { s.screen with windows := (s.stageAtOnce m).screen.windows } } := by
  unfold State.stageAtOnce
  repeat' split
  all_goals rfl

theorem State.stageAtOnce_nothing (m : Nat) (h : s.nothingToBuild) : (s.stageAtOnce m).nothingToBuild := by
  intro n w low here
  have low : n < s.screenCount := by
    rw [State.stageAtOnce_rest] at low
    exact low
  by_cases same : m = n
  · subst same
    cases was : s.screen.windows[m]? with
    | none =>
      have is : s.stageAtOnce m = s := by
        unfold State.stageAtOnce
        rw [was]
      rw [is, was] at here
      cases here
    | some v =>
      by_cases ready : v.staging = .empty
      · have next := (h m v low was).resolve_left (not_not.mpr ready)
        rw [State.stageAtOnce_stages was ready next rfl] at here
        cases here
        exact .inl nofun
      · rw [State.stageAtOnce_staged was ready, was] at here
        cases here
        exact .inl ready
  · rw [State.stageAtOnce_other s same] at here
    exact h n w low here

/-- With nothing to build, the rows follow in the windows alone. -/
theorem State.settleRows_windows (h : s.nothingToBuild) :
    s.settleRows = { s with screen := { s.screen with windows := s.settleRows.screen.windows } } := by
  refine (State.settleRows_induct (P := fun t => t.nothingToBuild ∧ t = { s with screen := { s.screen with windows := t.screen.windows } })
    (fun m t ht => ⟨State.stageAtOnce_nothing m ht.1, ?_⟩) (fun t ht => ?_) ⟨h, rfl⟩).2
  · have rest := State.stageAtOnce_rest m t
    generalize t.stageAtOnce m = u at *
    rw [ht.2] at rest
    exact rest
  · rw [State.nothingToBuild_chooses ht.1]
    exact ht

end Rows

end Sys2Proof.Machine


namespace Sys2Proof.Machine

open Sys2Proof

/-! ## RESTART (R195) -/

section Restart

variable {s b : State} {st : Store} {held : Key → Bool} {n : Nat} {w : Window}

/-- RESTART's response, at once or for the access of the port. -/
def State.restartReply (s : State) : State :=
  if s.port.busy.isSome then s.onDesk fun d => { d with op := .restarting } else s.done .nothing

/-- The story of a key is HELD. -/
def State.holds (s : State) (k : Key) : Bool := (s.story k).any Story.isHeld

theorem State.restart_eq (s : State) :
    s.restart = ((s.restartDesk.blocksTold.restartScreen s.restartDesk.holds).restartReply).settleRows := rfl

theorem State.restartReply_rest (s : State) :
    s.restartReply = { s with desk := s.restartReply.desk } ∧
      s.restartReply.desk = { s.desk with op := s.restartReply.desk.op, response := s.restartReply.desk.response } := by
  unfold State.restartReply
  split <;> exact ⟨rfl, rfl⟩

/-- The desk unit's part of RESTART. -/
theorem State.restartDesk_desk (s : State) :
    s.restartDesk = { s with desk := s.restartDesk.desk } ∧
      s.restartDesk.desk =
        { s.desk with
            notices := 0#18, missed := 0, state := .onLine, tendTimer := some 10000, attention := true,
            lamp := s.restartDesk.desk.lamp, lit := s.restartDesk.desk.lit } := by
  refine ⟨rfl, ?_⟩
  have high : s.restartDesk.desk.attention = true := by
    unfold State.restartDesk
    rw [State.onDesk_desk, Desk.refresh_attention]
    exact Desk.attention_high rfl
  obtain ⟨attention, lamp, lit, outputs⟩ := Desk.refresh_outputs
    { s.desk with notices := 0#18, missed := 0, state := .onLine, tendTimer := some firstWindow }
  have desk : s.restartDesk.desk = _ := outputs
  rw [desk] at high
  rw [desk, show attention = true from high]
  rfl

theorem Window.restarted_view {v : Window} (same : v.view = w.view) (held : Bool) : v.restarted held = w.restarted held := by
  have key : v.key = w.key := congrArg (·.1) same
  have mode : v.mode = w.mode := congrArg (·.2.1) same
  have top : v.top = w.top := congrArg (·.2.2.1) same
  have cursor : v.cursor = w.cursor := congrArg (·.2.2.2) same
  unfold Window.restarted
  rw [key, mode, top, cursor]

/-- An enabled window after RESTART. -/
theorem State.restartScreen_get (low : n < s.screenCount) (here : s.screen.windows[n]? = some w) :
    (s.restartScreen held).screen.windows[n]? = some (w.restarted (w.key.any held)) := by
  show (((s.screen.windows.take s.screenCount).map fun w => w.restarted (w.key.any held)) ++ s.screen.windows.drop s.screenCount)[n]? = _
  obtain ⟨inside, _⟩ := List.getElem?_eq_some_iff.mp here
  rw [List.getElem?_append_left (by rw [List.length_map, List.length_take]; omega), List.getElem?_map, List.getElem?_take_of_lt low, here,
    Option.map_some]

theorem Window.restarted_first (held : Bool) (w : Window) : (w.restarted held).nextRow = some 0 := Window.nextRow_of_head rfl

theorem State.restartScreen_nothing (record : b.desk.record = s.desk.record) (screen : b.screen = (s.restartScreen held).screen) :
    b.nothingToBuild := by
  intro n w low here
  have low : n < s.screenCount := by
    unfold State.screenCount at low ⊢
    rw [← record]
    exact low
  rw [screen] at here
  have was : ∃ v, s.screen.windows[n]? = some v := by
    cases was : s.screen.windows[n]? with
    | some v => exact ⟨v, rfl⟩
    | none =>
      have short := List.getElem?_eq_none_iff.mp was
      obtain ⟨inside, _⟩ := List.getElem?_eq_some_iff.mp here
      have length : (s.restartScreen held).screen.windows.length = s.screen.windows.length := by
        show (((s.screen.windows.take s.screenCount).map fun w => w.restarted (w.key.any held)) ++ s.screen.windows.drop s.screenCount).length = _
        rw [List.length_append, List.length_map, List.length_take, List.length_drop]
        omega
      omega
  obtain ⟨v, was⟩ := was
  rw [State.restartScreen_get low was] at here
  cases here
  exact .inr (Window.restarted_first _ _)

/-- The state RESTART leaves: the blocks cleared, the screen unit's part, the reply, and the rows. -/
structure RestartLeaves (s : State) (st : Store) (t : State) : Prop where
  store : t.store = st.restart
  port : t.port = s.port.restart
  line :
    t.line =
      { state := .joining, recorded := none, quiet := 0, join := 0, recessive := 0, dominantRun := s.line.dominantRun,
        receiving := false, slot := .neither }
  traffic : t.traffic = Traffic.reset
  pass : t.pass = s.pass.restart
  fit : t.fit = { s.fit with queue := [], run := none, waiting := none, last := none }
  page : t.page = s.page.cleared
  clock : t.clock = { s.clock with nextMark := none }
  windows : ∀ (n : Nat) (w : Window), n < s.screenCount → s.screen.windows[n]? = some w →
    t.screen.windows[n]? =
      some
        ((w.restarted (w.key.any s.holds)).stage (t.statusRow (w.restarted (w.key.any s.holds)).mode))
  screen :
    t.screen =
      { windows := t.screen.windows, lanes := s.screen.lanes.map fun l => { l with rows := 0, keeps := 0 }, timer := s.screen.timer,
        build := none, lastServed := 7, flash := s.screen.flash, lastFlash := none,
        status := { line := .joining, offers := 0, desk := .onLine, current := some (currentOf s.clock.editions) } }
  desk :
    t.desk =
      { s.desk with
          notices := 0#18, missed := 0, state := .onLine, tendTimer := some 10000, attention := true, inputs := t.desk.inputs,
          lamp := t.desk.lamp, lit := t.desk.lit, op := t.desk.op, response := t.desk.response }
  offers : t.desk.inputs.offers = 0
  planned : (∀ p, some p ∈ s.page.plans → ¬p.state.underWay = true) → t.desk.inputs.planned = s.desk.inputs.planned
  waits : s.port.busy ≠ none → t.desk.op = .restarting ∧ t.desk.response = s.desk.response
  answers : s.port.busy = none →
    t.desk.response = some { name := s.desk.command.getD 0#8, result := .done, field := none, data := .nothing }

theorem State.restart_leaves (s : State) :
    ∃ st : Store, RestartLeaves s st s.restart ∧ st = { s.store with stories := st.stories } ∧
      st.stories.map Story.bare = s.store.stories.map Story.bare ∧
      ((∀ record n b c, s.fit.run ≠ some (.storing record n b c)) → st = s.store) := by
  obtain ⟨unit, desk⟩ := State.restartDesk_desk s
  rw [State.restart_eq]
  generalize s.restartDesk = d at *
  have holds : d.holds = s.holds := by rw [unit]; rfl
  rw [holds]
  obtain ⟨st, cleared⟩ := State.blocksTold_cleared d
  have told := cleared.tells.rest
  have port : d.blocksTold.port = d.port.restart := cleared.tells.port (Port.restart_cleared _)
  have views : d.blocksTold.screen.windows.map Window.view = d.screen.windows.map Window.view := cleared.tells.windows
  have high : d.blocksTold.desk.attention = true := cleared.tells.attention (by rw [desk]) (by rw [desk])
  have offers := cleared.offers
  have planned := cleared.planned
  have screens : d.blocksTold.screenCount = s.screenCount := by
    unfold State.screenCount
    rw [told, desk]
  refine ⟨st, ?_, by rw [cleared.rest, unit], by rw [cleared.bare, unit], fun none_ => by rw [cleared.same (by rw [unit]; exact none_), unit]⟩
  generalize d.blocksTold = b at *
  have current : b.current = currentOf s.clock.editions := by
    unfold State.current
    rw [told, unit]
  have line : b.line.state = .joining := by rw [told]
  have get {n : Nat} {w : Window} (low : n < s.screenCount) (here : s.screen.windows[n]? = some w) :
      (b.restartScreen s.holds).screen.windows[n]? = some (w.restarted (w.key.any s.holds)) := by
    have mapped : (b.screen.windows[n]?).map Window.view = some w.view := by
      rw [← List.getElem?_map, views, List.getElem?_map, unit, here]
      rfl
    obtain ⟨v, there, same⟩ := Option.map_eq_some_iff.mp mapped
    rw [State.restartScreen_get (by rw [screens]; exact low) there, Window.restarted_view same,
      show v.key = w.key from congrArg (·.1) same]
  have busy : (b.restartScreen s.holds).port.busy.isSome = s.port.busy.isSome := by
    rw [show (b.restartScreen s.holds).port = b.port from rfl, port, unit]
    exact Option.isSome_map
  have screen : (b.restartScreen s.holds).screen =
      { windows := (b.restartScreen s.holds).screen.windows, lanes := s.screen.lanes.map fun l => { l with rows := 0, keeps := 0 },
        timer := s.screen.timer, build := none, lastServed := 7, flash := s.screen.flash, lastFlash := none,
        status := { line := .joining, offers := 0, desk := .onLine, current := some (currentOf s.clock.editions) } } := by
    have is : (b.restartScreen s.holds).screen =
        { b.screen with
            windows := (b.restartScreen s.holds).screen.windows, lanes := b.screen.lanes.map fun l => { l with rows := 0, keeps := 0 },
            build := none, lastServed := 7, lastFlash := none,
            status := { line := b.line.state, offers := 0, desk := .onLine, current := some b.current } } := rfl
    rw [current, line] at is
    rw [is, told, unit]
  have rest : b.restartScreen s.holds = { b with screen := (b.restartScreen s.holds).screen } := rfl
  have reply : s.port.busy ≠ none → (b.restartScreen s.holds).restartReply.desk = { b.desk with op := .restarting } := fun some_ => by
    unfold State.restartReply
    rw [if_pos (by rw [busy]; exact Option.isSome_iff_ne_none.mpr some_)]
    rfl
  have answer : s.port.busy = none → (b.restartScreen s.holds).restartReply.desk =
      { b.desk with
          op := .idle, response := some { name := b.desk.command.getD 0#8, result := .done, field := none, data := .nothing } } := fun none_ => by
    unfold State.restartReply
    rw [if_neg (by rw [busy, none_]; exact Bool.false_ne_true)]
    rfl
  have nothing := State.restartScreen_nothing (s := b) (b := (b.restartScreen s.holds).restartReply) (held := s.holds)
    (by rw [(State.restartReply_rest _).2]; rfl) (by rw [(State.restartReply_rest _).1])
  obtain ⟨replied, repliedDesk⟩ := State.restartReply_rest (b.restartScreen s.holds)
  generalize b.restartScreen s.holds = r at *
  generalize r.restartReply = x at *
  have rows := State.settleRows_windows nothing
  have staged {n : Nat} {w : Window} (low : n < s.screenCount) (here : s.screen.windows[n]? = some w) :=
    State.settleRows_stages (s := x) (n := n) (r := 0) (w := w.restarted (w.key.any s.holds))
      (by
        rw [show x.screenCount = s.screenCount by
          unfold State.screenCount at screens ⊢
          rw [repliedDesk, rest]
          exact screens]
        exact low) (by rw [replied]; exact get low here) rfl (Window.restarted_first _ _) rfl
  have statusRow := (State.settleRows_follows x).statusRow
  generalize x.settleRows = t at *
  have tDesk : t.desk = x.desk := by rw [rows]
  have deskAll : x.desk =
      { s.desk with
          notices := 0#18, missed := 0, state := .onLine, tendTimer := some 10000, attention := true, inputs := x.desk.inputs,
          lamp := x.desk.lamp, lit := x.desk.lit, op := x.desk.op, response := x.desk.response } := by
    have bDesk : b.desk = { d.desk with inputs := b.desk.inputs, attention := true, lamp := b.desk.lamp, lit := b.desk.lit } := by
      rw [← high]
      exact congrArg State.desk told
    rw [rest] at repliedDesk
    rw [desk] at bDesk
    rw [repliedDesk, bDesk]
  have inputs : x.desk.inputs = b.desk.inputs := by rw [repliedDesk, rest]
  have blocks : t.store = b.store ∧ t.port = b.port ∧ t.line = b.line ∧ t.traffic = b.traffic ∧ t.pass = b.pass ∧ t.fit = b.fit ∧
      t.page = b.page ∧ t.clock = b.clock := by
    rw [rows, replied, rest]
    exact ⟨rfl, rfl, rfl, rfl, rfl, rfl, rfl, rfl⟩
  obtain ⟨tStore, tPort, tLine, tTraffic, tPass, tFit, tPage, tClock⟩ := blocks
  exact {
    store := by rw [tStore, told]
    port := by rw [tPort, port, unit]
    line := by rw [tLine, told, unit]
    traffic := by rw [tTraffic, told]
    pass := by rw [tPass, told, unit]
    fit := by rw [tFit, told, unit]
    page := by rw [tPage, told, unit]
    clock := by rw [tClock, told, unit]
    windows := fun n w low here => by
      rw [staged low here, if_pos rfl, statusRow]
    screen := by
      have same : t.screen = { r.screen with windows := t.screen.windows } := by
        rw [replied] at rows
        exact congrArg State.screen rows
      rw [screen] at same
      exact same
    desk := by rw [tDesk]; exact deskAll
    offers := by rw [tDesk, inputs]; exact offers
    planned := fun none_ => by
      rw [tDesk, inputs, planned (by rw [unit]; exact none_), desk]
    waits := fun some_ => by
      rw [tDesk, reply some_]
      refine ⟨rfl, ?_⟩
      have response : b.desk.response = d.desk.response := by rw [told]
      rw [response, desk]
    answers := fun none_ => by
      rw [tDesk, answer none_]
      have command : b.desk.command = d.desk.command := by rw [told]
      rw [command, desk] }

end Restart

end Sys2Proof.Machine


namespace Sys2Proof.Machine

open Sys2Proof

section Fields

variable {s t : State} {st : Store}

theorem RestartLeaves.screen_fields (h : RestartLeaves s st t) :
    t.screen.lanes = (s.screen.lanes.map fun l => { l with rows := 0, keeps := 0 }) ∧ t.screen.timer = s.screen.timer ∧
      t.screen.build = none ∧ t.screen.lastServed = 7 ∧ t.screen.flash = s.screen.flash ∧ t.screen.lastFlash = none ∧
      t.screen.status = { line := .joining, offers := 0, desk := .onLine, current := some (currentOf s.clock.editions) } := by
  rw [h.screen]
  exact ⟨rfl, rfl, rfl, rfl, rfl, rfl, rfl⟩

theorem RestartLeaves.desk_fields (h : RestartLeaves s st t) :
    t.desk.state = .onLine ∧ t.desk.notices = 0#18 ∧ t.desk.attention = true ∧ t.desk.missed = 0 ∧ t.desk.tendTimer = some 10000 ∧
      t.desk.record = s.desk.record ∧ t.desk.station = s.desk.station ∧ t.desk.ready = s.desk.ready ∧
      t.desk.command = s.desk.command := by
  rw [h.desk]
  exact ⟨rfl, rfl, rfl, rfl, rfl, rfl, rfl, rfl, rfl⟩

end Fields

/-- Settles O56: the blocks cleared one by one, and the accesses that end set aside. -/
theorem restarted : Obligations.Restarted := by
  unfold Obligations.Restarted
  refine ⟨fun a upsets s busy aside => ?_, fun s hears => ?_⟩
  · intro x answers
    refine ⟨fun row mine => ⟨exec_readAside busy aside row mine, State.endRead_answers s⟩, fun n row mine => ?_,
      fun n p i codes purpose first gone => ?_⟩
    · have follows := State.settleSlips_slip x.1
      refine ⟨_, exec_slipReadAside busy aside row mine, follows, restartAnswered_of_desk (t := x.1) (State.endRead_answers s) ?_⟩
      rw [follows.rest]
    · intro legal
      have runs := exec_slipWriteAside busy aside purpose first gone
      have ended : restartAnswered s ({ s with
          store :=
            { s.store with
                text := writeCodes a.block 0 (codes.map fun c => if legal c then c else 0x3F#8) s.store.text,
                marks := s.store.marks.filter (· ≠ a.block),
                substitutions := min 65535 (s.store.substitutions + codes.countP fun c => !legal c) },
          port := s.port.complete, desk := s.desk.accessEnded } : State) := restartAnswered_of_ended rfl rfl rfl rfl
      have follows := State.settleSlips_slip ({ s with
          store :=
            { s.store with
                text := writeCodes a.block 0 (codes.map fun c => if legal c then c else 0x3F#8) s.store.text,
                marks := s.store.marks.filter (· ≠ a.block),
                substitutions := min 65535 (s.store.substitutions + codes.countP fun c => !legal c) },
          port := s.port.complete, desk := s.desk.accessEnded } : State)
      refine ⟨_, _, runs, State.settleRows_follows _, ?_, fun other => ?_, fun restarting => ?_, ?_⟩
      · have desk := congrArg State.desk follows.rest
        rw [desk]
        exact follows
      · rw [follows.rest]
        exact Desk.accessEnded_other other
      · rw [follows.rest]
        exact Desk.accessEnded_restarting restarting
      · refine restartAnswered_of_desk ended ?_
        rw [(State.settleRows_follows _).desk, follows.rest]
  · intro bare after underWay held
    obtain ⟨st, leaves, rest, bares, same⟩ := State.restart_leaves (s.takeTransfer (nameByte .restart))
    have taken : exec .restart s = .next (s.takeTransfer (nameByte .restart)).restart :=
      congrArg Host.Outcome.next (State.command_of_hearsHost hears (by decide))
    generalize (s.takeTransfer (nameByte .restart)).restart = t at *
    obtain ⟨stories, text, serial, substitutions⟩ := Store.restart_rest st
    have going (p : Plan) : p.state.underWay = true ↔ underWay p := underWay_iff
    have restartedPlan (p : Plan) : p.restarted =
        if p.state = .queued ∨ p.state = .fitting ∨ p.state = .sending then
          { p with state := .planned, placements := p.placements.map fun q => { q with stale := 0, result := none } }
        else p := if_congr (going p) rfl rfl
    obtain ⟨lanes, timer, build, lastServed, flash, lastFlash, status⟩ := leaves.screen_fields
    obtain ⟨state, notices, attention, missed, tendTimer, record, station, ready, command⟩ := leaves.desk_fields
    refine ⟨t, taken, ?_, fun none_ => ?_, fun a b two => ?_, ?_, ?_, ?_, leaves.port, leaves.line, leaves.traffic, fun n p here => ?_,
      ?_, ?_, leaves.fit, ?_, leaves.clock, fun n w low here => ?_, lanes, timer,
      build, lastServed, flash, lastFlash,
      status, state, notices, attention,
      missed, tendTimer, record, station, leaves.offers,
      fun none_ => leaves.planned fun p mem goes => none_ p mem ((going p).mp goes), fun free => ?_, fun busy => ?_⟩
    · rw [leaves.store, stories, List.map_map]
      have through : bare ∘ Story.restarted = (fun r => bare (after r)) ∘ Story.bare := by
        funext r
        rfl
      rw [through, ← List.map_map, bares, List.map_map]
      rfl
    · rw [leaves.store, stories, same none_]
      rfl
    · rw [leaves.store]
      have st : st.reservations = [a, b] ∧ st.pool = s.store.pool := by
        rw [rest]
        exact ⟨two, rfl⟩
      rw [← st.2]
      exact Store.restart_reservations st.1
    · rw [leaves.store, text, rest]
      rfl
    · rw [leaves.store, serial, rest]
      rfl
    · rw [leaves.store, substitutions]
    · rw [leaves.pass]
      have got := restartOutbound_get s.pass.nextEnd s.pass.outbound here
      refine ⟨fun ended => ?_, fun goes => ⟨s.pass.nextEnd + passesUnderWay (s.pass.outbound.take n), Nat.le_add_right _ _, ?_, ?_,
        fun m q x low below goes' there => ?_⟩⟩
      · have stays : ¬p.underWay = true := by rw [Pass.underWay, ended]; decide
        rw [if_neg stays] at got
        exact got
      · have whole : n < s.pass.outbound.length := (List.getElem?_eq_some_iff.mp here).1
        have more := passesUnderWay_take (n := s.pass.outbound.length) here (decide_eq_true goes) whole
        rw [List.take_length] at more
        show _ < (restartOutbound s.pass.nextEnd s.pass.outbound).2
        rw [restartOutbound_next]
        omega
      · have isUnderWay : p.underWay = true := decide_eq_true goes
        rw [if_pos isUnderWay] at got
        exact got
      · have first := restartOutbound_get s.pass.nextEnd s.pass.outbound below
        have isUnderWay : q.underWay = true := decide_eq_true goes'
        rw [if_pos isUnderWay] at first
        obtain rfl := Option.some.inj (Option.some.inj (first.symm.trans there))
        have fewer := passesUnderWay_take below (decide_eq_true goes') low
        show s.pass.nextEnd + _ < _
        omega
    · rw [leaves.pass]
      rfl
    · rw [leaves.pass]
      rfl
    · rw [leaves.page]
      have plans : s.page.plans.map (Option.map Plan.restarted) = s.page.plans.map fun o => o.map fun p =>
          if p.state = .queued ∨ p.state = .fitting ∨ p.state = .sending then
            { p with state := .planned, placements := p.placements.map fun q => { q with stale := 0, result := none } }
          else p := by
        rw [funext restartedPlan]
      rw [← plans]
      rfl
    · refine ⟨if w.key.any s.holds then w.mode else .read, ?_, ?_⟩
      · have isHeld : w.key.any s.holds = true ↔ ∃ k, w.key = some k ∧ held k := by
          simp [Option.any_eq_true, State.holds, Story.isHeld, held]
        by_cases yes : w.key.any s.holds = true
        · rw [if_pos yes]
          exact ⟨fun edit => ⟨edit, isHeld.mp yes⟩, fun both => both.1⟩
        · rw [if_neg yes]
          exact ⟨nofun, fun both => absurd (isHeld.mpr both.2) yes⟩
      · exact leaves.windows n w low here
    · refine ⟨ready, command, ?_⟩
      exact leaves.answers free
    · obtain ⟨op, response⟩ := leaves.waits busy
      exact ⟨ready, command, op, response⟩

end Sys2Proof.Machine
